-- ==== Sys2Proof/Word.lean ====
section
/-! DEFINITION. Widths of the values the FVQ-9410 holds, and nothing else. -/

namespace Sys2Proof

/-- One byte of the device address space (R138). -/
abbrev Byte := BitVec 8

/-- A 64-bit register or descriptor word (R464, R298). -/
abbrev Word := BitVec 64

/-- A device address as it is computed, 48 bits (R138). A memory key is its `toNat`. -/
abbrev Addr := BitVec 48

/-- A 32-bit count, tag or FP32 image. -/
abbrev Word32 := BitVec 32

end Sys2Proof
end

