-- ==== Sys2Proof/Machine/Bits.lean ====
section
/-! DEFINITION. Bit fields, sign extension and byte order (R4). -/

namespace Sys2Proof.Machine

/-- Bits [lo + len - 1 : lo] of a number. -/
def bitsAt (n lo len : Nat) : Nat := (n >>> lo) % 2 ^ len

/-- The number with bits [lo + len - 1 : lo] replaced by the low bits of `v`. -/
def putBits (n lo len v : Nat) : Nat :=
  n % 2 ^ lo + (v % 2 ^ len) * 2 ^ lo + (n >>> (lo + len)) * 2 ^ (lo + len)

/-- A field of a 64-bit word (R4). -/
def fld (w : Word) (lo len : Nat) : Nat := bitsAt w.toNat lo len

/-- One bit of a word. -/
def bitOf (w : Word) (i : Nat) : Bool := w.toNat.testBit i

/-- The word with a field replaced. -/
def setFld (w : Word) (lo len v : Nat) : Word := BitVec.ofNat 64 (putBits w.toNat lo len v)

/-- The signed value of the low `len` bits. -/
def signed (n len : Nat) : Int :=
  let m := n % 2 ^ len
  if len = 0 ∨ m < 2 ^ (len - 1) then (m : Int) else (m : Int) - (2 ^ len : Nat)

/-- The low `len` bits of a signed value. -/
def unsigned (i : Int) (len : Nat) : Nat := (i % ((2 ^ len : Nat) : Int)).toNat

/-- The number that little-endian bytes spell (R4). -/
def leNat : List Byte → Nat
  | [] => 0
  | b :: bs => b.toNat + 256 * leNat bs

/-- The `k` little-endian bytes of a number (R4). -/
def leBytes : Nat → Nat → List Byte
  | 0, _ => []
  | k + 1, n => BitVec.ofNat 8 n :: leBytes k (n / 256)

/-- A number with one bit set or cleared. -/
def setBit (n i : Nat) (b : Bool) : Nat := putBits n i 1 (if b then 1 else 0)

/-- The places of the set bits below `k`, ascending. -/
def setBits (n k : Nat) : List Nat := (List.range k).filter n.testBit

/-- How many of the low `k` bits are set. -/
def popCount (n k : Nat) : Nat := (setBits n k).length

/-- A count that stops at its largest value (`len` bits). -/
def satAdd (n d len : Nat) : Nat := min (n + d) (2 ^ len - 1)

/-- Division rounded up. -/
def ceilDiv (a b : Nat) : Nat := (a + b - 1) / b

/-- The next multiple of `b` at or above `a`. -/
def roundUp (a b : Nat) : Nat := ceilDiv a b * b

/-- Serial-number comparison of 48-bit timebase values: `a` earlier than `b` (R325); at distance 2^47 the
value of the command read first counts as earlier, which `tie` says of `a`. -/
def earlier48 (a b : Nat) (tie : Bool) : Bool :=
  let d := (b + 2 ^ 48 - a % 2 ^ 48) % 2 ^ 48
  (1 ≤ d && d < 2 ^ 47) || (d == 2 ^ 47 && tie)

/-- The mixing function of R40. -/
def mix (z : Word) : Word :=
  let z := (z ^^^ (z >>> 30)) * 0xBF58476D1CE4E5B9
  let z := (z ^^^ (z >>> 27)) * 0x94D049BB133111EB
  z ^^^ (z >>> 31)

/-- Put an element before the first that it does not come after; `before b a` says that b stays ahead of a. -/
def insertBy {α : Type} (before : α → α → Bool) (a : α) : List α → List α
  | [] => [a]
  | b :: bs => if before b a then b :: insertBy before a bs else a :: b :: bs

/-- Stable insertion sort. -/
def sortBy {α : Type} (before : α → α → Bool) (l : List α) : List α :=
  l.foldl (fun acc a => insertBy before a acc) []

/-- Two byte extents [a, a + la) and [b, b + lb) share a byte. -/
def overlap (a la b lb : Nat) : Bool := 0 < la && 0 < lb && a < b + lb && b < a + la

/-! ## Checks of byte strings -/

/-- One bit of a reflected CRC. -/
def crcStep (poly c : BitVec 32) : BitVec 32 := if c.getLsbD 0 then (c >>> 1) ^^^ poly else c >>> 1

/-- A reflected CRC of 32 bits, all ones before and after, its low byte first (PRESUMED, log entry 143). -/
def crc32 (poly : BitVec 32) (bs : List Byte) : List Byte :=
  let c := bs.foldl (fun c b => (List.range 8).foldl (fun c _ => crcStep poly c) (c ^^^ b.setWidth 32)) 0xFFFFFFFF
  leBytes 4 (~~~c).toNat

/-- The polynomial of CRC-32C, reflected. -/
def crc32cPoly : BitVec 32 := 0x82F63B78

end Sys2Proof.Machine
end

