-- ==== Sys2Proof/Syntax.lean ====
section
/-! DEFINITION. The commands and events of the block: one constructor of Instr per row of
spec/opcode_table.json, with what arrives with it. -/

namespace Sys2Proof

/-- A 64-byte command descriptor as eight little-endian 64-bit words (R4, R298). -/
structure Desc where
  w0 : Word
  w1 : Word
  w2 : Word
  w3 : Word
  w4 : Word
  w5 : Word
  w6 : Word
  w7 : Word
deriving DecidableEq, Repr, Inhabited

/-- The descriptor that the ring processor reads at SUB_HEAD of a ring (R295). -/
structure Cmd where
  ctx  : Fin 64
  ring : Fin 16
  d    : Desc
deriving DecidableEq, Repr

/-- The commands that a descriptor can spell (R299): the class and its operation. -/
inductive RingOp where
  | copy | zero | pin | unpin | planes | moveRelease
  | mma
  | add | mul | axpby | scale | convert | transpose | relu | gelu | silu | reluBwd | geluBwd | siluBwd
  | rmsnorm | layernorm | rmsnormBwd | layernormBwd | rowmax | expSub | rowsum | rowdiv | topk
  | distillStats | distillGrad | sum | sumsq | amax | scaleSet | sgdMom | adam | adamw
  | fwd | bwd | bwdP | append | attnCombine
  | allreduce | reduceScatter | allgather | alltoall | dispatch | collCombine | compressed
  | sync | step | admitTable | take | restore | restoreFrom
  | invoke | register | callRelease
  | assayRead | assayClear | assayReadClear | ctxRead
deriving DecidableEq, Repr

/-- Where a BAR0 access comes from (R465, R481): the host, in a secure stream with the T bit set where TDISP asks for it;
the host without it (R400); the monitor; the SMBus target; a settings preset. -/
inductive Source where
  | host | outside | monitor | smbus | preset
deriving DecidableEq, Repr

/-- What goes wrong in a cluster's array while an MMA runs on it (R74 to R79). Cluster: physical, 0-323; the pass is
counted from the start of the command, in R89's order; `again` is its second attempt (R78). -/
inductive ArrEvent where
  /-- The sum that leaves the array for a streamed row and an output is this FP32 image. -/
  | output (cluster : Fin 324) (pass row out : Nat) (again : Bool) (image : Word32)
  /-- After the load, a lane of the cube at (row, column) holds this word; column 64 is the checksum column (R76). -/
  | lane (cluster : Fin 324) (pass : Nat) (row : Fin 64) (col : Fin 65) (k : Fin 8) (again : Bool) (word : Word32)
  /-- A kindling pair that runs before the pass fails its check (R79). -/
  | kindle (cluster : Fin 324) (pass : Nat)
deriving DecidableEq, Repr

/-- The physical cluster that an array event strikes. -/
def ArrEvent.cluster : ArrEvent → Nat
  | .output c _ _ _ _ _ | .lane c _ _ _ _ _ _ | .kindle c _ => c.val

/-- A Huantag frame as it arrives: header fields and payload (R260). -/
structure Frame where
  subport : Fin 8
  crcOk   : Bool
  version : BitVec 4
  src     : Fin 64
  dst     : Fin 64
  seq     : BitVec 24
  ack     : BitVec 24
  addr    : Addr
  ctx     : Fin 64
  tag     : Word32
  poison  : BitVec 64
  lines   : Nat
  payload : List Byte
deriving DecidableEq, Repr

/-- What a patrol or an access finds in a store (R351). -/
inductive Ecc where
  | clean | corrected | uncorrectable
  /-- The channel does not answer and stays down (R359). -/
  | down
  /-- The bytes of a coded slab, as the DDR port reads them (R153). -/
  | coded (bytes : List Byte)
deriving DecidableEq, Repr

/-- The stores that have ECC (R351). -/
inductive Store where
  | sram | hbm | ddr
deriving DecidableEq, Repr

/-- The failing requests that TIER_TIMEOUT names (R168, R169). -/
inductive TierRequest where
  /-- A read or write, at this address, of the oldest command that the context has outstanding on this ring. -/
  | command (ring : Fin 16) (addr : Addr)
  /-- A STAGE slab of the context's prefetch script, by destination address. -/
  | stage (slab : Addr)
  /-- An exchange or a placement raise of the page that is moving. -/
  | exchange (page : Nat)
  /-- An ember move-in of the object at this address. -/
  | emberIn (addr : Addr)
  /-- An ember move-out write-back of the object at this address. -/
  | emberOut (addr : Addr)
  /-- A spill or a bring-back of the page at this address in a DDR pool. -/
  | spill (addr : Addr)
  /-- A BAR4 read or write at an offset, in place of the access's own row (R290). -/
  | bar4 (offset : BitVec 34) (write : Bool)
  /-- A posted write of another package, in place of its own row: its home reports an error, or a failed tier (R268). -/
  | peerWrite (f : Frame)
deriving DecidableEq, Repr

/-- The parameters on which the members of a COLL must agree (R276). -/
structure CollParams where
  op    : BitVec 4
  count : Word32
  redop : BitVec 2
  wire  : Bool
  cmode : BitVec 3
  e     : BitVec 8
  k     : BitVec 4
  cap   : BitVec 10
deriving DecidableEq, Repr

/-- What the owner of a block has counted (R275): the assay's four counts, the largest magnitude as FP32, and whether a
non-finite value was written. -/
structure CollCounts where
  total  : Nat
  sat    : Nat
  ufl    : Nat
  nonfin : Nat
  amax   : Option Word32
  wrote  : Bool
deriving DecidableEq, Repr

/-- What a collective frame brings, laid out as DESIGN CHOICE, log entry 14 says: a handshake (R276); bytes of a contribution,
with the 64-byte lines among them that are poisoned, and whether they are its last (R274, R280, R282); or bytes of what is
returned to the members, whose last bring the owner's counts (R274, R275, R280). -/
inductive CollBody where
  | shake (p : CollParams)
  | data (bytes : List Byte) (bad : List Nat) (last : Bool)
  | block (bytes : List Byte) (bad : List Nat) (counts : Option CollCounts)
deriving DecidableEq, Repr

/-- A collective frame's group and sequence number (R277), and what it brings. -/
structure CollPart where
  group : Fin 64
  seqNo : Word32
  body  : CollBody
deriving DecidableEq, Repr

/-- An adapter's registry entry in a snapshot (R364). -/
structure SnapAdapter where
  adapter : BitVec 16
  version : Nat
  origin  : BitVec 384
  layout  : Nat
  stAddr  : Nat
  pass    : Nat
  ember   : Nat
deriving DecidableEq, Repr

/-- What a source of RESTORE_FROM serves (R373): its generation, the captured extents in slabs, bytes and poisoned
lines, the phase maps, the adapters, and the counts of history slots. -/
structure SnapPart where
  gen      : Word
  extents  : List (Nat × Nat)
  cells    : List (Nat × Byte)
  bad      : List Nat
  maps     : List (List Nat)
  adapters : List SnapAdapter
  hist     : List (Nat × Nat)
deriving DecidableEq, Repr

/-- What the receiver finds wrong with a frame (R265, R271). -/
inductive Discard where
  | crc | version | seq | foreign
deriving DecidableEq, Repr

/-- The units whose heartbeats an aggregator expects (R352). -/
inductive Unit' where
  | engine (cluster : Fin 324)
  | regionUnit (region : Fin 36)
  | computeDie (die : Fin 4)
  | hubDie (die : Fin 2)
  | ringProcessor
deriving DecidableEq, Repr

/-- The units that have spares (R360). -/
inductive SpareUnit where
  | cluster (c : Fin 324)
  | region (r : Fin 36)
deriving DecidableEq, Repr

/-- The aggregators of R12 and R356. -/
inductive Aggregator where
  | region (r : Fin 36)
  | die (d : Fin 6)
  | package
deriving DecidableEq, Repr

/-- What a configuration read asks for: the capabilities of R288, each by name (log entry 148); `other` is any that R288 does not
list. -/
inductive PcieCap where
  | ids | bars | link | device | msix | aer | ptm | doe | ide | tdisp | flr | other
deriving DecidableEq, Repr

/-- A configuration request from the host (R288, R430): what it reads or sets. -/
inductive ConfigOp where
  | read (what : PcieCap)
  | assignBars
  | enables (memSpace busMaster msix msixMask ptm : Bool)
  /-- Max Payload Size and Max Read Request Size in bytes. -/
  | sizes (payload readRequest : Nat)
deriving DecidableEq, Repr

/-- A COPY or ZERO as it is read. `cut`: the 64 KiB units of its destination that have landed when something else happens to
it (R180, R187); none: it runs to its end. -/
structure MoveRow where
  cmd : Cmd
  cut : Option Nat
deriving DecidableEq, Repr

/-- An INVOKE as it is read, and what goes wrong in the arrays while its program runs. -/
structure CallRow where
  cmd : Cmd
  ev  : List ArrEvent
deriving DecidableEq, Repr

/-- The turn of an engine (R329): what goes wrong in the arrays while the command that it starts runs, and how far a MOVE
comes, as in `MoveRow`. -/
structure EngineTurn where
  engine : Fin 612
  ev     : List ArrEvent
  cut    : Option Nat
deriving DecidableEq, Repr

/-- Who sends a hello (R262): the sub-port number that it carries, and its source address. -/
structure HelloFrom where
  sub : Fin 8
  mac : BitVec 48
deriving DecidableEq, Repr

/-- An error on the host link (R355), and the line of host memory whose completion came with the EP bit set (R184). -/
structure HostError where
  info : BitVec 48
  ep   : Option Addr
deriving DecidableEq, Repr

/-- A host access within BAR2 (R291). -/
inductive Bar2Access where
  | read (len : Nat)
  | write (data : List Byte)
deriving DecidableEq, Repr

/-- The DIMM of a DDR channel as a boot finds it (R158, R351, R480): capacity in GiB, 0 where none is fitted, ranks, ECC, and
whether its training succeeds. -/
structure Dimm where
  gib    : Nat
  ranks  : Nat
  ecc    : Bool
  trains : Bool
deriving DecidableEq, Repr

/-- What a boot finds on the board (R158, R288, R351, R411, R432): the DIMMs of DC0 to DC11, a usable reference clock, whether
the always-on domain lost its power while the package had none, and what the PCI Express link trains to: HIF_STAT.SPEED - 1
and the logarithm of the lanes. -/
structure Board where
  dimms      : List Dimm
  refGood    : Bool
  domainLost : Bool
  speed      : Fin 6
  lanes      : Fin 5
deriving DecidableEq, Repr

/-- The commands and events of the FVQ-9410, one constructor per row of spec/opcode_table.json. -/
inductive Instr where
  -- MOVE (R177)
  | copy (c : MoveRow)
  | zero (c : MoveRow)
  | pin (c : Cmd)
  | unpin (c : Cmd)
  | planes (c : Cmd)
  | moveRelease (c : Cmd)
  -- MMA (R85); what goes wrong in the arrays meanwhile
  | mma (c : Cmd) (ev : List ArrEvent)
  -- VEC (R102)
  | add (c : Cmd)
  | mul (c : Cmd)
  | axpby (c : Cmd)
  | scale (c : Cmd)
  | convert (c : Cmd)
  | transpose (c : Cmd)
  | relu (c : Cmd)
  | gelu (c : Cmd)
  | silu (c : Cmd)
  | reluBwd (c : Cmd)
  | geluBwd (c : Cmd)
  | siluBwd (c : Cmd)
  | rmsnorm (c : Cmd)
  | layernorm (c : Cmd)
  | rmsnormBwd (c : Cmd)
  | layernormBwd (c : Cmd)
  | rowmax (c : Cmd)
  | expSub (c : Cmd)
  | rowsum (c : Cmd)
  | rowdiv (c : Cmd)
  | topk (c : Cmd)
  | distillGradStats (c : Cmd)
  | distillGradGrad (c : Cmd)
  | sum (c : Cmd)
  | sumsq (c : Cmd)
  | amax (c : Cmd)
  | scaleSet (c : Cmd)
  | sgdMom (c : Cmd)
  | adam (c : Cmd)
  | adamw (c : Cmd)
  -- ATTN (R111)
  | fwd (c : Cmd)
  | bwd (c : Cmd)
  | bwdP (c : Cmd)
  | append (c : Cmd)
  | attnCombine (c : Cmd)
  -- COLL (R273)
  | allreduce (c : Cmd)
  | reduceScatter (c : Cmd)
  | allgather (c : Cmd)
  | alltoall (c : Cmd)
  | dispatch (c : Cmd)
  | collCombine (c : Cmd)
  | compressed (c : Cmd)
  -- SYNC, STEP, ADMIT
  | sync (c : Cmd)
  | waitMet (ctx : Fin 64) (ring : Fin 16)
  | step (c : Cmd)
  | stepBoundary (ctx : Fin 64) (lost : List Addr) (cut : List (Nat × SpareUnit))
  | stepVerdict (f : Frame) (group : Fin 64) (counter : Word) (finite : Bool)
  | stepGroupTimeout (ctx : Fin 64)
  | admitTable (c : Cmd)
  -- SNAP (R370)
  | take (c : Cmd)
  | restore (c : Cmd) (failsAt : Option Nat)
  | restoreFrom (c : Cmd) (parts : List SnapPart) (lost : Bool)
  | snapshotStreamEnd (ctx : Fin 64) (writeFailed : Bool)
  -- CALL (R303)
  | invoke (c : CallRow)
  | register (c : Cmd)
  | callRelease (c : Cmd)
  -- TEL (R308)
  | assayRead (c : Cmd)
  | assayClear (c : Cmd)
  | assayReadClear (c : Cmd)
  | ctxRead (c : Cmd)
  -- scheduling and array events
  | engineArbitration (turn : EngineTurn)
  | deadlineMiss (ctx : Fin 64) (ring : Fin 16) (pos : Word32)
  | kindlingWindowEnd (cluster : Fin 324)
  | rampStep (cluster : Fin 324) (mismatch : Bool)
  -- BAR2, rings, timebase
  -- accesses of BAR2, at a place in the page of a ring or at an offset; `tee`: in a secure stream with the T bit set (R400)
  | doorbell (ctx : Fin 64) (ring : Fin 16) (place : BitVec 12) (tee : Bool) (acc : Bar2Access)
  | cancel (ctx : Fin 64) (ring : Fin 16) (place : BitVec 12) (tee : Bool) (acc : Bar2Access)
  | eventHead (offset : BitVec 22) (tee : Bool) (acc : Bar2Access)
  | ringFetch (ctx : Fin 64) (ring : Fin 16)
  | coalescingTimeout (ctx : Fin 64) (ring : Fin 16)
  | ptmDialogue (rootTime : Word)
  | hifTbSet (src : Source) (value : Word)
  -- BAR4
  | bar4Read (offset : BitVec 34) (len : Nat)
  | bar4Write (offset : BitVec 34) (data : List Byte) (ep : Bool)
  -- BAR0 writes with and without behaviour of their own
  | registerWrite (src : Source) (offset : BitVec 26) (size : Nat) (value : Word)
  | contextEnable (src : Source) (ctx : Fin 64) (value : Word)
  | contextDisable (src : Source) (ctx : Fin 64) (value : Word)
  | contextLock (src : Source) (ctx : Fin 64) (value : Word)
  | ringEnable (src : Source) (ctx : Fin 64) (ring : Fin 16) (value : Word)
  | ringDisable (src : Source) (ctx : Fin 64) (ring : Fin 16) (value : Word)
  | forceRings (src : Source) (ctx : Fin 64) (rings : BitVec 16)
  | forceCtx (src : Source) (ctx : Fin 64)
  | teardown (ctx : Fin 64)
  | semTimeout (ctx : Fin 64) (ring : Fin 16)
  | tierCxScript (src : Source) (ctx : Fin 64) (value : Word)
  | tierCxEmber (src : Source) (ctx : Fin 64) (value : Word)
  -- tiers
  | stageSlabReady (ctx : Fin 64) (slab : Addr)
  | slabMoveDone (page : Nat) (slab : Fin 32)
  | placementEpoch
  | imbalanceWindow (ctx : Fin 64) (bytes : List Nat)
  | tierTimeout (ctx : Fin 64) (req : TierRequest)
  | backgroundSpill (ctx : Fin 64)
  | bringBack (ctx : Fin 64) (undecodable : List Addr)
  -- adapters and packages
  | create (ctx : Fin 64) (adapter : BitVec 16)
  | importAdapter (ctx : Fin 64) (adapter : BitVec 16)
  | rebuild (adapter : BitVec 16)
  | load (ctx : Fin 64) (entry : BitVec 8) (readFails : Bool)
  | unload (ctx : Fin 64) (entry : BitVec 8)
  -- peer links
  | read (f : Frame)
  | postedWrite (f : Frame)
  | readData (f : Frame) (failed : Bool)
  | writeAcknowledge (f : Frame)
  | writeFailure (f : Frame) (cause : BitVec 4)
  | creditAndAcknowledge (f : Frame) (credits : List Nat)
  | negativeAcknowledge (f : Frame)
  | hello (f : Frame) (domain : Byte) (sender : HelloFrom)
  | sendHello
  | missedHellos (subport : Fin 8) (pkg : Fin 64)
  | collective (f : Frame) (part : CollPart)
  | abandonNotice (f : Frame) (group : Fin 64) (seqNo : Word32)
  | faultReport (f : Frame) (code : Byte) (sev : BitVec 2) (info : BitVec 48)
  | pauseFrame (subport : Fin 8) (priority : Fin 8) (quanta : BitVec 16)
  | retryTimeout (subport : Fin 8) (pkg : Fin 64)
  | postedWriteTimeout (ctx : Fin 64) (tag : Word32)
  | collectiveTimeout (ctx : Fin 64) (group : Fin 64)
  | peerCtlEn (src : Source) (value : Word)
  -- faults and spares
  | patrolRead (store : Store) (line : Addr) (found : Ecc)
  | engineHang (engine : Fin 612)
  | heartbeatMiss (u : Unit')
  | spareTakeover (u : SpareUnit)
  | d2dRetrain (link : Fin 15) (wire : Nat)
  | faultMergeWindow (agg : Aggregator)
  | stormHoldEnd (code : Byte) (source : BitVec 16)
  | failureRecordWrite (cutOff : Bool)
  -- resets
  | contextReset (src : Source) (ctx : Fin 64)
  | engineReset (src : Source) (engine : Fin 612)
  | regionReset (src : Source) (region : Fin 36)
  | dieWarmReset (src : Source) (die : Fin 4)
  | packageWarmReset (src : Source)
  | coldReset (b : Board)
  | functionLevelReset
  | pciePerstN
  | standby
  | ready
  -- power, thermal, supply, clocks, always-on domain
  | powerMeasurement (windowAverage : Nat)
  | thermalSample (dieTemps : List Nat) (hubTemps : List Nat) (stackTemps : List Nat)
  | thermalTrip (unit : Byte) (temp : Byte)
  | inputLow (millivolts : BitVec 16)
  | inputLoss
  | inputLossRecovery (b : Board)
  | inputOvercurrent (amps : BitVec 16)
  | railFault (rail : Fin 25)
  | pllUnlock (lockLost : Bool)
  | tamperInput (input : Fin 2)
  | voltageGlitch
  | clockGlitch
  | temperature
  | cellLow
  -- SPDM, key protocol, IDE, TDISP
  | getCertificate (slot : Fin 8)
  | challenge (nonce : BitVec 256)
  | getMeasurements (nonce : BitVec 256)
  | keyExchange (keyHash : BitVec 384) (mutualAuth : Bool)
  | keyUpdate (session : Nat)
  | endSession (session : Nat)
  | heartbeatTimeout (session : Nat)
  | setPolicy (session : Nat) (policy : BitVec 512)
  | putSetKey (session : Nat) (setId : Word) (key : BitVec 256)
  | putAdapterKey (session : Nat) (slot : BitVec 16) (key : BitVec 256)
  | eraseKey (session : Nat) (kind : Byte) (ident : Word)
  | preserve (session : Nat)
  | endTenancy (session : Nat)
  | readLog (session : Nat)
  | ideKm (session : Nat) (stream : Fin 3) (key : BitVec 256)
  | lockInterface (session : Nat)
  | startInterface (session : Nat)
  | stopInterface (session : Nat)
  | ideStreamInsecure (stream : Fin 3)
  | secTenantEndGo (src : Source)
  | tenantChange (failedDdr : List (Fin 12))
  | epochRetired
  -- settings flash
  | setUpdCtlGo (src : Source) (hostReadFails flashFails : Bool)
  -- SMBus
  | smbReadStatus
  | smbReadTemperature
  | smbReadPower
  | smbReadVoltage (millivolts : BitVec 20)
  | smbReadPowerCap
  | smbWritePowerCap (watts : BitVec 16)
  | smbReadFailrec
  | smbAlertResponse
  -- Sceusk monitor
  | help
  | status
  | log (n : Option Nat)
  | failrec
  | regr (offset : BitVec 26)
  | regw (offset : BitVec 26) (value : Word)
  | memr (addr : Addr) (n : Nat)
  | reset (scope : Nat)
  -- boundary scan
  | extest
  | idcode
  | bypass
  -- the rest of the table
  | subPortUp (subport : Fin 8)
  | frameDiscarded (f : Frame) (why : Discard)
  | inputLowCleared
  | configurationRequest (op : ConfigOp)
  | hostAer (e : HostError)
  | monitorUnknownLine (long : Bool)
  | fourByteRead (src : Source) (offset : BitVec 26)
deriving DecidableEq, Repr

end Sys2Proof
end

