-- ==== Sys2Proof/Decode.lean ====
section
/-! DEFINITION. The command descriptor: its header, the operation it spells, and its reserved bits (R298, R299).
No row of the opcode table gives bits, so decodeTableWord spells no command. -/

namespace Sys2Proof

open Sys2Proof.Machine

/-- The eight words of a descriptor. -/
def Desc.words (d : Desc) : List Word := [d.w0, d.w1, d.w2, d.w3, d.w4, d.w5, d.w6, d.w7]

/-- The descriptor of eight words. -/
def descOf (w : List Word) : Desc :=
  ⟨w.getD 0 0, w.getD 1 0, w.getD 2 0, w.getD 3 0, w.getD 4 0, w.getD 5 0, w.getD 6 0, w.getD 7 0⟩

/-- CLASS (R298). -/
def Desc.cls (d : Desc) : Nat := fld d.w0 0 4

/-- IRQ (R298). -/
def Desc.irq (d : Desc) : Bool := bitOf d.w0 4

/-- REGION (R298). -/
def Desc.region (d : Desc) : Nat := fld d.w0 6 5

/-- CLUSTER (R298). -/
def Desc.cluster (d : Desc) : Nat := fld d.w0 11 3

/-- DEADLINE (R298). -/
def Desc.deadline (d : Desc) : Nat := fld d.w0 16 48

/-- TAG (R298). -/
def Desc.tag (d : Desc) : Nat := fld d.w1 0 32

/-- Class and operation code of a command (R103, R111, R177, R273, R299, R303, R308, R370). The two modes of
DISTILL_GRAD share one code; the mode lies in the parameter block (R205). -/
def RingOp.code : RingOp → Nat × Nat
  | .copy => (0, 0) | .zero => (0, 1) | .pin => (0, 2) | .unpin => (0, 3) | .planes => (0, 4) | .moveRelease => (0, 5)
  | .mma => (1, 0)
  | .add => (2, 0x01) | .mul => (2, 0x02) | .axpby => (2, 0x03) | .scale => (2, 0x04) | .convert => (2, 0x05)
  | .transpose => (2, 0x06) | .relu => (2, 0x10) | .gelu => (2, 0x11) | .silu => (2, 0x12) | .reluBwd => (2, 0x13)
  | .geluBwd => (2, 0x14) | .siluBwd => (2, 0x15) | .rmsnorm => (2, 0x20) | .layernorm => (2, 0x21)
  | .rmsnormBwd => (2, 0x22) | .layernormBwd => (2, 0x23) | .rowmax => (2, 0x30) | .expSub => (2, 0x31)
  | .rowsum => (2, 0x32) | .rowdiv => (2, 0x33) | .topk => (2, 0x34) | .distillStats => (2, 0x35)
  | .distillGrad => (2, 0x35) | .sum => (2, 0x40) | .sumsq => (2, 0x41) | .amax => (2, 0x42) | .scaleSet => (2, 0x50)
  | .sgdMom => (2, 0x60) | .adam => (2, 0x61) | .adamw => (2, 0x62)
  | .fwd => (3, 0) | .bwd => (3, 1) | .bwdP => (3, 2) | .append => (3, 3) | .attnCombine => (3, 4)
  | .allreduce => (4, 0) | .reduceScatter => (4, 1) | .allgather => (4, 2) | .alltoall => (4, 3) | .dispatch => (4, 4)
  | .collCombine => (4, 5) | .compressed => (4, 6)
  | .sync => (5, 0) | .step => (6, 0)
  | .take => (7, 0) | .restore => (7, 1) | .restoreFrom => (7, 2)
  | .admitTable => (8, 0)
  | .invoke => (9, 0) | .register => (9, 1) | .callRelease => (9, 2)
  | .assayRead => (10, 0) | .assayClear => (10, 1) | .assayReadClear => (10, 2) | .ctxRead => (10, 3)

/-- The operation code of a descriptor: its OP field, by class; classes with no OP field have the one code 0. -/
def Desc.opCode (d : Desc) : Nat :=
  match d.cls with
  | 0 => fld d.w2 0 4
  | 2 => fld d.w2 0 8
  | 3 => fld d.w2 0 4
  | 4 => fld d.w2 0 4
  | 7 => fld d.w2 0 4
  | 9 => fld d.w2 0 2
  | 10 => fld d.w2 0 4
  | _ => 0

/-- The command of a class and operation code; none where both are reserved. -/
def opOfCode : Nat → Nat → Option RingOp
  | 0, 0 => some .copy | 0, 1 => some .zero | 0, 2 => some .pin | 0, 3 => some .unpin | 0, 4 => some .planes
  | 0, 5 => some .moveRelease
  | 1, 0 => some .mma
  | 2, 0x01 => some .add | 2, 0x02 => some .mul | 2, 0x03 => some .axpby | 2, 0x04 => some .scale
  | 2, 0x05 => some .convert | 2, 0x06 => some .transpose | 2, 0x10 => some .relu | 2, 0x11 => some .gelu
  | 2, 0x12 => some .silu | 2, 0x13 => some .reluBwd | 2, 0x14 => some .geluBwd | 2, 0x15 => some .siluBwd
  | 2, 0x20 => some .rmsnorm | 2, 0x21 => some .layernorm | 2, 0x22 => some .rmsnormBwd
  | 2, 0x23 => some .layernormBwd | 2, 0x30 => some .rowmax | 2, 0x31 => some .expSub | 2, 0x32 => some .rowsum
  | 2, 0x33 => some .rowdiv | 2, 0x34 => some .topk | 2, 0x35 => some .distillStats | 2, 0x40 => some .sum
  | 2, 0x41 => some .sumsq | 2, 0x42 => some .amax | 2, 0x50 => some .scaleSet | 2, 0x60 => some .sgdMom
  | 2, 0x61 => some .adam | 2, 0x62 => some .adamw
  | 3, 0 => some .fwd | 3, 1 => some .bwd | 3, 2 => some .bwdP | 3, 3 => some .append | 3, 4 => some .attnCombine
  | 4, 0 => some .allreduce | 4, 1 => some .reduceScatter | 4, 2 => some .allgather | 4, 3 => some .alltoall
  | 4, 4 => some .dispatch | 4, 5 => some .collCombine | 4, 6 => some .compressed
  | 5, 0 => some .sync | 6, 0 => some .step
  | 7, 0 => some .take | 7, 1 => some .restore | 7, 2 => some .restoreFrom
  | 8, 0 => some .admitTable
  | 9, 0 => some .invoke | 9, 1 => some .register | 9, 2 => some .callRelease
  | 10, 0 => some .assayRead | 10, 1 => some .assayClear | 10, 2 => some .assayReadClear | 10, 3 => some .ctxRead
  | _, _ => none

/-- The command that a descriptor spells; none for a reserved class or operation. DISTILL_GRAD answers its STATS. -/
def RingOp.ofDesc (d : Desc) : Option RingOp := opOfCode d.cls d.opCode

/-- Bits of each descriptor word that are not reserved, by class (R85, R102, R111, R130, R177, R219, R273, R298,
R300, R303, R308, R370). -/
def classMask : Nat → List Nat
  | 0 => [0xFFFFFFFFFFFF3FDF, 0xFFFFFFFF, 0x7F, 0xFFFFFFFFFFFF, 0xFFFFFFFFFFFF, 0, 0, 0]
  | 1 => [0xFFFFFFFFFFFF3FDF, 0xFFFFFFFF, 0xFFFFF, 0xFFFFFFFFFFFFF, 0xFFFFFFFFFFFFFF, 0xFFFFFFFFFFFF,
          0xFFFFFFFFFFFF, 0xFFFFFFFFFFFF]
  | 2 => [0xFFFFFFFFFFFF3FDF, 0xFFFFFFFF, 0xFFFFFFFFF1FF, 0xFFFFFFFFFFFFFFFF, 0xFFFFFFFF, 0xFFFFFFFFFFFF,
          0xFFFFFFFFFFFF, 0xFFFFFFFFFFFF]
  | 3 => [0xFFFFFFFFFFFF3FDF, 0xFFFFFFFF, 0xFFFFFFFF, 0xFFFFFFFFFFFF, 0x3FFFFFFFFFFFFF, 0xFFFFFFFFFFFF,
          0xFFFFFFFFFFFF, 0xFFFFFFFFFFFF]
  | 4 => [0xFFFFFFFFFFFF001F, 0xFFFFFFFF, 0x3FFFFFFFFFF, 0xFFFFFFFF, 0xFFFFFFFFFFFF, 0xFFFFFFFFFFFF,
          0xFFFFFFFFFFFF, 0]
  | 5 => [0xFFFFFFFFFFFF001F, 0xFFFFFFFF, 0x7FF, 0xFFFFFFFFFFFF, 0xFFFFFFFFFFFFFFFF, 0xFFFFFFFFFFFF,
          0xFFFFFFFFFFFFFFFF, 0]
  | 6 => [0xFFFFFFFFFFFF001F, 0xFFFFFFFF, 0xFFFFFF, 0xFFFFFFFFFFFF, 0xFFFFFFFF, 0xFFFFFFFFFFFF, 0xFFFF, 0]
  | 7 => [0xFFFFFFFFFFFF001F, 0xFFFFFFFF, 0xFFFFF, 0xFFFFFFFFFFFFFFFF, 0, 0, 0, 0]
  | 8 => [0xFFFFFFFFFFFF001F, 0xFFFFFFFF, 0xFFFFFFFFFFFF, 0xFFFFFFFFFFFF, 0xFFFFFFFFFFFF, 0xFFFFFFFFFFFF,
          0xFFFFFFFFFFFF, 0]
  | 9 => [0xFFFFFFFFFFFF001F, 0xFFFFFFFF, 0xFF, 0xFFFFFFFFFFFF, 0, 0, 0, 0]
  | 10 => [0xFFFFFFFFFFFF001F, 0xFFFFFFFF, 0x1FFFFFFFF, 0xFFFFFFFFFFFF, 0, 0, 0, 0]
  | _ => [0xFFFFFFFFFFFF3FDF, 0xFFFFFFFF, 0xFFFFFFFFFFFFFFFF, 0xFFFFFFFFFFFFFFFF, 0xFFFFFFFFFFFFFFFF,
          0xFFFFFFFFFFFFFFFF, 0xFFFFFFFFFFFFFFFF, 0xFFFFFFFFFFFFFFFF]

/-- Every reserved bit of the descriptor is 0, and REGION and CLUSTER obey the class (R5, R299). -/
def Desc.reservedOk (d : Desc) : Bool :=
  ((d.words.zip (classMask d.cls)).all fun p => p.1.toNat &&& (2 ^ 64 - 1 - p.2) == 0)
    && (d.cls != 0 || decide (d.cluster < 2))

/-- A descriptor with its class and operation code set, every other bit as it was. -/
def Desc.withOp (d : Desc) (op : RingOp) : Desc :=
  let d := { d with w0 := setFld d.w0 0 4 op.code.1 }
  match op.code.1 with
  | 0 | 3 | 4 | 7 | 10 => { d with w2 := setFld d.w2 0 4 op.code.2 }
  | 2 => { d with w2 := setFld d.w2 0 8 op.code.2 }
  | 9 => { d with w2 := setFld d.w2 0 2 op.code.2 }
  | _ => d

/-- The descriptor with the class and operation code of a command and every other bit 0. -/
def RingOp.blank (op : RingOp) : Desc :=
  ⟨BitVec.ofNat 64 op.code.1, 0, BitVec.ofNat 64 op.code.2, 0, 0, 0, 0, 0⟩

/-- The command that an opcode-table word spells: no row gives bits, so none does. -/
def decodeTableWord (_nbits _w : Nat) : Option Instr := none

end Sys2Proof
end

