-- ==== Sys2Proof/Config.lean ====
section
/-! DEFINITION. What the spec leaves open: free values, and functions of standards outside the spec.
None has a body, so no proof can see what one is. -/

namespace Sys2Proof.Config

/-- A 64-bit random draw of the device generator (R384): free value, DESIGN CHOICE, log entry 1. -/
opaque freeWord : Nat → BitVec 64

/-- A byte the spec leaves undefined (R101, R284, R374): free value, DESIGN CHOICE, log entry 1. First argument the counter, second the address. -/
opaque freeByte : Nat → Nat → BitVec 8

/-- An FP32 image that the spec leaves open, by draw and element (R221): free value, DESIGN CHOICE, log entry 1. -/
opaque freeFp : Nat → Nat → BitVec 32

/-- What a peer answers to a read of a record in its window, by draw and address (R172): free value, DESIGN CHOICE, log
entry 1. -/
opaque peerByte : Nat → Nat → BitVec 8

/-- Whether the program keeps the activation of a context's tensor id at an address for the backward pass (R51): free
value, DESIGN CHOICE, log entry 18. -/
opaque keptAt : Nat → Nat → Nat → Bool

/-- The next state of a cluster's 32-bit linear-feedback shift register, whose taps the spec leaves open (R80): free
value, DESIGN CHOICE, log entry 130. -/
opaque lfsrNext : BitVec 32 → BitVec 32

/-- SHA-384 of a byte string (FIPS 180), 48 bytes as a number: uninterpreted, DESIGN CHOICE, log entry 8. -/
opaque sha384 : List (BitVec 8) → BitVec 384

/-- AES-256-GCM seal: key, nonce, additional data, plaintext; the ciphertext. Uninterpreted, DESIGN CHOICE, log entry 8. -/
opaque gcmSeal : BitVec 256 → BitVec 96 → List (BitVec 8) → List (BitVec 8) → List (BitVec 8)

/-- AES-256-GCM tag of what `gcmSeal` takes. Uninterpreted, DESIGN CHOICE, log entry 8. -/
opaque gcmTag : BitVec 256 → BitVec 96 → List (BitVec 8) → List (BitVec 8) → BitVec 128

/-- AES-256-GCM open: key, nonce, additional data, ciphertext, tag; none when the tag fails. Uninterpreted, DESIGN CHOICE, log entry 8. -/
opaque gcmOpen : BitVec 256 → BitVec 96 → List (BitVec 8) → List (BitVec 8) → BitVec 128 → Option (List (BitVec 8))

/-- AES key unwrap (SP 800-38F) of a 320-bit wrapped key: none when the check fails. Uninterpreted, DESIGN CHOICE, log entry 8. -/
opaque keyUnwrap : BitVec 256 → BitVec 320 → Option (BitVec 256)

/-- ECDSA P-384 verification: public-key hash, message hash, signature bytes. Uninterpreted, DESIGN CHOICE, log entry 8. -/
opaque ecdsaOk : BitVec 384 → BitVec 384 → List (BitVec 8) → Bool

/-- ECDSA P-384 signature with the identity key of the part over a transcript. Uninterpreted, DESIGN CHOICE, log entry 8. -/
opaque identitySign : List (BitVec 8) → List (BitVec 8)

/-- Certificate chain of the part (R386): fixed per part, not given by the spec. Log entry 3. -/
opaque certChain : List (BitVec 8)

/-- Correct rounding of exp where the model's enclosure does not decide it (R104): free value, DESIGN CHOICE, log entry 9. -/
opaque expTail : BitVec 32 → BitVec 32

/-- As `expTail`, for ln (R104), DESIGN CHOICE, log entry 9. -/
opaque lnTail : BitVec 32 → BitVec 32

/-- As `expTail`, for tanh (R104), DESIGN CHOICE, log entry 9. -/
opaque tanhTail : BitVec 32 → BitVec 32

end Sys2Proof.Config
end

