-- ==== Sys2Proof/Machine/Fp.lean ====
section
/-! DEFINITION. Exact values, FP32 arithmetic with one rounding, and the correctly rounded functions of R104
(R36, R37, R39, R40). -/

namespace Sys2Proof.Machine

/-- A value: a NaN, an infinity, or the exact number (-1)^neg × m × 2^e, with the sign of a zero kept. -/
inductive Fv where
  | nan
  | inf (neg : Bool)
  | fin (neg : Bool) (m : Nat) (e : Int)
deriving DecidableEq, Repr, Inhabited

namespace Fv

def zero : Fv := .fin false 0 0

def one : Fv := .fin false 1 0

def isFinite : Fv → Bool
  | .fin _ _ _ => true
  | _ => false

def isZero : Fv → Bool
  | .fin _ 0 _ => true
  | _ => false

def isNeg : Fv → Bool
  | .nan => false
  | .inf n => n
  | .fin n _ _ => n

def neg : Fv → Fv
  | .nan => .nan
  | .inf n => .inf (!n)
  | .fin n m e => .fin (!n) m e

def abs : Fv → Fv
  | .nan => .nan
  | .inf _ => .inf false
  | .fin _ m e => .fin false m e

/-- The value times 2^k. -/
def scale (k : Int) : Fv → Fv
  | .fin n m e => .fin n m (e + k)
  | v => v

end Fv

/-! ## Rounding (R38 to R41) -/

/-- The rounding modes; SR carries its 16 random bits (R39, R40). -/
inductive Rounding where
  | rne | rtz | sr (r : Nat)
deriving DecidableEq, Repr

/-- Divide `m` by 2^k with rounding. -/
def roundShift (mode : Rounding) (m k : Nat) : Nat :=
  let q := m >>> k
  let rem := m % 2 ^ k
  match mode with
  | .rtz => q
  | .rne =>
    if k = 0 then q
    else
      let half := 2 ^ (k - 1)
      if half < rem ∨ (rem = half ∧ q % 2 = 1) then q + 1 else q
  | .sr r => if rem ≠ 0 ∧ 65536 ≤ rem * 65536 / 2 ^ k + r then q + 1 else q

/-- Round m × 2^e to `p` significant bits with no bit below 2^low; exponent unbounded above. -/
def roundMag (mode : Rounding) (p : Nat) (low : Int) (m : Nat) (e : Int) : Nat × Int :=
  if m = 0 then (0, low)
  else
    let q := max ((Nat.log2 m : Int) + e - ((p : Int) - 1)) low
    if q ≤ e then (m <<< (e - q).toNat, q) else (roundShift mode m (q - e).toNat, q)

/-- m × 2^e compared with n × 2^f. -/
def magLe (m : Nat) (e : Int) (n : Nat) (f : Int) : Bool :=
  if e ≤ f then decide (m ≤ n <<< (f - e).toNat) else decide (m <<< (e - f).toNat ≤ n)

/-- m × 2^e is above the largest finite FP32 value. -/
def aboveFp32 (m : Nat) (e : Int) : Bool := !magLe m e 0xFFFFFF 104

/-- One rounding to FP32, to nearest even; overflow gives infinity (R36, R37). -/
def round32 : Fv → Fv
  | .fin n m e =>
    let r := roundMag .rne 24 (-149) m e
    if aboveFp32 r.1 r.2 then .inf n else .fin n r.1 r.2
  | v => v

/-! ## FP32 arithmetic (R36, R37) -/

/-- The smallest exponent of a list of finite values, 0 when there is none. -/
def minExp (vs : List Fv) : Int :=
  vs.foldl (fun b v => match v with | .fin _ _ e => min b e | _ => b) 0

/-- A finite value as an integer multiple of 2^low. -/
def atExp (low : Int) : Fv → Int
  | .fin n m e =>
    let v : Int := ((m <<< (e - low).toNat : Nat) : Int)
    if n then -v else v
  | _ => 0

/-- The exact sum of values: NaN for a NaN or for opposite infinities; an exact zero is +0 unless every operand
is -0 (R37). -/
def exactSum (vs : List Fv) : Fv :=
  if vs.contains .nan then .nan
  else if vs.contains (.inf false) then (if vs.contains (.inf true) then .nan else .inf false)
  else if vs.contains (.inf true) then .inf true
  else
    let low := minExp vs
    let t := vs.foldl (fun a v => a + atExp low v) (0 : Int)
    if t = 0 then .fin (!vs.isEmpty && vs.all fun v => v.isZero && v.isNeg) 0 0
    else .fin (decide (t < 0)) t.natAbs low

/-- A sum with one rounding (R36). -/
def fsum (vs : List Fv) : Fv := round32 (exactSum vs)

def fadd (a b : Fv) : Fv := fsum [a, b]

def fsub (a b : Fv) : Fv := fsum [a, b.neg]

/-- The exact product, with IEEE 754's rules for infinities and zeros (R29, R37). -/
def exactMul : Fv → Fv → Fv
  | .nan, _ => .nan
  | _, .nan => .nan
  | .inf n, .inf k => .inf (n != k)
  | .inf n, .fin k m _ => if m = 0 then .nan else .inf (n != k)
  | .fin n m _, .inf k => if m = 0 then .nan else .inf (n != k)
  | .fin n m e, .fin k l f => .fin (n != k) (m * l) (e + f)

/-- A product with one rounding. -/
def fmul (a b : Fv) : Fv := round32 (exactMul a b)

/-- a < b of two numbers; false with a NaN. -/
def flt : Fv → Fv → Bool
  | .nan, _ => false
  | _, .nan => false
  | .inf n, .inf k => n && !k
  | .inf n, .fin _ _ _ => n
  | .fin _ _ _, .inf k => !k
  | .fin n m e, .fin k l f =>
    let low := min e f
    decide (atExp low (.fin n m e) < atExp low (.fin k l f))

/-- The larger value; NaN when either is one; the earlier operand among equals (R104). -/
def fmax (a b : Fv) : Fv := if a = .nan ∨ b = .nan then .nan else if flt a b then b else a

/-- The smaller value, likewise. -/
def fmin (a b : Fv) : Fv := if a = .nan ∨ b = .nan then .nan else if flt b a then b else a

/-! ## Reciprocal and reciprocal root (R104) -/

/-- Integer square root of an `2 k`-bit number, bit by bit from the top. -/
def isqrt : Nat → Nat → Nat → Nat
  | 0, _, r => r
  | k + 1, n, r => let t := r + 2 ^ k; isqrt k n (if t * t ≤ n then t else r)

/-- The correctly rounded reciprocal (R104). -/
def frecip : Fv → Fv
  | .nan => .nan
  | .inf n => .fin n 0 0
  | .fin n 0 _ => .inf n
  | .fin n m e =>
    let k := Nat.log2 m + 30
    let q := 2 ^ k / m
    let sticky := if q * m = 2 ^ k then 0 else 1
    round32 (.fin n (2 * q + sticky) (-(k : Int) - e - 1))

/-- The correctly rounded reciprocal square root (R104). -/
def frsqrt : Fv → Fv
  | .nan => .nan
  | .inf n => if n then .nan else .fin false 0 0
  | .fin n 0 _ => .inf n
  | .fin true _ _ => .nan
  | .fin false m e =>
    let odd : Bool := e % 2 != 0
    let m := if odd then 2 * m else m
    let e := if odd then e - 1 else e
    let k := Nat.log2 m / 2 + 32
    let q := 2 ^ (2 * k) / m
    let r := isqrt 36 q 0
    let sticky := if r * r * m = 2 ^ (2 * k) then 0 else 1
    round32 (.fin false (2 * r + sticky) (-(k : Int) - e / 2 - 1))

/-- Division is the reciprocal followed by a multiplication (R104). -/
def fdiv (a b : Fv) : Fv := fmul a (frecip b)

/-! ## exp, ln and tanh by enclosure (R104, DESIGN CHOICE, log entry 9)

Fixed-point numbers with `fpBits` fraction bits; an enclosure is a lower and an upper bound. -/

def fpBits : Nat := 256

def fpOne : Int := 2 ^ 256

/-- Fixed-point product, rounded down. -/
def fixMulLo (a b : Int) : Int := a * b / fpOne

/-- Fixed-point product, rounded up. -/
def fixMulHi (a b : Int) : Int := -((-(a * b)) / fpOne)

/-- The terms of exp's series at a fixed-point r ≥ 0, summed from term k on: lower bounds, `t` the term before. -/
def expTermsLo (r : Int) : Nat → Int → Int → Int
  | 0, _, _ => 0
  | n + 1, k, t => let t' := fixMulLo t r / k; t' + expTermsLo r n (k + 1) t'

/-- As `expTermsLo`, upper bounds. -/
def expTermsHi (r : Int) : Nat → Int → Int → Int
  | 0, _, _ => 0
  | n + 1, k, t => let t' := -((-(fixMulHi t r)) / k); t' + expTermsHi r n (k + 1) t'

/-- Square `n` times. -/
def squareLo : Nat → Int → Int
  | 0, a => a
  | n + 1, a => squareLo n (fixMulLo a a)

def squareHi : Nat → Int → Int
  | 0, a => a
  | n + 1, a => squareHi n (fixMulHi a a)

/-- Enclosure of exp(m × 2^e) for 0 ≤ m × 2^e < 256: the argument is divided by 2^16, 40 terms of the series are
taken and a bound on the rest added, and the result is squared 16 times. -/
def expEnclose (m : Nat) (e : Int) : Int × Int :=
  let sh := e + 256 - 16
  let rlo : Int := if 0 ≤ sh then ((m <<< sh.toNat : Nat) : Int) else ((m >>> (-sh).toNat : Nat) : Int)
  let rhi : Int := if 0 ≤ sh then rlo else rlo + 1
  (squareLo 16 (fpOne + expTermsLo rlo 40 1 fpOne), squareHi 16 (fpOne + expTermsHi rhi 40 1 fpOne + 1))

/-- The value of an enclosure once both ends round alike; none when they do not. -/
def roundEnclosure (neg : Bool) (lo hi : Int) : Option Fv :=
  let a := round32 (.fin neg lo.toNat (-256))
  let b := round32 (.fin neg hi.toNat (-256))
  if a = b then some a else none

/-- FP32 bits of a value that FP32 holds (R42 for NaN). -/
def bits32 : Fv → Nat
  | .nan => 0x7FC00000
  | .inf n => if n then 0xFF800000 else 0x7F800000
  | .fin n m e =>
    let sign := if n then 2 ^ 31 else 0
    if m = 0 then sign
    else
      let top := (Nat.log2 m : Int) + e
      if top < -126 then sign + (m <<< (e + 149).toNat)
      else
        let frac := (m <<< (24 - 1 - Nat.log2 m)) % 2 ^ 23
        let frac := if 24 ≤ Nat.log2 m then (m >>> (Nat.log2 m - 23)) % 2 ^ 23 else frac
        sign + (top + 127).toNat * 2 ^ 23 + frac

/-- The value of FP32 bits. -/
def ofBits32 (b : Nat) : Fv :=
  let n := b.testBit 31
  let ex := bitsAt b 23 8
  let fr := b % 2 ^ 23
  if ex = 255 then (if fr = 0 then .inf n else .nan)
  else if ex = 0 then .fin n fr (-149)
  else .fin n (fr + 2 ^ 23) ((ex : Int) - 150)

/-- The correctly rounded exp (R104). -/
def fexp : Fv → Fv
  | .nan => .nan
  | .inf n => if n then .zero else .inf false
  | .fin n m e =>
    if m = 0 then .one
    else if !magLe m e 128 0 then (if n then .zero else .inf false)
    else
      let p := expEnclose m e
      let p := if n then (fpOne * fpOne / p.2, -((-(fpOne * fpOne)) / p.1)) else p
      match roundEnclosure false p.1 p.2 with
      | some v => v
      | none => ofBits32 (Config.expTail (BitVec.ofNat 32 (bits32 (.fin n m e)))).toNat

/-- Terms of atanh's series: sum of u^(2 k + 1) / (2 k + 1) for the given number of terms, u2 = u². -/
def atanhLo (u2 : Int) : Nat → Int → Int → Int
  | 0, _, _ => 0
  | n + 1, k, t => t / k + atanhLo u2 n (k + 2) (fixMulLo t u2)

def atanhHi (u2 : Int) : Nat → Int → Int → Int
  | 0, _, t => 2 * t
  | n + 1, k, t => -((-t) / k) + atanhHi u2 n (k + 2) (fixMulHi t u2)

/-- Enclosure of ln(m / d) for 1 ≤ m / d ≤ 2. -/
def lnEnclose (m d : Nat) : Int × Int :=
  let num : Int := ((m - d : Nat) : Int) * fpOne
  let den : Int := ((m + d : Nat) : Int)
  let ulo := num / den
  let uhi := -((-num) / den)
  (2 * atanhLo (fixMulLo ulo ulo) 90 1 ulo, 2 * atanhHi (fixMulHi uhi uhi) 90 1 uhi)

/-- The correctly rounded ln (R104). -/
def fln : Fv → Fv
  | .nan => .nan
  | .inf n => if n then .nan else .inf false
  | .fin n m e =>
    if m = 0 then .inf true
    else if n then .nan
    else
      let k := Nat.log2 m
      let z := lnEnclose m (2 ^ k)
      let l2 := lnEnclose 2 1
      let x := (k : Int) + e
      let lo := z.1 + (if 0 ≤ x then x * l2.1 else x * l2.2)
      let hi := z.2 + (if 0 ≤ x then x * l2.2 else x * l2.1)
      if lo = 0 ∧ hi = 0 then .zero
      else
        let r := if 0 ≤ lo then roundEnclosure false lo hi else if hi ≤ 0 then roundEnclosure true (-hi) (-lo) else none
        match r with
        | some v => v
        | none => ofBits32 (Config.lnTail (BitVec.ofNat 32 (bits32 (.fin n m e)))).toNat

/-- The correctly rounded tanh (R104): (E - 1) / (E + 1) with E = exp(2 |x|). -/
def ftanh : Fv → Fv
  | .nan => .nan
  | .inf n => .fin n 1 0
  | .fin n m e =>
    if m = 0 then .fin n 0 0
    else if !magLe m e 20 0 then .fin n 1 0
    else
      let p := expEnclose m (e + 1)
      let lo := (p.1 - fpOne) * fpOne / (p.1 + fpOne)
      let hi := -((-((p.2 - fpOne) * fpOne)) / (p.2 + fpOne))
      match roundEnclosure n lo hi with
      | some v => v
      | none => ofBits32 (Config.tanhTail (BitVec.ofNat 32 (bits32 (.fin n m e)))).toNat

end Sys2Proof.Machine
end

