-- ==== Sys2Proof/Machine/Func.lean ====
section
/-! DEFINITION. The activation functions and reductions of the vector unit, one FP32 operation at a time
(R93, R103, R104). -/

namespace Sys2Proof.Machine

def half32 : Fv := ofBits32 0x3F000000
/-- 0.797 884 56 -/
def geluC1 : Fv := ofBits32 0x3F4C422A
/-- 0.044 715 -/
def geluC2 : Fv := ofBits32 0x3D372713
/-- 0.134 145 -/
def geluC3 : Fv := ofBits32 0x3E095D4F

/-- RELU: A where A > 0, NaN where A is NaN, +0 elsewhere. -/
def fRelu (x : Fv) : Fv := if x = .nan then .nan else if flt .zero x then x else .zero

/-- tanh(u) of GELU, u = c1 × (x + c2 × x³). -/
def geluT (x : Fv) : Fv := ftanh (fmul geluC1 (fadd x (fmul geluC2 (fmul (fmul x x) x))))

def fGelu (x : Fv) : Fv := fmul (fmul half32 x) (fadd .one (geluT x))

/-- GELU′ = 0.5 × (1 + t) + ((0.5 × x) × (1 − t × t)) × (c1 × (1 + c3 × (x × x))). -/
def fGeluD (x : Fv) : Fv :=
  let t := geluT x
  fadd (fmul half32 (fadd .one t))
    (fmul (fmul (fmul half32 x) (fsub .one (fmul t t))) (fmul geluC1 (fadd .one (fmul geluC3 (fmul x x)))))

/-- σ = reciprocal(1 + exp(−x)). -/
def fSigma (x : Fv) : Fv := frecip (fadd .one (fexp x.neg))

def fSilu (x : Fv) : Fv := fmul x (fSigma x)

/-- SILU′ = σ × (1 + x × (1 − σ)). -/
def fSiluD (x : Fv) : Fv :=
  let g := fSigma x
  fmul g (fadd .one (fmul x (fsub .one g)))

/-- The epilogue of an MMA (R93). -/
def epilogue (epi : Nat) (x : Fv) : Fv :=
  match epi with
  | 1 => fRelu x
  | 2 => fGelu x
  | 3 => fSilu x
  | _ => x

/-- One level of the pairwise tree: elements 2k and 2k + 1 combine, a last odd one passes up. -/
def treeLevel (op : Fv → Fv → Fv) : List Fv → List Fv
  | a :: b :: vs => op a b :: treeLevel op vs
  | vs => vs

/-- The pairwise tree over at most 2^n elements. -/
def treeReduce (op : Fv → Fv → Fv) : Nat → List Fv → Fv
  | _, [] => .zero
  | _, [a] => a
  | 0, a :: _ => a
  | n + 1, vs => treeReduce op n (treeLevel op vs)

/-- The blocks of 128 elements of a list, `n` of them at most. -/
def blocks128 : Nat → List Fv → List (List Fv)
  | 0, _ => []
  | _, [] => []
  | n + 1, vs => vs.take 128 :: blocks128 n (vs.drop 128)

/-- A reduction: the tree over each block of 128, then the block results in ascending order (R104). -/
def reduceSum (vs : List Fv) : Fv :=
  match (blocks128 (vs.length / 128 + 1) vs).map (treeReduce fadd 7) with
  | [] => .zero
  | b :: bs => bs.foldl fadd b

/-- The largest value under R104's rule. -/
def reduceMax : List Fv → Fv
  | [] => .zero
  | v :: vs => vs.foldl fmax v

/-- A mean: the sum times the reciprocal of the count formed as FP32 (R104). -/
def fMean (vs : List Fv) : Fv := fmul (reduceSum vs) (frecip (round32 (.fin false vs.length 0)))

end Sys2Proof.Machine
end

