-- ==== Sys2Proof/Machine/Regs.lean ====
section
/-! DEFINITION. The registers of BAR0 by name: offset, reset value, access, level, block, and the
register at an offset (R84, R136, R170, R188, R287, R293, R322, R348, R378, R414, R442, R443, R463 to R481). -/

namespace Sys2Proof.Machine

/-- The fourteen windows of BAR0, in order of offset (R463). -/
inductive Block where
  | hif | ctx | sch | tier | strm | arr | att | peer | sec | pwr | flt | tel | set | id
deriving DecidableEq, Repr

/-- Every register that a table of the manual names; x is the context, the other index as the table names it. -/
inductive Reg where
  | arrCtl
  | arrChkCtl
  | arrKindleCtl
  | arrRampCtl
  | attCtl
  | attSpillCtl
  | attSpillCnt
  | attLateCnt
  | tierCtl
  | tierWays
  | tierPlaceCtl
  | tierTimeout
  | tierImbCtl
  | tierStat
  | tierCxHmask (x : Nat)
  | tierCxDmask (x : Nat)
  | tierCxWmask (x : Nat)
  | tierCxQuota (x : Nat)
  | tierCxScript (x : Nat)
  | tierCxEmber (x : Nat)
  | tierCxHeld (x : Nat)
  | tierCxPfLate (x : Nat)
  | tierCxEmbCnt (x : Nat)
  | tierCxExch (x : Nat)
  | tierCxFail (x : Nat)
  | strmCtl
  | strmPoisonCnt
  | strmLateCnt
  | strmSplit (p : Nat)
  | peerCtl
  | peerId
  | peerEtype
  | peerPortCfg
  | peerVcPcp
  | peerRetry
  | peerTmo
  | peerStat
  | peerRetryCnt
  | peerDownCnt
  | peerCrcCnt
  | peerOrphanCnt
  | peerGrpMem (g : Nat)
  | peerGrpCfg (g : Nat)
  | peerCxAllow (x : Nat)
  | peerRoute (p : Nat)
  | ctxCxSq (x n : Nat)
  | ctxCxCq (x n : Nat)
  | ctxCxRing (x n : Nat)
  | ctxCxRstat (x n : Nat)
  | ctxCxEq (x : Nat)
  | ctxCxEqCfg (x : Nat)
  | ctxCxEqStat (x : Nat)
  | hifCtl
  | hifStat
  | hifTb
  | hifTbSet
  | hifPtmCtl
  | hifPtmOfs
  | hifDbErrCnt
  | hifBar4Base
  | hifBar4ErrCnt
  | schCtl
  | schStarve
  | schMissCnt
  | schCxShift (x : Nat)
  | schCxForce (x : Nat)
  | schCxStat (x : Nat)
  | fltCtl
  | fltMerge
  | fltWdog
  | fltLog
  | fltLogHead
  | fltLogStat
  | fltReset
  | fltStat
  | fltCeCnt
  | fltUeCnt
  | fltFailClu (i : Nat)
  | fltFailRgn
  | fltFailD2d
  | fltCxSnapCfg (x : Nat)
  | fltCxSnapList (x : Nat)
  | fltCxSnapArea (x : Nat)
  | fltCxSnapSize (x : Nat)
  | fltCxSnapNewest (x : Nat)
  | fltCxSnapPrev (x : Nat)
  | fltCxSnapStat (x : Nat)
  | fltCxFaults (x : Nat)
  | secCtl
  | secStat
  | secTenantEnd
  | secEpoch
  | secRtc
  | secLogStat
  | secLogSel
  | secLogData0
  | secLogData1
  | secKeyStat
  | secCxPkg (x : Nat)
  | secCxPkgStat (x : Nat)
  | pwrCtl
  | clkStat
  | pwrCap
  | pwrCapCtl
  | pwrTherm
  | pwrStat
  | pwrTemp
  | pwrEnergy
  | setCtl
  | setStat
  | setSeq
  | setUpdAddr
  | setUpdCtl
  | setUpdStat
  | ctxCtl
  | ctxStepTimeout
  | ctxEnabled
  | ctxCxCtl (x : Nat)
  | ctxCxSetupStat (x : Nat)
  | ctxCxStep (x : Nat)
  | ctxCxSteprec (x : Nat)
  | ctxCxSeed (x : Nat)
  | ctxCxScale (x : Nat)
  | ctxCxJournal (x : Nat)
  | ctxCxJrnlStat (x : Nat)
  | ctxCxPmap (x : Nat)
  | ctxCxAdp (x : Nat)
  | ctxCxSemTmo (x : Nat)
  | ctxCxWinBase (x w : Nat)
  | ctxCxWinSize (x w : Nat)
  | arrStat
  | arrRetryCnt
  | arrCluStat (c : Nat)
  | telCtl
  | telStat
  | telRecords
  | telCxVoids (x : Nat)
  | telCxReroutes (x : Nat)
  | telCxMisses (x : Nat)
  | idCtl
  | idPart
  | idLevel
  | idSerial
  | idIdcode
  | idVendor
  | idRomDigest (i : Nat)
  | idAccLogCnt
  | idAccLogLast
  | idHbm
  | idDdr (d : Nat)
  | idRgn (p : Nat)
deriving DecidableEq, Repr

/-- BAR0 offset of the block (R463). -/
def Block.base : Block → Nat
  | .hif => 0x0000000
  | .ctx => 0x0100000
  | .sch => 0x0200000
  | .tier => 0x0300000
  | .strm => 0x0400000
  | .arr => 0x0500000
  | .att => 0x0600000
  | .peer => 0x0700000
  | .sec => 0x0800000
  | .pwr => 0x0900000
  | .flt => 0x0A00000
  | .tel => 0x0B00000
  | .set => 0x0C00000
  | .id => 0x0D00000

/-- The block that holds the register. -/
def Reg.block : Reg → Block
  | .arrCtl => .arr
  | .arrChkCtl => .arr
  | .arrKindleCtl => .arr
  | .arrRampCtl => .arr
  | .attCtl => .att
  | .attSpillCtl => .att
  | .attSpillCnt => .att
  | .attLateCnt => .att
  | .tierCtl => .tier
  | .tierWays => .tier
  | .tierPlaceCtl => .tier
  | .tierTimeout => .tier
  | .tierImbCtl => .tier
  | .tierStat => .tier
  | .tierCxHmask _ => .tier
  | .tierCxDmask _ => .tier
  | .tierCxWmask _ => .tier
  | .tierCxQuota _ => .tier
  | .tierCxScript _ => .tier
  | .tierCxEmber _ => .tier
  | .tierCxHeld _ => .tier
  | .tierCxPfLate _ => .tier
  | .tierCxEmbCnt _ => .tier
  | .tierCxExch _ => .tier
  | .tierCxFail _ => .tier
  | .strmCtl => .strm
  | .strmPoisonCnt => .strm
  | .strmLateCnt => .strm
  | .strmSplit _ => .strm
  | .peerCtl => .peer
  | .peerId => .peer
  | .peerEtype => .peer
  | .peerPortCfg => .peer
  | .peerVcPcp => .peer
  | .peerRetry => .peer
  | .peerTmo => .peer
  | .peerStat => .peer
  | .peerRetryCnt => .peer
  | .peerDownCnt => .peer
  | .peerCrcCnt => .peer
  | .peerOrphanCnt => .peer
  | .peerGrpMem _ => .peer
  | .peerGrpCfg _ => .peer
  | .peerCxAllow _ => .peer
  | .peerRoute _ => .peer
  | .ctxCxSq _ _ => .ctx
  | .ctxCxCq _ _ => .ctx
  | .ctxCxRing _ _ => .ctx
  | .ctxCxRstat _ _ => .ctx
  | .ctxCxEq _ => .ctx
  | .ctxCxEqCfg _ => .ctx
  | .ctxCxEqStat _ => .ctx
  | .hifCtl => .hif
  | .hifStat => .hif
  | .hifTb => .hif
  | .hifTbSet => .hif
  | .hifPtmCtl => .hif
  | .hifPtmOfs => .hif
  | .hifDbErrCnt => .hif
  | .hifBar4Base => .hif
  | .hifBar4ErrCnt => .hif
  | .schCtl => .sch
  | .schStarve => .sch
  | .schMissCnt => .sch
  | .schCxShift _ => .sch
  | .schCxForce _ => .sch
  | .schCxStat _ => .sch
  | .fltCtl => .flt
  | .fltMerge => .flt
  | .fltWdog => .flt
  | .fltLog => .flt
  | .fltLogHead => .flt
  | .fltLogStat => .flt
  | .fltReset => .flt
  | .fltStat => .flt
  | .fltCeCnt => .flt
  | .fltUeCnt => .flt
  | .fltFailClu _ => .flt
  | .fltFailRgn => .flt
  | .fltFailD2d => .flt
  | .fltCxSnapCfg _ => .flt
  | .fltCxSnapList _ => .flt
  | .fltCxSnapArea _ => .flt
  | .fltCxSnapSize _ => .flt
  | .fltCxSnapNewest _ => .flt
  | .fltCxSnapPrev _ => .flt
  | .fltCxSnapStat _ => .flt
  | .fltCxFaults _ => .flt
  | .secCtl => .sec
  | .secStat => .sec
  | .secTenantEnd => .sec
  | .secEpoch => .sec
  | .secRtc => .sec
  | .secLogStat => .sec
  | .secLogSel => .sec
  | .secLogData0 => .sec
  | .secLogData1 => .sec
  | .secKeyStat => .sec
  | .secCxPkg _ => .sec
  | .secCxPkgStat _ => .sec
  | .pwrCtl => .pwr
  | .clkStat => .pwr
  | .pwrCap => .pwr
  | .pwrCapCtl => .pwr
  | .pwrTherm => .pwr
  | .pwrStat => .pwr
  | .pwrTemp => .pwr
  | .pwrEnergy => .pwr
  | .setCtl => .set
  | .setStat => .set
  | .setSeq => .set
  | .setUpdAddr => .set
  | .setUpdCtl => .set
  | .setUpdStat => .set
  | .ctxCtl => .ctx
  | .ctxStepTimeout => .ctx
  | .ctxEnabled => .ctx
  | .ctxCxCtl _ => .ctx
  | .ctxCxSetupStat _ => .ctx
  | .ctxCxStep _ => .ctx
  | .ctxCxSteprec _ => .ctx
  | .ctxCxSeed _ => .ctx
  | .ctxCxScale _ => .ctx
  | .ctxCxJournal _ => .ctx
  | .ctxCxJrnlStat _ => .ctx
  | .ctxCxPmap _ => .ctx
  | .ctxCxAdp _ => .ctx
  | .ctxCxSemTmo _ => .ctx
  | .ctxCxWinBase _ _ => .ctx
  | .ctxCxWinSize _ _ => .ctx
  | .arrStat => .arr
  | .arrRetryCnt => .arr
  | .arrCluStat _ => .arr
  | .telCtl => .tel
  | .telStat => .tel
  | .telRecords => .tel
  | .telCxVoids _ => .tel
  | .telCxReroutes _ => .tel
  | .telCxMisses _ => .tel
  | .idCtl => .id
  | .idPart => .id
  | .idLevel => .id
  | .idSerial => .id
  | .idIdcode => .id
  | .idVendor => .id
  | .idRomDigest _ => .id
  | .idAccLogCnt => .id
  | .idAccLogLast => .id
  | .idHbm => .id
  | .idDdr _ => .id
  | .idRgn _ => .id

/-- BAR0 offset of the register. -/
def Reg.offset : Reg → Nat
  | .arrCtl => 0x0500000
  | .arrChkCtl => 0x0500008
  | .arrKindleCtl => 0x0500010
  | .arrRampCtl => 0x0500018
  | .attCtl => 0x0600000
  | .attSpillCtl => 0x0600008
  | .attSpillCnt => 0x0600010
  | .attLateCnt => 0x0600018
  | .tierCtl => 0x0300000
  | .tierWays => 0x0300008
  | .tierPlaceCtl => 0x0300010
  | .tierTimeout => 0x0300018
  | .tierImbCtl => 0x0300020
  | .tierStat => 0x0300028
  | .tierCxHmask x => 0x0301000 + x * 0x80
  | .tierCxDmask x => 0x0301008 + x * 0x80
  | .tierCxWmask x => 0x0301010 + x * 0x80
  | .tierCxQuota x => 0x0301018 + x * 0x80
  | .tierCxScript x => 0x0301020 + x * 0x80
  | .tierCxEmber x => 0x0301028 + x * 0x80
  | .tierCxHeld x => 0x0301030 + x * 0x80
  | .tierCxPfLate x => 0x0301038 + x * 0x80
  | .tierCxEmbCnt x => 0x0301040 + x * 0x80
  | .tierCxExch x => 0x0301048 + x * 0x80
  | .tierCxFail x => 0x0301050 + x * 0x80
  | .strmCtl => 0x0400000
  | .strmPoisonCnt => 0x0400008
  | .strmLateCnt => 0x0400010
  | .strmSplit p => 0x0400100 + p * 0x8
  | .peerCtl => 0x0700000
  | .peerId => 0x0700008
  | .peerEtype => 0x0700010
  | .peerPortCfg => 0x0700018
  | .peerVcPcp => 0x0700020
  | .peerRetry => 0x0700028
  | .peerTmo => 0x0700030
  | .peerStat => 0x0700038
  | .peerRetryCnt => 0x0700040
  | .peerDownCnt => 0x0700048
  | .peerCrcCnt => 0x0700050
  | .peerOrphanCnt => 0x0700058
  | .peerGrpMem g => 0x0700100 + g * 0x10
  | .peerGrpCfg g => 0x0700108 + g * 0x10
  | .peerCxAllow x => 0x0700500 + x * 0x8
  | .peerRoute p => 0x0700800 + p * 0x8
  | .ctxCxSq x n => 0x0110200 + x * 0x1000 + n * 0x20
  | .ctxCxCq x n => 0x0110208 + x * 0x1000 + n * 0x20
  | .ctxCxRing x n => 0x0110210 + x * 0x1000 + n * 0x20
  | .ctxCxRstat x n => 0x0110218 + x * 0x1000 + n * 0x20
  | .ctxCxEq x => 0x0110400 + x * 0x1000
  | .ctxCxEqCfg x => 0x0110408 + x * 0x1000
  | .ctxCxEqStat x => 0x0110410 + x * 0x1000
  | .hifCtl => 0x0000000
  | .hifStat => 0x0000008
  | .hifTb => 0x0000010
  | .hifTbSet => 0x0000018
  | .hifPtmCtl => 0x0000020
  | .hifPtmOfs => 0x0000028
  | .hifDbErrCnt => 0x0000030
  | .hifBar4Base => 0x0000038
  | .hifBar4ErrCnt => 0x0000040
  | .schCtl => 0x0200000
  | .schStarve => 0x0200008
  | .schMissCnt => 0x0200010
  | .schCxShift x => 0x0201000 + x * 0x20
  | .schCxForce x => 0x0201008 + x * 0x20
  | .schCxStat x => 0x0201010 + x * 0x20
  | .fltCtl => 0x0A00000
  | .fltMerge => 0x0A00008
  | .fltWdog => 0x0A00010
  | .fltLog => 0x0A00018
  | .fltLogHead => 0x0A00020
  | .fltLogStat => 0x0A00028
  | .fltReset => 0x0A00030
  | .fltStat => 0x0A00038
  | .fltCeCnt => 0x0A00040
  | .fltUeCnt => 0x0A00048
  | .fltFailClu i => 0x0A00100 + i * 0x8
  | .fltFailRgn => 0x0A00130
  | .fltFailD2d => 0x0A00138
  | .fltCxSnapCfg x => 0x0A01000 + x * 0x40
  | .fltCxSnapList x => 0x0A01008 + x * 0x40
  | .fltCxSnapArea x => 0x0A01010 + x * 0x40
  | .fltCxSnapSize x => 0x0A01018 + x * 0x40
  | .fltCxSnapNewest x => 0x0A01020 + x * 0x40
  | .fltCxSnapPrev x => 0x0A01028 + x * 0x40
  | .fltCxSnapStat x => 0x0A01030 + x * 0x40
  | .fltCxFaults x => 0x0A01038 + x * 0x40
  | .secCtl => 0x0800000
  | .secStat => 0x0800008
  | .secTenantEnd => 0x0800010
  | .secEpoch => 0x0800018
  | .secRtc => 0x0800020
  | .secLogStat => 0x0800028
  | .secLogSel => 0x0800030
  | .secLogData0 => 0x0800038
  | .secLogData1 => 0x0800040
  | .secKeyStat => 0x0800048
  | .secCxPkg x => 0x0801000 + x * 0x10
  | .secCxPkgStat x => 0x0801008 + x * 0x10
  | .pwrCtl => 0x0900000
  | .clkStat => 0x0900008
  | .pwrCap => 0x0900010
  | .pwrCapCtl => 0x0900018
  | .pwrTherm => 0x0900020
  | .pwrStat => 0x0900028
  | .pwrTemp => 0x0900030
  | .pwrEnergy => 0x0900038
  | .setCtl => 0x0C00000
  | .setStat => 0x0C00008
  | .setSeq => 0x0C00010
  | .setUpdAddr => 0x0C00018
  | .setUpdCtl => 0x0C00020
  | .setUpdStat => 0x0C00028
  | .ctxCtl => 0x0100000
  | .ctxStepTimeout => 0x0100008
  | .ctxEnabled => 0x0100010
  | .ctxCxCtl x => 0x0110000 + x * 0x1000
  | .ctxCxSetupStat x => 0x0110008 + x * 0x1000
  | .ctxCxStep x => 0x0110010 + x * 0x1000
  | .ctxCxSteprec x => 0x0110018 + x * 0x1000
  | .ctxCxSeed x => 0x0110020 + x * 0x1000
  | .ctxCxScale x => 0x0110028 + x * 0x1000
  | .ctxCxJournal x => 0x0110030 + x * 0x1000
  | .ctxCxJrnlStat x => 0x0110038 + x * 0x1000
  | .ctxCxPmap x => 0x0110040 + x * 0x1000
  | .ctxCxAdp x => 0x0110048 + x * 0x1000
  | .ctxCxSemTmo x => 0x0110050 + x * 0x1000
  | .ctxCxWinBase x w => 0x0110100 + x * 0x1000 + w * 0x10
  | .ctxCxWinSize x w => 0x0110108 + x * 0x1000 + w * 0x10
  | .arrStat => 0x0500020
  | .arrRetryCnt => 0x0500028
  | .arrCluStat c => 0x0500100 + c * 0x8
  | .telCtl => 0x0B00000
  | .telStat => 0x0B00008
  | .telRecords => 0x0B00010
  | .telCxVoids x => 0x0B01000 + x * 0x40
  | .telCxReroutes x => 0x0B01008 + x * 0x40
  | .telCxMisses x => 0x0B01010 + x * 0x40
  | .idCtl => 0x0D00000
  | .idPart => 0x0D00008
  | .idLevel => 0x0D00010
  | .idSerial => 0x0D00018
  | .idIdcode => 0x0D00020
  | .idVendor => 0x0D00028
  | .idRomDigest i => 0x0D00030 + i * 0x8
  | .idAccLogCnt => 0x0D00060
  | .idAccLogLast => 0x0D00068
  | .idHbm => 0x0D00070
  | .idDdr d => 0x0D00100 + d * 0x8
  | .idRgn p => 0x0D00200 + p * 0x8

/-- ARR_CLU_STAT_c of a part with nothing marked bad: CLU0-CLU7 of regions 0-7 of each die in service,
CLU8 the spare of its region, region 8 the spare of its die (R17, R478). -/
def perfectCluStat (c : Nat) : Word :=
  let clu := c % 9
  let rgn := c / 9
  let lrgn := 8 * (rgn / 9) + rgn % 9
  if clu = 8 then BitVec.ofNat 64 (1 <<< 25)
  else if rgn % 9 = 8 then 0
  else BitVec.ofNat 64 ((1 <<< 26) + (lrgn <<< 27) + (clu <<< 32))

/-- ID_RGN_p of a part with nothing marked bad (R17, R480). -/
def perfectRgn (p : Nat) : Word :=
  if p % 9 = 8 then 0x103 else BitVec.ofNat 64 (0x101 + ((8 * (p / 9) + p % 9) <<< 3))

/-- The Reset column of the register; where the table says 'from boot' or names another source, the value
of DESIGN CHOICE, log entry 3. -/
def Reg.resetVal : Reg → Word
  | .arrCtl => 0x2
  | .arrChkCtl => 0x10
  | .arrKindleCtl => 0xc80
  | .arrRampCtl => 0x640
  | .attCtl => 0x6
  | .attSpillCtl => 0xd
  | .attSpillCnt => 0x0
  | .attLateCnt => 0x0
  | .tierCtl => 0x6
  | .tierWays => 0x8
  | .tierPlaceCtl => 0x100803e8
  | .tierTimeout => 0x64
  | .tierImbCtl => 0x104
  | .tierStat => 0x0
  | .tierCxHmask _ => 0xffff
  | .tierCxDmask _ => 0xfff
  | .tierCxWmask _ => 0xffff
  | .tierCxQuota _ => 0x0
  | .tierCxScript _ => 0x1000000000000
  | .tierCxEmber _ => 0x0
  | .tierCxHeld _ => 0x0
  | .tierCxPfLate _ => 0x0
  | .tierCxEmbCnt _ => 0x0
  | .tierCxExch _ => 0x0
  | .tierCxFail _ => 0x0
  | .strmCtl => 0x0
  | .strmPoisonCnt => 0x0
  | .strmLateCnt => 0x0
  | .strmSplit _ => 0x60a10
  | .peerCtl => 0x4
  | .peerId => 0
  | .peerEtype => 0x100088b5
  | .peerPortCfg => 0x55
  | .peerVcPcp => 0x76243
  | .peerRetry => 0x100014
  | .peerTmo => 0x64000a
  | .peerStat => 0x100
  | .peerRetryCnt => 0x0
  | .peerDownCnt => 0x0
  | .peerCrcCnt => 0x0
  | .peerOrphanCnt => 0x0
  | .peerGrpMem _ => 0x0
  | .peerGrpCfg _ => 0x0
  | .peerCxAllow _ => 0x0
  | .peerRoute _ => 0x0
  | .ctxCxSq _ _ => 0x0
  | .ctxCxCq _ _ => 0x0
  | .ctxCxRing _ _ => 0x110
  | .ctxCxRstat _ _ => 0x0
  | .ctxCxEq _ => 0x0
  | .ctxCxEqCfg _ => 0x2
  | .ctxCxEqStat _ => 0x0
  | .hifCtl => 0x2
  | .hifStat => 0x0
  | .hifTb => 0x0
  | .hifTbSet => 0x0
  | .hifPtmCtl => 0x3e8000a
  | .hifPtmOfs => 0x0
  | .hifDbErrCnt => 0x0
  | .hifBar4Base => 0x0
  | .hifBar4ErrCnt => 0x0
  | .schCtl => 0x0
  | .schStarve => 0xc350
  | .schMissCnt => 0x0
  | .schCxShift _ => 0x0
  | .schCxForce _ => 0x0
  | .schCxStat _ => 0x200000000
  | .fltCtl => 0x4
  | .fltMerge => 0x64100a
  | .fltWdog => 0xa
  | .fltLog => 0x0
  | .fltLogHead => 0x0
  | .fltLogStat => 0x0
  | .fltReset => 0x0
  | .fltStat => 0xFFFFFFFF + 0xF00000000  -- SPARE_RGN from the sparing map (R378)
  | .fltCeCnt => 0x0
  | .fltUeCnt => 0x0
  | .fltFailClu _ => 0
  | .fltFailRgn => 0
  | .fltFailD2d => 0
  | .fltCxSnapCfg _ => 0x7d00001
  | .fltCxSnapList _ => 0x0
  | .fltCxSnapArea _ => 0x0
  | .fltCxSnapSize _ => 0x0
  | .fltCxSnapNewest _ => 0xffffffffffffffff
  | .fltCxSnapPrev _ => 0xffffffffffffffff
  | .fltCxSnapStat _ => 0x0
  | .fltCxFaults _ => 0x0
  | .secCtl => 0x0
  | .secStat => 0x2000
  | .secTenantEnd => 0x0
  | .secEpoch => 0x0
  | .secRtc => 0
  | .secLogStat => 0
  | .secLogSel => 0x0
  | .secLogData0 => 0x0
  | .secLogData1 => 0x0
  | .secKeyStat => 0x0
  | .secCxPkg _ => 0x0
  | .secCxPkgStat _ => 0x0
  | .pwrCtl => 0x0
  | .clkStat => 0x3
  | .pwrCap => 0x960
  | .pwrCapCtl => 0x3e8
  | .pwrTherm => 0x35f
  | .pwrStat => 0x0
  | .pwrTemp => 0x0
  | .pwrEnergy => 0x0
  | .setCtl => 0x0
  | .setStat => 0x200000000100
  | .setSeq => 0
  | .setUpdAddr => 0x0
  | .setUpdCtl => 0x0
  | .setUpdStat => 0x0
  | .ctxCtl => 0x0
  | .ctxStepTimeout => 0x64
  | .ctxEnabled => 0x0
  | .ctxCxCtl _ => 0x0
  | .ctxCxSetupStat _ => 0x0
  | .ctxCxStep _ => 0x0
  | .ctxCxSteprec _ => 0x0
  | .ctxCxSeed _ => 0x0
  | .ctxCxScale _ => 0x0
  | .ctxCxJournal _ => 0xfff000000000000
  | .ctxCxJrnlStat _ => 0x0
  | .ctxCxPmap _ => 0x0
  | .ctxCxAdp _ => 0x0
  | .ctxCxSemTmo _ => 0x64
  | .ctxCxWinBase _ _ => 0x0
  | .ctxCxWinSize _ _ => 0x0
  | .arrStat => 256
  | .arrRetryCnt => 0x0
  | .arrCluStat c => perfectCluStat c
  | .telCtl => 0x0
  | .telStat => 0x0
  | .telRecords => 0x0
  | .telCxVoids _ => 0x0
  | .telCxReroutes _ => 0x0
  | .telCxMisses _ => 0x0
  | .idCtl => 0x0
  | .idPart => 0x303134392d515646
  | .idLevel => 0x1000101
  | .idSerial => 0
  | .idIdcode => 0x9410001
  | .idVendor => 0
  | .idRomDigest _ => 0
  | .idAccLogCnt => 0x0
  | .idAccLogLast => 0x0
  | .idHbm => 0x30ff
  | .idDdr _ => 0x800007
  | .idRgn p => perfectRgn p

/-- Bits of RW fields (R7). -/
def Reg.rwMask : Reg → Nat
  | .arrCtl => 0x3
  | .arrChkCtl => 0x1F
  | .arrKindleCtl => 0xFFFF
  | .arrRampCtl => 0xFFFF
  | .attCtl => 0x7
  | .attSpillCtl => 0xFF
  | .attSpillCnt => 0x0
  | .attLateCnt => 0x0
  | .tierCtl => 0x7
  | .tierWays => 0x0
  | .tierPlaceCtl => 0xFFFFFFFF
  | .tierTimeout => 0xFFFF
  | .tierImbCtl => 0xFF0F
  | .tierStat => 0x0
  | .tierCxHmask _ => 0x0
  | .tierCxDmask _ => 0x0
  | .tierCxWmask _ => 0x0
  | .tierCxQuota _ => 0x0
  | .tierCxScript _ => 0xFFFFFFFFFFFFF
  | .tierCxEmber _ => 0x1FFFFFFFFFFFFFFF
  | .tierCxHeld _ => 0x0
  | .tierCxPfLate _ => 0x0
  | .tierCxEmbCnt _ => 0x0
  | .tierCxExch _ => 0x0
  | .tierCxFail _ => 0x0
  | .strmCtl => 0x1
  | .strmPoisonCnt => 0x0
  | .strmLateCnt => 0x0
  | .strmSplit _ => 0x1F1F1F
  | .peerCtl => 0x7
  | .peerId => 0x0
  | .peerEtype => 0x1FFFFFFF
  | .peerPortCfg => 0x0
  | .peerVcPcp => 0x77777
  | .peerRetry => 0x1FFFFF
  | .peerTmo => 0xFFFFFFFF
  | .peerStat => 0x0
  | .peerRetryCnt => 0x0
  | .peerDownCnt => 0x0
  | .peerCrcCnt => 0x0
  | .peerOrphanCnt => 0x0
  | .peerGrpMem _ => 0x0
  | .peerGrpCfg _ => 0x0
  | .peerCxAllow _ => 0x0
  | .peerRoute _ => 0x0
  | .ctxCxSq _ _ => 0x0
  | .ctxCxCq _ _ => 0x0
  | .ctxCxRing _ _ => 0xFFFF19
  | .ctxCxRstat _ _ => 0x0
  | .ctxCxEq _ => 0x0
  | .ctxCxEqCfg _ => 0x3
  | .ctxCxEqStat _ => 0x0
  | .hifCtl => 0x3
  | .hifStat => 0x0
  | .hifTb => 0x0
  | .hifTbSet => 0x0
  | .hifPtmCtl => 0xFFFFFFFF
  | .hifPtmOfs => 0x0
  | .hifDbErrCnt => 0x0
  | .hifBar4Base => 0xFFFFFFFFFFFF
  | .hifBar4ErrCnt => 0x0
  | .schCtl => 0x1
  | .schStarve => 0xFFFFFFFF
  | .schMissCnt => 0x0
  | .schCxShift _ => 0xFFFFFFFF
  | .schCxForce _ => 0x0
  | .schCxStat _ => 0x0
  | .fltCtl => 0x7
  | .fltMerge => 0xFFFFFFFF
  | .fltWdog => 0xFFFF
  | .fltLog => 0x1FFFFFFFFFFFFF
  | .fltLogHead => 0xFFFFFFFF
  | .fltLogStat => 0x0
  | .fltReset => 0x0
  | .fltStat => 0x0
  | .fltCeCnt => 0x0
  | .fltUeCnt => 0x0
  | .fltFailClu _ => 0x0
  | .fltFailRgn => 0x0
  | .fltFailD2d => 0x0
  | .fltCxSnapCfg _ => 0xFFFF0001
  | .fltCxSnapList _ => 0x1FFFFFFFFFFFFFFF
  | .fltCxSnapArea _ => 0x0
  | .fltCxSnapSize _ => 0x0
  | .fltCxSnapNewest _ => 0x0
  | .fltCxSnapPrev _ => 0x0
  | .fltCxSnapStat _ => 0x0
  | .fltCxFaults _ => 0x0
  | .secCtl => 0x1
  | .secStat => 0x0
  | .secTenantEnd => 0x0
  | .secEpoch => 0x0
  | .secRtc => 0x0
  | .secLogStat => 0x0
  | .secLogSel => 0x1FF
  | .secLogData0 => 0x0
  | .secLogData1 => 0x0
  | .secKeyStat => 0x0
  | .secCxPkg _ => 0x1FFFFFFFFFFFFFF
  | .secCxPkgStat _ => 0x0
  | .pwrCtl => 0x1
  | .clkStat => 0x0
  | .pwrCap => 0xFFF
  | .pwrCapCtl => 0xFFFF
  | .pwrTherm => 0xFFF
  | .pwrStat => 0x0
  | .pwrTemp => 0x0
  | .pwrEnergy => 0x0
  | .setCtl => 0x1
  | .setStat => 0x0
  | .setSeq => 0x0
  | .setUpdAddr => 0xFFFFFFFFFFFF
  | .setUpdCtl => 0x0
  | .setUpdStat => 0x0
  | .ctxCtl => 0x1
  | .ctxStepTimeout => 0xFFFF
  | .ctxEnabled => 0x0
  | .ctxCxCtl _ => 0x3
  | .ctxCxSetupStat _ => 0x0
  | .ctxCxStep _ => 0x0
  | .ctxCxSteprec _ => 0x0
  | .ctxCxSeed _ => 0x0
  | .ctxCxScale _ => 0x0
  | .ctxCxJournal _ => 0x0
  | .ctxCxJrnlStat _ => 0x0
  | .ctxCxPmap _ => 0x0
  | .ctxCxAdp _ => 0xFFFFFFFFFFFFFFFF
  | .ctxCxSemTmo _ => 0xFFFF
  | .ctxCxWinBase _ _ => 0x0
  | .ctxCxWinSize _ _ => 0x0
  | .arrStat => 0x0
  | .arrRetryCnt => 0x0
  | .arrCluStat _ => 0x0
  | .telCtl => 0x1
  | .telStat => 0x0
  | .telRecords => 0x0
  | .telCxVoids _ => 0x0
  | .telCxReroutes _ => 0x0
  | .telCxMisses _ => 0x0
  | .idCtl => 0x1
  | .idPart => 0x0
  | .idLevel => 0x0
  | .idSerial => 0x0
  | .idIdcode => 0x0
  | .idVendor => 0x0
  | .idRomDigest _ => 0x0
  | .idAccLogCnt => 0x0
  | .idAccLogLast => 0x0
  | .idHbm => 0x0
  | .idDdr _ => 0x0
  | .idRgn _ => 0x0

/-- Bits of RWL fields, writable until the lock that covers them (R7, R468). -/
def Reg.rwlMask : Reg → Nat
  | .arrCtl => 0x0
  | .arrChkCtl => 0x0
  | .arrKindleCtl => 0x0
  | .arrRampCtl => 0x0
  | .attCtl => 0x0
  | .attSpillCtl => 0x0
  | .attSpillCnt => 0x0
  | .attLateCnt => 0x0
  | .tierCtl => 0x0
  | .tierWays => 0x1F
  | .tierPlaceCtl => 0x0
  | .tierTimeout => 0x0
  | .tierImbCtl => 0x0
  | .tierStat => 0x0
  | .tierCxHmask _ => 0xFFFF
  | .tierCxDmask _ => 0xFFF
  | .tierCxWmask _ => 0xFFFF
  | .tierCxQuota _ => 0xFFFFF3FFFF
  | .tierCxScript _ => 0x0
  | .tierCxEmber _ => 0x0
  | .tierCxHeld _ => 0x0
  | .tierCxPfLate _ => 0x0
  | .tierCxEmbCnt _ => 0x0
  | .tierCxExch _ => 0x0
  | .tierCxFail _ => 0x0
  | .strmCtl => 0x0
  | .strmPoisonCnt => 0x0
  | .strmLateCnt => 0x0
  | .strmSplit _ => 0x0
  | .peerCtl => 0x0
  | .peerId => 0x0
  | .peerEtype => 0x0
  | .peerPortCfg => 0xFF
  | .peerVcPcp => 0x0
  | .peerRetry => 0x0
  | .peerTmo => 0x0
  | .peerStat => 0x0
  | .peerRetryCnt => 0x0
  | .peerDownCnt => 0x0
  | .peerCrcCnt => 0x0
  | .peerOrphanCnt => 0x0
  | .peerGrpMem _ => 0xFFFFFFFFFFFFFFFF
  | .peerGrpCfg _ => 0x7F
  | .peerCxAllow _ => 0xFFFFFFFFFFFFFFFF
  | .peerRoute _ => 0x0
  | .ctxCxSq _ _ => 0x1FFFFFFFFFFFFF
  | .ctxCxCq _ _ => 0x1FFFFFFFFFFFFF
  | .ctxCxRing _ _ => 0x6
  | .ctxCxRstat _ _ => 0x0
  | .ctxCxEq _ => 0x1FFFFFFFFFFFFF
  | .ctxCxEqCfg _ => 0x0
  | .ctxCxEqStat _ => 0x0
  | .hifCtl => 0x0
  | .hifStat => 0x0
  | .hifTb => 0x0
  | .hifTbSet => 0x0
  | .hifPtmCtl => 0x0
  | .hifPtmOfs => 0x0
  | .hifDbErrCnt => 0x0
  | .hifBar4Base => 0x0
  | .hifBar4ErrCnt => 0x0
  | .schCtl => 0x0
  | .schStarve => 0x0
  | .schMissCnt => 0x0
  | .schCxShift _ => 0x0
  | .schCxForce _ => 0x0
  | .schCxStat _ => 0x0
  | .fltCtl => 0x0
  | .fltMerge => 0x0
  | .fltWdog => 0x0
  | .fltLog => 0x0
  | .fltLogHead => 0x0
  | .fltLogStat => 0x0
  | .fltReset => 0x0
  | .fltStat => 0x0
  | .fltCeCnt => 0x0
  | .fltUeCnt => 0x0
  | .fltFailClu _ => 0x0
  | .fltFailRgn => 0x0
  | .fltFailD2d => 0x0
  | .fltCxSnapCfg _ => 0x0
  | .fltCxSnapList _ => 0x0
  | .fltCxSnapArea _ => 0xFFFFFFFFFFFF
  | .fltCxSnapSize _ => 0xFFFFFFFF
  | .fltCxSnapNewest _ => 0x0
  | .fltCxSnapPrev _ => 0x0
  | .fltCxSnapStat _ => 0x0
  | .fltCxFaults _ => 0x0
  | .secCtl => 0x0
  | .secStat => 0x0
  | .secTenantEnd => 0x0
  | .secEpoch => 0x0
  | .secRtc => 0x0
  | .secLogStat => 0x0
  | .secLogSel => 0x0
  | .secLogData0 => 0x0
  | .secLogData1 => 0x0
  | .secKeyStat => 0x0
  | .secCxPkg _ => 0x0
  | .secCxPkgStat _ => 0x0
  | .pwrCtl => 0x0
  | .clkStat => 0x0
  | .pwrCap => 0x0
  | .pwrCapCtl => 0x0
  | .pwrTherm => 0x0
  | .pwrStat => 0x0
  | .pwrTemp => 0x0
  | .pwrEnergy => 0x0
  | .setCtl => 0x0
  | .setStat => 0x0
  | .setSeq => 0x0
  | .setUpdAddr => 0x0
  | .setUpdCtl => 0x0
  | .setUpdStat => 0x0
  | .ctxCtl => 0x0
  | .ctxStepTimeout => 0x0
  | .ctxEnabled => 0x0
  | .ctxCxCtl _ => 0x0
  | .ctxCxSetupStat _ => 0x0
  | .ctxCxStep _ => 0x0
  | .ctxCxSteprec _ => 0x0
  | .ctxCxSeed _ => 0xFFFFFFFFFFFFFFFF
  | .ctxCxScale _ => 0xFFFFFFFFFFFF
  | .ctxCxJournal _ => 0xFFFFFFFFFFFFFFFF
  | .ctxCxJrnlStat _ => 0x0
  | .ctxCxPmap _ => 0xFFFFFFFFFFFF
  | .ctxCxAdp _ => 0x0
  | .ctxCxSemTmo _ => 0x0
  | .ctxCxWinBase _ _ => 0xFFFFFFFFFFFF
  | .ctxCxWinSize _ _ => 0xFFFFFFFF
  | .arrStat => 0x0
  | .arrRetryCnt => 0x0
  | .arrCluStat _ => 0x0
  | .telCtl => 0x0
  | .telStat => 0x0
  | .telRecords => 0x0
  | .telCxVoids _ => 0x0
  | .telCxReroutes _ => 0x0
  | .telCxMisses _ => 0x0
  | .idCtl => 0x0
  | .idPart => 0x0
  | .idLevel => 0x0
  | .idSerial => 0x0
  | .idIdcode => 0x0
  | .idVendor => 0x0
  | .idRomDigest _ => 0x0
  | .idAccLogCnt => 0x0
  | .idAccLogLast => 0x0
  | .idHbm => 0x0
  | .idDdr _ => 0x0
  | .idRgn _ => 0x0

/-- The register is of expert level (R8, the tables' Level column). -/
def Reg.expert : Reg → Bool
  | .arrChkCtl => true
  | .arrKindleCtl => true
  | .arrRampCtl => true
  | .attSpillCtl => true
  | .tierPlaceCtl => true
  | .tierTimeout => true
  | .tierImbCtl => true
  | .strmSplit _ => true
  | .peerVcPcp => true
  | .peerRetry => true
  | .peerTmo => true
  | .hifPtmCtl => true
  | .schStarve => true
  | .fltMerge => true
  | .fltWdog => true
  | .pwrCapCtl => true
  | .pwrTherm => true
  | .ctxStepTimeout => true
  | .ctxCxSemTmo _ => true
  | _ => false

/-- The register survives a package-warm reset: FLT_FAIL_ (R467) and the ID fields taken from fuses. -/
def Reg.keptWarm : Reg → Bool
  | .fltFailClu _ => true
  | .fltFailRgn => true
  | .fltFailD2d => true
  | .idSerial => true
  | .idIdcode => true
  | .idVendor => true
  | .idRomDigest _ => true
  | .idHbm => true
  | .idDdr _ => true
  | _ => false

/-- Index `i` with `base + i * stride = off` and `i < count`, if there is one. -/
def strideIdx (base stride count off : Nat) : Option Nat :=
  if base ≤ off ∧ (off - base) % stride = 0 ∧ (off - base) / stride < count then some ((off - base) / stride) else none

/-- The register of the device-wide and simply indexed tables at a BAR0 offset. -/
def regAtPlain (off : Nat) : Option Reg :=
  match off with
  | 0x0500000 => some .arrCtl
  | 0x0500008 => some .arrChkCtl
  | 0x0500010 => some .arrKindleCtl
  | 0x0500018 => some .arrRampCtl
  | 0x0600000 => some .attCtl
  | 0x0600008 => some .attSpillCtl
  | 0x0600010 => some .attSpillCnt
  | 0x0600018 => some .attLateCnt
  | 0x0300000 => some .tierCtl
  | 0x0300008 => some .tierWays
  | 0x0300010 => some .tierPlaceCtl
  | 0x0300018 => some .tierTimeout
  | 0x0300020 => some .tierImbCtl
  | 0x0300028 => some .tierStat
  | 0x0400000 => some .strmCtl
  | 0x0400008 => some .strmPoisonCnt
  | 0x0400010 => some .strmLateCnt
  | 0x0700000 => some .peerCtl
  | 0x0700008 => some .peerId
  | 0x0700010 => some .peerEtype
  | 0x0700018 => some .peerPortCfg
  | 0x0700020 => some .peerVcPcp
  | 0x0700028 => some .peerRetry
  | 0x0700030 => some .peerTmo
  | 0x0700038 => some .peerStat
  | 0x0700040 => some .peerRetryCnt
  | 0x0700048 => some .peerDownCnt
  | 0x0700050 => some .peerCrcCnt
  | 0x0700058 => some .peerOrphanCnt
  | 0x0000000 => some .hifCtl
  | 0x0000008 => some .hifStat
  | 0x0000010 => some .hifTb
  | 0x0000018 => some .hifTbSet
  | 0x0000020 => some .hifPtmCtl
  | 0x0000028 => some .hifPtmOfs
  | 0x0000030 => some .hifDbErrCnt
  | 0x0000038 => some .hifBar4Base
  | 0x0000040 => some .hifBar4ErrCnt
  | 0x0200000 => some .schCtl
  | 0x0200008 => some .schStarve
  | 0x0200010 => some .schMissCnt
  | 0x0A00000 => some .fltCtl
  | 0x0A00008 => some .fltMerge
  | 0x0A00010 => some .fltWdog
  | 0x0A00018 => some .fltLog
  | 0x0A00020 => some .fltLogHead
  | 0x0A00028 => some .fltLogStat
  | 0x0A00030 => some .fltReset
  | 0x0A00038 => some .fltStat
  | 0x0A00040 => some .fltCeCnt
  | 0x0A00048 => some .fltUeCnt
  | 0x0A00130 => some .fltFailRgn
  | 0x0A00138 => some .fltFailD2d
  | 0x0800000 => some .secCtl
  | 0x0800008 => some .secStat
  | 0x0800010 => some .secTenantEnd
  | 0x0800018 => some .secEpoch
  | 0x0800020 => some .secRtc
  | 0x0800028 => some .secLogStat
  | 0x0800030 => some .secLogSel
  | 0x0800038 => some .secLogData0
  | 0x0800040 => some .secLogData1
  | 0x0800048 => some .secKeyStat
  | 0x0900000 => some .pwrCtl
  | 0x0900008 => some .clkStat
  | 0x0900010 => some .pwrCap
  | 0x0900018 => some .pwrCapCtl
  | 0x0900020 => some .pwrTherm
  | 0x0900028 => some .pwrStat
  | 0x0900030 => some .pwrTemp
  | 0x0900038 => some .pwrEnergy
  | 0x0C00000 => some .setCtl
  | 0x0C00008 => some .setStat
  | 0x0C00010 => some .setSeq
  | 0x0C00018 => some .setUpdAddr
  | 0x0C00020 => some .setUpdCtl
  | 0x0C00028 => some .setUpdStat
  | 0x0100000 => some .ctxCtl
  | 0x0100008 => some .ctxStepTimeout
  | 0x0100010 => some .ctxEnabled
  | 0x0500020 => some .arrStat
  | 0x0500028 => some .arrRetryCnt
  | 0x0B00000 => some .telCtl
  | 0x0B00008 => some .telStat
  | 0x0B00010 => some .telRecords
  | 0x0D00000 => some .idCtl
  | 0x0D00008 => some .idPart
  | 0x0D00010 => some .idLevel
  | 0x0D00018 => some .idSerial
  | 0x0D00020 => some .idIdcode
  | 0x0D00028 => some .idVendor
  | 0x0D00060 => some .idAccLogCnt
  | 0x0D00068 => some .idAccLogLast
  | 0x0D00070 => some .idHbm
  | _ => none

/-- The register with one index at a BAR0 offset. -/
def regAtIndexed (off : Nat) : Option Reg :=
  ((strideIdx 0x0301000 0x80 64 off).map .tierCxHmask)
  <|> ((strideIdx 0x0301008 0x80 64 off).map .tierCxDmask)
  <|> ((strideIdx 0x0301010 0x80 64 off).map .tierCxWmask)
  <|> ((strideIdx 0x0301018 0x80 64 off).map .tierCxQuota)
  <|> ((strideIdx 0x0301020 0x80 64 off).map .tierCxScript)
  <|> ((strideIdx 0x0301028 0x80 64 off).map .tierCxEmber)
  <|> ((strideIdx 0x0301030 0x80 64 off).map .tierCxHeld)
  <|> ((strideIdx 0x0301038 0x80 64 off).map .tierCxPfLate)
  <|> ((strideIdx 0x0301040 0x80 64 off).map .tierCxEmbCnt)
  <|> ((strideIdx 0x0301048 0x80 64 off).map .tierCxExch)
  <|> ((strideIdx 0x0301050 0x80 64 off).map .tierCxFail)
  <|> ((strideIdx 0x0400100 0x8 12 off).map .strmSplit)
  <|> ((strideIdx 0x0700100 0x10 64 off).map .peerGrpMem)
  <|> ((strideIdx 0x0700108 0x10 64 off).map .peerGrpCfg)
  <|> ((strideIdx 0x0700500 0x8 64 off).map .peerCxAllow)
  <|> ((strideIdx 0x0700800 0x8 64 off).map .peerRoute)
  <|> ((strideIdx 0x0201000 0x20 64 off).map .schCxShift)
  <|> ((strideIdx 0x0201008 0x20 64 off).map .schCxForce)
  <|> ((strideIdx 0x0201010 0x20 64 off).map .schCxStat)
  <|> ((strideIdx 0x0A00100 0x8 6 off).map .fltFailClu)
  <|> ((strideIdx 0x0A01000 0x40 64 off).map .fltCxSnapCfg)
  <|> ((strideIdx 0x0A01008 0x40 64 off).map .fltCxSnapList)
  <|> ((strideIdx 0x0A01010 0x40 64 off).map .fltCxSnapArea)
  <|> ((strideIdx 0x0A01018 0x40 64 off).map .fltCxSnapSize)
  <|> ((strideIdx 0x0A01020 0x40 64 off).map .fltCxSnapNewest)
  <|> ((strideIdx 0x0A01028 0x40 64 off).map .fltCxSnapPrev)
  <|> ((strideIdx 0x0A01030 0x40 64 off).map .fltCxSnapStat)
  <|> ((strideIdx 0x0A01038 0x40 64 off).map .fltCxFaults)
  <|> ((strideIdx 0x0801000 0x10 64 off).map .secCxPkg)
  <|> ((strideIdx 0x0801008 0x10 64 off).map .secCxPkgStat)
  <|> ((strideIdx 0x0500100 0x8 324 off).map .arrCluStat)
  <|> ((strideIdx 0x0B01000 0x40 64 off).map .telCxVoids)
  <|> ((strideIdx 0x0B01008 0x40 64 off).map .telCxReroutes)
  <|> ((strideIdx 0x0B01010 0x40 64 off).map .telCxMisses)
  <|> ((strideIdx 0x0D00030 0x8 6 off).map .idRomDigest)
  <|> ((strideIdx 0x0D00100 0x8 12 off).map .idDdr)
  <|> ((strideIdx 0x0D00200 0x8 36 off).map .idRgn)

/-- The register of a context page of the CTX block (R293, R475), by context and offset in the page. -/
def ctxPageReg (x o : Nat) : Option Reg :=
  match o with
  | 0x400 => some (.ctxCxEq x)
  | 0x408 => some (.ctxCxEqCfg x)
  | 0x410 => some (.ctxCxEqStat x)
  | 0x000 => some (.ctxCxCtl x)
  | 0x008 => some (.ctxCxSetupStat x)
  | 0x010 => some (.ctxCxStep x)
  | 0x018 => some (.ctxCxSteprec x)
  | 0x020 => some (.ctxCxSeed x)
  | 0x028 => some (.ctxCxScale x)
  | 0x030 => some (.ctxCxJournal x)
  | 0x038 => some (.ctxCxJrnlStat x)
  | 0x040 => some (.ctxCxPmap x)
  | 0x048 => some (.ctxCxAdp x)
  | 0x050 => some (.ctxCxSemTmo x)
  | _ =>
    ((strideIdx 0x200 0x20 16 o).map (Reg.ctxCxSq x))
    <|> ((strideIdx 0x208 0x20 16 o).map (Reg.ctxCxCq x))
    <|> ((strideIdx 0x210 0x20 16 o).map (Reg.ctxCxRing x))
    <|> ((strideIdx 0x218 0x20 16 o).map (Reg.ctxCxRstat x))
    <|> ((strideIdx 0x100 0x10 16 o).map (Reg.ctxCxWinBase x))
    <|> ((strideIdx 0x108 0x10 16 o).map (Reg.ctxCxWinSize x))

/-- The register at a BAR0 offset; none where no table names one (R463). -/
def regAt (off : Nat) : Option Reg :=
  match regAtPlain off with
  | some r => some r
  | none =>
    if 0x0110000 ≤ off ∧ off < 0x0150000 then ctxPageReg ((off - 0x0110000) / 0x1000) (off % 0x1000)
    else regAtIndexed off

/-- The register that holds a block's EXPERT_EN in bit 0 (R463). -/
def Block.ctl : Block → Reg
  | .hif => .hifCtl | .ctx => .ctxCtl | .sch => .schCtl | .tier => .tierCtl | .strm => .strmCtl
  | .arr => .arrCtl | .att => .attCtl | .peer => .peerCtl | .sec => .secCtl | .pwr => .pwrCtl
  | .flt => .fltCtl | .tel => .telCtl | .set => .setCtl | .id => .idCtl

/-- The expert registers of a block (R463). -/
def Block.expertRegs : Block → List Reg
  | .hif => [.hifPtmCtl]
  | .ctx => .ctxStepTimeout :: (List.range 64).map .ctxCxSemTmo
  | .sch => [.schStarve]
  | .tier => [.tierPlaceCtl, .tierTimeout, .tierImbCtl]
  | .strm => (List.range 12).map .strmSplit
  | .arr => [.arrChkCtl, .arrKindleCtl, .arrRampCtl]
  | .att => [.attSpillCtl]
  | .peer => [.peerVcPcp, .peerRetry, .peerTmo]
  | .pwr => [.pwrCapCtl, .pwrTherm]
  | .flt => [.fltMerge, .fltWdog]
  | .sec | .tel | .set | .id => []

end Sys2Proof.Machine
end

