-- ==== Sys2Proof/Machine/SMap.lean ====
section
/-! DEFINITION. Sparse data by key: a list of key and value pairs in one canonical form, keys strictly
rising and no entry equal to the value an unlisted key reads as. Memory, registers and tables are such lists. -/

namespace Sys2Proof.Machine

/-- The value at a key; `d` is what an unlisted key reads as. -/
def smGet {α : Type} (d : α) : List (Nat × α) → Nat → α
  | [], _ => d
  | (k, v) :: m, a => if a = k then v else smGet d m a

/-- Put an entry before the first of a higher key. -/
def smIns {α : Type} : List (Nat × α) → Nat → α → List (Nat × α)
  | [], a, v => [(a, v)]
  | (k, w) :: m, a, v => if a < k then (a, v) :: (k, w) :: m else (k, w) :: smIns m a v

/-- The list with a key set: the canonical form is kept, so setting the unlisted value removes the entry. -/
def smSet {α : Type} [DecidableEq α] (d : α) (m : List (Nat × α)) (a : Nat) (v : α) : List (Nat × α) :=
  if v = d then m.filter fun p => p.1 != a else smIns (m.filter fun p => p.1 != a) a v

/-- Every key of the list is above `a`. -/
def smAbove {α : Type} (a : Nat) : List (Nat × α) → Bool
  | [] => true
  | (k, _) :: m => decide (a < k) && smAbove a m

/-- The canonical form: keys strictly rising, and no entry that an unlisted key would read as. -/
def smWf {α : Type} [DecidableEq α] (d : α) : List (Nat × α) → Bool
  | [] => true
  | (k, v) :: m => decide (v ≠ d) && smAbove k m && smWf d m

/-- The list without the keys in [a, a + n). -/
def smErase {α : Type} (m : List (Nat × α)) (a n : Nat) : List (Nat × α) :=
  m.filter fun p => !(decide (a ≤ p.1) && decide (p.1 < a + n))

/-- The entries of the keys [a, a + n) that hold `f`. -/
def smRun {α : Type} [DecidableEq α] (d : α) (f : Nat → α) (a n : Nat) : List (Nat × α) :=
  (List.range' a n).filterMap fun k => if f k = d then none else some (k, f k)

/-- The list with every key of [a, a + n) set from `f`. -/
def smFill {α : Type} [DecidableEq α] (d : α) (m : List (Nat × α)) (f : Nat → α) (a n : Nat) : List (Nat × α) :=
  m.filter (fun p => decide (p.1 < a)) ++ (smRun d f a n ++ m.filter fun p => decide (a + n ≤ p.1))

end Sys2Proof.Machine
end

