-- ==== Sys2Proof/Machine/State.lean ====
section
/-! DEFINITION. The state of the FVQ-9410 as plain data, and the state after reset. Whatever a BAR0 register
shows has its home in that register (field `regs`); the rest is held here by name. -/

namespace Sys2Proof.Machine

/-- The four counters of an assay set, 48 bits each, saturating (R48). -/
structure Counters where
  total  : Nat
  sat    : Nat
  ufl    : Nat
  nonfin : Nat
deriving DecidableEq, Repr

/-- A journal entry (R217, R283, R46): what a commit will perform. -/
inductive JEntry where
  /-- An optimizer command with its parameter block, as copied at acceptance. -/
  | opt (op : RingOp) (d : Desc) (block : List Byte)
  /-- A SCALE_SET image for a tensor. -/
  | scaleSet (tid : Nat) (image : List Byte)
  /-- The flip of ACTIVE of a bittern record. -/
  | flip (record : Nat)
deriving DecidableEq, Repr

/-- How far the exchange of a COLL has come. -/
inductive CollPhase where
  /-- Its handshakes have gone out, and it waits for those of the other members (R276). -/
  | shake
  /-- Its contributions have gone out, and it waits for theirs. -/
  | data
  /-- What it formed for the others has gone out, and it waits for what they form (R274, R275, R280). -/
  | blocks
deriving DecidableEq, Repr

/-- Where a command that has been read stands. -/
inductive OutSt where
  /-- In a lane of its engine, not started (R328, R329). -/
  | queued
  /-- A SYNC at its barrier, its fence or its wait (R301). -/
  | syncBarrier | syncFence | syncWait
  /-- A STEP at its fence (R220), or waiting for verdicts (R222) with its own verdict's cause bits. -/
  | stepFence
  | stepGroup (cause : Nat)
  /-- A STEP whose boundary waits for the pass images that its version advances made due (R253, R254), with the
  status that its completion will carry. -/
  | stepRebuild (status : Nat)
  /-- An ADMIT staged (R130). -/
  | staged
  /-- A TAKE whose stream runs (R371), or that waits for another stream. -/
  | streaming
  /-- A COLL in its exchange (R276). -/
  | coll (phase : CollPhase)
  /-- A COPY or COMBINE waiting for read data of a peer (R267). -/
  | peerRead
  /-- A MOVE of which this many 64 KiB units of destination bytes have landed, a poisoned line among them (R180). -/
  | moving (units : Nat) (bad : Bool)
  /-- An INVOKE: next descriptor, descriptors, first program command that was not OK, abandoned (R306). -/
  | call (next count : Nat) (bad : Option (Nat × Nat)) (abandoned : Bool)
  /-- A RELEASE waiting for running invocations (R307). -/
  | release
deriving DecidableEq, Repr

/-- A command read and not completed. -/
structure OutCmd where
  ident  : Nat
  ctx    : Nat
  ring   : Nat
  /-- Its position in the submission ring, a free-running count (R294). -/
  pos    : Nat
  op     : RingOp
  /-- Its descriptor, translated by the map active at the read (R232). -/
  d      : Desc
  /-- Read time r and deadline D (R324). -/
  rtime  : Nat
  dl     : Nat
  missed : Bool
  /-- The CALL whose program it belongs to, its index there, the program id, the nesting depth (R305). -/
  parent : Option Nat
  index  : Nat
  prog   : Nat
  depth  : Nat
  st     : OutSt
  /-- Of a COLL, its number in its group (R277); of a fence, a mark that later posted writes are above (R269). -/
  seqNo  : Nat
  /-- It has been counted as held on staging, and on an ember object (R165). -/
  late   : Bool
  miss   : Bool
  /-- It was issued before its context's last step boundary, so no later step counts it (R215). -/
  old    : Bool
  /-- Of a gang that has not started, the members that have reserved themselves for it (R332). -/
  held   : List Nat
  /-- Bytes that peers have returned for it, and the poisoned lines among them (address / 64). -/
  got    : List Host.Cell
  gotBad : List Nat
deriving DecidableEq, Repr

/-- The timebase's correction (R321): the offset not yet worked off in ns, and the millionths of a ns gathered toward the next
of its steps. -/
structure PtmSt where
  left : Int
  frac : Nat
deriving DecidableEq, Repr

/-- A ring of a context, apart from its registers. -/
structure RingSt where
  subTail    : Nat
  cplHead    : Nat
  /-- The active phase map (R233). -/
  map        : Nat
  /-- A descriptor read failed (R295). -/
  fetchFault : Bool
  /-- Completions pending since the last interrupt, and the timebase of the oldest (R320). -/
  pend       : Nat
  oldest     : Nat
  /-- Cancel words that cover unread positions: limit, value, mask (R297). -/
  cancels    : List (Nat × Nat × Nat)
deriving DecidableEq, Repr

/-- A registered program (R304). -/
structure Prog where
  addr   : Nat
  count  : Nat
  digest : BitVec 384
deriving DecidableEq, Repr

/-- A key-value cache that an ADMIT has named: its slot, its descriptor's address, its pools in HBM and in DDR
(address and length), and the page-list heads live in it (R125, R127). -/
structure CachePool where
  slot    : Nat
  desc    : Nat
  hbm     : Nat
  hbmLen  : Nat
  ddr     : Nat
  ddrLen  : Nat
  records : List Nat
deriving DecidableEq, Repr

/-- An ember object of a context (R160, R161). -/
structure EmberObj where
  addr    : Nat
  slabs   : Nat
  adapter : Option Nat
  /-- The logical region whose cache portion holds it, or will when it has moved in; none while it is in HBM. -/
  home    : Option Nat
  /-- Moving in. -/
  moving  : Bool
  written : Bool
  /-- Timebase of its last use (R162). -/
  used    : Nat
deriving DecidableEq, Repr

/-- A staging slab of a prefetch script (R165). -/
structure StageSlab where
  dst    : Nat
  src    : Nat
  /-- The entry of the script. -/
  entry  : Nat
  failed : Bool
deriving DecidableEq, Repr

/-- A posted peer write not yet acknowledged (R268). -/
structure Posted where
  stamp   : Nat
  tag     : Nat
  pkg     : Nat
  addr    : Nat
  subport : Nat
  len     : Nat
deriving DecidableEq, Repr

/-- A peer read not yet answered (R267). -/
structure PeerRead where
  ident   : Nat
  pkg     : Nat
  addr    : Nat
  subport : Nat
  tag     : Nat
  len     : Nat
deriving DecidableEq, Repr

/-- The states of a registered adapter (R244). -/
inductive AdpState where
  | free | pending | live | retiring
deriving DecidableEq, Repr

/-- A registry entry (R244). -/
structure Adapter where
  state    : AdpState
  owner    : Nat
  version  : Nat
  origin   : BitVec 384
  layout   : Nat
  stAddr   : Nat
  passAddr : Nat
  ember    : Nat
  /-- A CREATE or IMPORT has finished since the last boundary (R247 step 2). -/
  finished : Bool
  /-- A version advance awaits its pass image (R253, R254). -/
  rebuildDue : Bool
deriving DecidableEq, Repr

/-- A pending request of an adapter table (R246, R247). -/
structure AdpReq where
  entry   : Nat
  op      : Nat
  adapter : Nat
  req     : Nat
deriving DecidableEq, Repr

/-- A complete snapshot generation (R364, R365, R369): the step counter, the captured extents (address, length) and
their bytes, poisoned lines, the phase maps, registry entries of the adapters, and the counts of history slots. -/
structure Gen where
  gen      : Word
  extents  : List (Nat × Nat)
  cells    : List Host.Cell
  bad      : List Nat
  maps     : List (List Nat)
  adapters : List (Nat × Adapter)
  hist     : List (Nat × Nat)
  /-- When it was cut (R365). -/
  time     : Nat
deriving DecidableEq, Repr

/-- A snapshot stream that runs (R366): its cut, the capture set in slabs, whether a TAKE asked for it, its start. -/
structure Stream where
  cut     : Gen
  capture : List Nat
  byTake  : Option Nat
  start   : Nat
deriving DecidableEq, Repr

/-- A mark of a step record (R214). -/
structure StepMark where
  /-- The mark's bit in CTX_CX_STEPREC. -/
  bit  : Nat
  /-- Of INCOMPLETE, the ring of the command. -/
  ring : Nat
  tag  : Nat
deriving DecidableEq, Repr

/-- Everything a context holds apart from its registers and its memory. -/
structure CtxSt where
  rings      : List (Nat × RingSt)
  evtHead    : Nat
  evtMerged  : List (Nat × Nat)
  journal    : List JEntry
  /-- The marks of the step in progress, in the order in which they were set, and those that arrive after a STEP has begun its
  check: the next step's (R214). -/
  marks      : List StepMark
  nextMarks  : List StepMark
  maps       : List (List Nat)
  ragged     : Option Nat
  assay      : List (Nat × Counters)
  since      : List (Nat × (Nat × Nat))
  raised     : List (Nat × Bool)
  hist       : List (Nat × Nat)
  progs      : List (Nat × Option Prog)
  pools      : List CachePool
  embers     : List EmberObj
  /-- Move-ins that an entry of a script or an admission has asked for: the object's address, the region (R161). -/
  wants      : List (Nat × Nat)
  /-- Consecutive windows in which a channel of the context's set has exceeded the imbalance ratio (R156). -/
  imb        : List (Nat × Nat)
  cursor     : Nat
  issued     : Nat
  stage      : List StageSlab
  posted     : List Posted
  reads      : List PeerRead
  /-- Rings in which a counted command has been issued since the previous boundary, a bit each (R215, R235). -/
  counted    : Nat
  snapSince  : Bool
  adpReqs    : List AdpReq
  /-- The adapter-table register in force, which R245 lets lag behind CTX_CX_ADP until a boundary. -/
  adpTable   : Word
  /-- Requests of the package table that run: entry address, OP, destination, length (R397). -/
  loading    : List (Nat × Nat × Nat × Nat)
  snapFull   : Bool
  /-- A background cut waits for the running stream to end (R365). -/
  cutDue     : Bool
  stream     : Option Stream
  newest     : Option Gen
  prev       : Option Gen
  lastCut    : Nat
  lastCommit : Nat
  lastDur    : Nat
  everSnap   : Bool
  /-- The entries of the snapshot list that the last cut read (R366). -/
  snapList   : List (Nat × Nat)
  /-- A disable waits for the rings to drain (R342). -/
  disabling  : Bool
deriving DecidableEq, Repr

/-- A tier-map entry (R149) and the exchange that moves the page: target tier and slabs already moved (R146). -/
structure TierEntry where
  frame   : Nat
  ddr     : Bool
  backed  : Bool
  pin     : Bool
  state   : Nat
  planes  : Nat
  owner   : Nat
  heat    : Nat
  coded   : BitVec 32
  /-- Page of the other half of an exchange, while moving. -/
  partner : Option Nat
  moved   : BitVec 32
  /-- RELEASE asked for while moving (R179). -/
  release : Bool
  /-- Bytes of traffic toward the next unit of heat (R150). -/
  traffic : Nat
  /-- A page of a snapshot area, which counts against no quota (R369). -/
  snap    : Bool
deriving DecidableEq, Repr

/-- A loaded-package record (R394, R397). -/
structure Package where
  ctx    : Nat
  addr   : Nat
  len    : Nat
  frozen : Bool
  digest : BitVec 384
deriving DecidableEq, Repr

/-- A frame not yet acknowledged (R265); `tries` counts its transmissions, 0 while it waits for credits (R264). -/
structure Sent where
  seq     : Nat
  vc      : Nat
  typ     : Nat
  addr    : Nat
  ctx     : Nat
  tag     : Nat
  tries   : Nat
  poison  : Nat
  payload : List Byte
deriving DecidableEq, Repr

/-- A connection: a sub-port paired with a package (R263 to R266). -/
structure Conn where
  up      : Bool
  txSeq   : Nat
  rxSeq   : Nat
  /-- The other end's sub-port, as its hellos name it (R262). -/
  peerSub : Nat
  /-- Frames that wait for credits or for the end of a pause, not yet numbered, and frames sent and not acknowledged (R264,
  R265). -/
  waiting : List Sent
  unacked : List Sent
  /-- A negative acknowledgement has been sent since the last accepted frame. -/
  naked   : Bool
  /-- Credits per virtual channel in lines (R264). -/
  credits : List Nat
deriving DecidableEq, Repr

/-- A bank of an array: the tile, or the slice of one, that its cubes hold (R54), and the checksum cubes' sums of it
(R74). Weights are row-major over the stored tile, block exponents applied and the per-tensor exponent not. -/
structure Bank where
  ctx     : Nat
  addr    : Nat
  tid     : Nat
  mode    : Nat
  fmt     : Nat
  slice   : Nat
  /-- The bank holds the whole tile: a real weight of one slice (R98). -/
  whole   : Bool
  cols    : Nat
  weights : List Fv
  /-- A line of the tile was poisoned when it was loaded (R185). -/
  bad     : Bool
  /-- The checksum column: c_i and d_i of each input feature, in SHALLOW of each half-array. -/
  colSum  : List Fv
  colAbs  : List Fv
  /-- The checksum row: c'_j and d'_j of each output feature. -/
  rowSum  : List Fv
  rowAbs  : List Fv
deriving DecidableEq, Repr

/-- Which way an array's budget moves (R82). -/
inductive Ramp where
  | steady | up | down | hold
deriving DecidableEq, Repr

/-- An array, apart from BUDGET in its register (R79 to R82). -/
structure ArrSt where
  ramp     : Ramp
  window   : Bool
  /-- The two banks (R54). At rest the shadow bank holds what the front copied from it (R61). -/
  active   : Option Bank
  shadow   : Option Bank
  /-- Failed kindling checks on the loaded tile since it was loaded or a real pass was checked (R79). -/
  kindles  : Nat
  /-- The linear-feedback shift register (R80). -/
  lfsr     : Word32
  /-- Times in ns of uncorrectable errors of its scratch (R359). -/
  errs     : List Nat
deriving DecidableEq, Repr

/-- A report in a merge table (R356): `cmd` is the command concerned, as `cmdRef` packs it; the distinct reporting
units, the reports merged beyond the first, and the time of the first. -/
structure MergeEntry where
  code       : Nat
  sev        : Nat
  source     : Nat
  ctx        : Option Nat
  action     : Nat
  info       : Nat
  cmd        : Nat
  reporters  : List Nat
  suppressed : Nat
  time       : Nat
deriving DecidableEq, Repr

/-- What the package aggregator knows of a CODE and SOURCE that keeps recurring (R357): consecutive windows, the end of
the last one, whether further records are held, and what the hold has gathered. -/
structure Storm where
  code    : Nat
  source  : Nat
  windows : Nat
  last    : Nat
  holding : Bool
  held    : List MergeEntry
deriving DecidableEq, Repr

/-- A secured SPDM session (R388). -/
structure Session where
  ident  : Nat
  tenant : Bool
deriving DecidableEq, Repr

/-- An adapter key slot (R250, R394, R395). -/
structure AdpKey where
  key   : BitVec 256
  owner : Option Nat
  exports : Nat
deriving DecidableEq, Repr

/-- The security state that SEC_STAT does not show (R381 to R413). -/
structure SecSt where
  /-- Target STATE of a running tenant change: 0 OPEN, 1 CONFIDENTIAL. -/
  target      : Option Nat
  policy      : BitVec 512
  nextPolicy  : BitVec 512
  adpKeys     : List (Nat × Option AdpKey)
  setKeys     : List (Word × BitVec 256)
  /-- Adapter slots whose erasure waits for an EXPORT or an IMPORT to end (R395). -/
  erases      : List Nat
  sessions    : List Session
  nextSession : Nat
  /-- The interleave key once a tenancy has drawn it (R155), and the two HBM keys, the DDR key and the two
  nonce-record keys, as drawn (R394, R401, R402). -/
  interleave  : Option Word
  memKeys     : List (BitVec 256)
  ideSecure   : List Bool
  ideKeys     : List (BitVec 256)
  wrapSecret  : Option (BitVec 256)
  /-- Entries of the battery log, oldest first, and how many have ever been written (R413). -/
  log         : List (BitVec 128)
  logCount    : Nat
  preserved   : Option (List (Nat × Option AdpKey) × List (Word × BitVec 256) × BitVec 512)
  /-- An alarm or a loss of the domain since the last power-down, read at power-up (R411). -/
  alarmLogged : Bool
  domainLost  : Bool
  /-- The real-time clock of the always-on domain, in ns (R409). -/
  rtc         : Nat
deriving DecidableEq, Repr

/-- The power states of the package (R421). -/
inductive PowerState where
  | off | standby | boot | active
deriving DecidableEq, Repr

/-- The supply, power cap and temperature (R421 to R427). -/
structure PowerSt where
  state    : PowerState
  bCap     : Nat
  bTherm   : List Nat
  /-- INPUT_LOW holds b_cap at 2 (R427). -/
  inputLow : Bool
  /-- CAP_UNMET has been reported for the present period (R424). -/
  capUnmet : Bool
  /-- Dies (0-3 compute, 4-5 hub) and stacks (6-13) at or above THROTTLE (R425). -/
  throttling : List Bool
  limited  : List Bool
  /-- Rails that are on, in the order of R420. -/
  rails    : List Bool
  /-- Last window average in W, input energy since the cold reset in µJ, and the hottest sensor of the package in °C
  (R423, R442, R457). -/
  inputW   : Nat
  energy   : Nat
  hot      : Nat
  /-- The RTC when CAP_UNMET was last reported (R457). -/
  capAt    : Option Nat
deriving DecidableEq, Repr

/-- The pins that the block drives (R455, R457). -/
structure Pins where
  sysReady     : Bool
  sysFaultN    : Bool
  sysThermtripN : Bool
  smbAlertN    : Bool
deriving DecidableEq, Repr

/-- PCI Express configuration that the host sets, and the subsystem ids of the settings image (R323, R430, R434). -/
structure PcieSt where
  bars      : Bool
  memSpace  : Bool
  busMaster : Bool
  msixEn    : Bool
  /-- The Function Mask of MSI-X. -/
  msixMask  : Bool
  ptmEn     : Bool
  linkUp    : Bool
  subVendor : Nat
  subSystem : Nat
  /-- Max Payload Size and Max Read Request Size in bytes (R288). -/
  maxPayload : Nat
  maxRead    : Nat
deriving DecidableEq, Repr

/-- What a part is and what its board holds: fuses, settings flash, the failure record in flash (R17, R363, R385, R432). -/
structure PartSt where
  badClusters  : List Nat
  badRegions   : List Nat
  boardKeyHash : Option (BitVec 384)
  flashA       : List Byte
  flashB       : List Byte
  /-- The failure record as last written to flash: clusters, regions, links at half width, links using spares. -/
  recClusters  : List Nat
  recRegions   : List Nat
  recHalf      : List Nat
  recSpared    : List Nat
  digest       : BitVec 384
  ddrMask      : Nat
  /-- What the last boot with a board found on it: the DIMMs, and what the PCI Express link trains to, as in `Board`. -/
  dimms        : List Dimm
  speed        : Fin 6
  lanes        : Fin 5
deriving DecidableEq, Repr

/-- A die-to-die link: wires replaced, half width, down (R353). -/
structure D2dLink where
  spared : Nat
  half   : Bool
  down   : Bool
deriving DecidableEq, Repr

/-- Times in ns of uncorrectable errors of a region's SRAM (R359). -/
structure RgnSt where
  errs  : List Nat
deriving DecidableEq, Repr

/-- What the block drives on its ports. -/
inductive Output where
  /-- A reply to a BAR read: none is Unsupported Request; with the EP bit (R290). -/
  | barRead (data : Option (List Byte)) (ep : Bool)
  /-- A read of host memory at an untranslated address, of some bytes (R141). -/
  | hostRead (addr len : Nat)
  /-- A write into one line of host memory at an untranslated address; with the EP bit (R141, R184). -/
  | hostWrite (addr : Nat) (data : List Byte) (ep : Bool)
  /-- A signalled MSI-X vector (R319). -/
  | interrupt (vector : Nat)
  /-- A Huantag frame on a sub-port, octet by octet (R260). -/
  | frame (subport : Nat) (octets : List Byte)
  /-- An SMBus word or block (R457). -/
  | smbus (data : List Nat)
  /-- A monitor reply: an error name, or OK with numbers (R459). -/
  | monitor (err : Option String) (data : List Nat)
  /-- A monitor notice (R462). -/
  | notice (data : List Nat)
  /-- An SPDM response body or error (R387, R391). -/
  | spdm (err : Option String) (data : List Byte)
  /-- A key-protocol status (R392): 0 OK, 1 BUSY, 2 REFUSED, 3 NO_SPACE, 4 MALFORMED, with the log where asked. -/
  | keyProtocol (status : Nat) (log : List (BitVec 128))
  /-- A TDISP or IDE_KM response: accepted or not (R399, R400). -/
  | tdisp (accepted : Bool)
  /-- A configuration completion: Request Retry Status, or done with what was read (R288, R430). -/
  | config (retry : Bool) (data : List Nat)
  /-- What boundary scan shifts out: IDCODE, pins driven, or the bypass bit (R456). -/
  | scan (idcode : Option Nat) (drives : Bool)
deriving DecidableEq, Repr

/-- Reasons the machine of the model stops with a fault. None: every row of the table has the effect the
spec gives it, and what the device calls a fault is a completion, an event or a record in State. -/
inductive Fault where
deriving DecidableEq, Repr

/-- Reasons the model refuses a command. -/
inductive Refusal where
  /-- Raised by exec alone, for a row of the table that has no meaning yet. Safe: no claim about that row can be proved. -/
  | notModelled (mnemonic : String)
deriving DecidableEq, Repr

/-- The FVQ-9410 (R1). -/
structure State where
  /-- Commands that wait, first in, first out: the model's own field. -/
  pending  : List Instr
  /-- Free values drawn so far: the model's own field, DESIGN CHOICE, log entry 1. -/
  free     : Nat
  /-- BAR0 registers by offset (R463), each held as its bitwise difference from its reset value, so that an
  unlisted register reads its Reset column. -/
  regs     : List (Nat × Word)
  /-- Bytes of the device address space, by address (R138). -/
  mem      : List Host.Cell
  /-- Poisoned 64-byte lines, by address / 64 (R184). -/
  poison   : List (Nat × Bool)
  /-- Contexts for which a slab is unchanged since their last cut, a bit each, by address / 64 KiB (R366). -/
  clean    : List (Nat × Nat)
  /-- The cache ways, TIER_CTL, ATT_CTL and ATT_SPILL_CTL in force, which R136 and R170 let lag behind their registers. -/
  ways     : Nat
  tierCtl  : Word
  attCtl   : Word
  attSpill : Word
  /-- The tier map, by address / 2 MiB (R149). -/
  tier     : List (Nat × TierEntry)
  /-- Write counters of DDR frames (R402) and frames withheld (R403). -/
  ddrCtr   : List (Nat × Nat)
  withheld : List (Nat × Bool)
  /-- The MSI-X table by 4-byte word, and the pending bits by vector (R472). -/
  msix     : List (Nat × Word32)
  msixPend : List (Nat × Bool)
  /-- Per source: offset of the register latched, and its high half (R465). -/
  latches  : List (Source × Nat × Word32)
  pcie     : PcieSt
  ptm      : PtmSt
  ctxs     : List (Nat × CtxSt)
  outs     : List OutCmd
  nextId   : Nat
  adapters : List (Nat × Adapter)
  packages : List (Nat × Option Package)
  /-- Sequence numbers of the groups (R276), and verdicts held: group, package, counter, finite (R222). -/
  grpSeq   : List (Nat × Nat)
  verdicts : List (Nat × Nat × Word × Bool)
  /-- Group numbers whose abandon notice has come before their COLL was read (R277). -/
  abandoned : List (Nat × Nat)
  /-- What has arrived for COLLs that have not ended, and the package that it came from (R276). -/
  collIn   : List (Nat × CollPart)
  /-- Connections by sub-port × 64 + package (R263). -/
  conns    : List (Nat × Conn)
  /-- Pause quanta obeyed, by sub-port × 8 + priority (R264). -/
  pauses   : List (Nat × Nat)
  arrays   : List (Nat × ArrSt)
  /-- What goes wrong in arrays and no MMA has met yet: the model's own field, the outside's doing (DESIGN CHOICE, log entry
  127). -/
  glitches : List ArrEvent
  /-- The ring that was read last, as context × 16 + ring (R295). -/
  served   : Nat
  /-- How far the next MOVE to start or to go on comes before something else happens: the model's own field (DESIGN CHOICE,
  log entry 137). -/
  halt     : Option Nat
  rgns     : List (Nat × RgnSt)
  /-- Times in ns of watchdog trips, by engine index (R352). -/
  engTrips : List (Nat × List Nat)
  d2d      : List (Nat × D2dLink)
  /-- Merge tables by aggregator: region r is r, die d is 36 + d, the package 42 (R356). -/
  merges   : List (Nat × List MergeEntry)
  storms   : List Storm
  /-- Log records merged since the device fault log was last able to take one (R318, R358). -/
  logMerged : Nat
  power    : PowerSt
  /-- A SEV 3 condition has failed the package (R352, R426). -/
  failed   : Bool
  pins     : Pins
  sec      : SecSt
  part     : PartSt
  /-- Rate of the monitor's UART in baud (R434, R458). -/
  baud     : Nat
  /-- What the block has driven, oldest first. -/
  out      : List Output
deriving DecidableEq, Repr

/-- A ring after reset. -/
def RingSt.reset : RingSt := ⟨0, 0, 0, false, 0, 0, []⟩

/-- A context after reset: every phase map the identity (R231). -/
def CtxSt.reset : CtxSt where
  rings := []
  evtHead := 0
  evtMerged := []
  journal := []
  marks := []
  nextMarks := []
  maps := List.replicate 8 (List.range 32)
  ragged := none
  assay := []
  since := []
  raised := []
  hist := []
  progs := []
  pools := []
  embers := []
  wants := []
  imb := []
  cursor := 0
  issued := 0
  stage := []
  posted := []
  reads := []
  counted := 0
  snapSince := false
  adpReqs := []
  adpTable := 0
  loading := []
  snapFull := true
  cutDue := false
  stream := none
  newest := none
  prev := none
  lastCut := 0
  lastCommit := 0
  lastDur := 0
  everSnap := false
  snapList := []
  disabling := false

/-- The tier-map entry of an unbacked page. -/
def TierEntry.reset : TierEntry := ⟨0, false, false, false, 0, 0, 0, 0, 0, none, 0, false, 0, false⟩

/-- The registry entry of a free id. -/
def Adapter.reset : Adapter := ⟨.free, 0, 0, 0, 0, 0, 0, 0, false, false⟩

/-- A connection that is down; at every moment a connection holds credit for one largest frame (R264). -/
def Conn.reset : Conn := ⟨false, 0, 0, 0, [], [], false, List.replicate 5 65⟩

/-- An array with nothing loaded, at b = 0; its shift register at 1 (DESIGN CHOICE, log entry 130). -/
def ArrSt.reset : ArrSt := ⟨.steady, false, none, none, 0, 1, []⟩

def Counters.reset : Counters := ⟨0, 0, 0, 0⟩

def D2dLink.reset : D2dLink := ⟨0, false, false⟩

def RgnSt.reset : RgnSt := ⟨[]⟩

/-- No tenant, no keys (R381); the interleave key is drawn at the cold boot (DEDUCED, log entry 42). -/
def SecSt.reset : SecSt where
  target := none
  policy := 0
  nextPolicy := 0
  adpKeys := []
  setKeys := []
  erases := []
  sessions := []
  nextSession := 0
  interleave := none
  memKeys := []
  ideSecure := [false, false, false]
  ideKeys := [0, 0, 0]
  wrapSecret := none
  log := []
  logCount := 0
  preserved := none
  alarmLogged := false
  domainLost := false
  rtc := 0

/-- Booting, the ceilings as PWR_STAT's Reset column gives them (R442, R467, DEDUCED, log entry 5), rails on. -/
def PowerSt.reset : PowerSt where
  state := .boot
  bCap := 0
  bTherm := [0, 0, 0, 0]
  inputLow := false
  capUnmet := false
  throttling := List.replicate 14 false
  limited := List.replicate 14 false
  rails := List.replicate 25 true
  inputW := 0
  energy := 0
  hot := 0
  capAt := none

/-- A part with nothing marked bad, an unprogrammed board-key fuse and no valid settings slot (DESIGN CHOICE, log entry 3). -/
def PartSt.reset : PartSt where
  badClusters := []
  badRegions := []
  boardKeyHash := none
  flashA := []
  flashB := []
  recClusters := []
  recRegions := []
  recHalf := []
  recSpared := []
  digest := 0
  ddrMask := 0xFFF
  dimms := List.replicate 12 ⟨128, 2, true, true⟩
  speed := 5
  lanes := 4

/-- The machine right after a cold reset has run its stages and before READY (R430): registers at their Reset
columns, memory zero, nothing outstanding. -/
def State.reset : State where
  pending := []
  free := 0
  regs := []
  mem := []
  poison := []
  clean := []
  ways := 8
  tierCtl := 6
  attCtl := 6
  attSpill := 13
  tier := []
  ddrCtr := []
  withheld := []
  msix := []
  msixPend := []
  latches := []
  pcie := ⟨false, false, false, false, false, false, true, 0, 0, 128, 512⟩
  ptm := ⟨0, 0⟩
  ctxs := []
  outs := []
  nextId := 0
  adapters := []
  packages := []
  grpSeq := []
  verdicts := []
  abandoned := []
  collIn := []
  conns := []
  pauses := []
  arrays := []
  glitches := []
  served := 0
  halt := none
  rgns := []
  engTrips := []
  d2d := []
  merges := []
  storms := []
  logMerged := 0
  power := PowerSt.reset
  failed := false
  pins := ⟨false, true, true, true⟩
  sec := SecSt.reset
  part := PartSt.reset
  baud := 115200
  out := []

end Sys2Proof.Machine
end

