-- ==== Sys2Proof/Machine/Ops.lean ====
section
/-! DEFINITION. Named operations over registers, memory, the tier map, interrupts and events.
Every read and write of a register or of memory in the model goes through these. -/

namespace Sys2Proof.Machine

/-! ## Registers (R5, R7, R8, R463) -/

/-- What is stored behind a register. -/
def regRaw (s : State) (r : Reg) : Word := smGet 0 s.regs r.offset ^^^ r.resetVal

/-- Store a register whole. -/
def setReg (s : State) (r : Reg) (v : Word) : State :=
  { s with regs := smSet 0 s.regs r.offset (v ^^^ r.resetVal) }

/-- EXPERT_EN of a block (R8, R463). -/
def expertOn (s : State) (b : Block) : Bool := bitOf (regRaw s b.ctl) 0

/-- The value of a register in force: an expert register reads its default while EXPERT_EN is clear (R8). -/
def reg (s : State) (r : Reg) : Word :=
  if r.expert && !expertOn s r.block then r.resetVal else regRaw s r

/-- A field of a register. -/
def rf (s : State) (r : Reg) (lo len : Nat) : Nat := fld (reg s r) lo len

/-- Store one field of a register. -/
def setRf (s : State) (r : Reg) (lo len v : Nat) : State := setReg s r (setFld (regRaw s r) lo len v)

/-- Advance a saturating count held in a field of a register. -/
def bumpBy (s : State) (r : Reg) (lo len d : Nat) : State :=
  setRf s r lo len (satAdd (fld (regRaw s r) lo len) d len)

/-- Advance the 48-bit saturating count of a register by one. -/
def bump (s : State) (r : Reg) : State := bumpBy s r 0 48 1

/-- The timebase in ns (R321). -/
def now (s : State) : Nat := (reg s .hifTb).toNat

/-- Log an access (R481). -/
def logAccess (s : State) (src : Source) (off kind : Nat) : State :=
  let srcN := match src with | .host | .outside => 0 | .monitor => 1 | .smbus => 2 | .preset => 3
  let last := off % 2 ^ 26 + srcN * 2 ^ 26 + kind * 2 ^ 28 + bitsAt (now s) 10 32 * 2 ^ 32
  setReg (bump s .idAccLogCnt) .idAccLogLast (BitVec.ofNat 64 last)

/-- Drive something on a port. -/
def emit (s : State) (o : Output) : State := { s with out := s.out ++ [o] }

/-- A free value, and the state that has drawn it (DESIGN CHOICE, log entry 1). -/
def draw (s : State) : Word × State := (Config.freeWord s.free, { s with free := s.free + 1 })

/-- A change of R405 advances the device epoch and waits for retirement. -/
def advanceEpoch (s : State) : State :=
  setRf (setRf s .secEpoch 0 48 ((rf s .secEpoch 0 48 + 1) % 2 ^ 48)) .secEpoch 48 1 1

/-! ## Contexts and rings -/

def ctx (s : State) (x : Nat) : CtxSt := smGet CtxSt.reset s.ctxs x

def setCtx (s : State) (x : Nat) (c : CtxSt) : State := { s with ctxs := smSet CtxSt.reset s.ctxs x c }

def modCtx (s : State) (x : Nat) (f : CtxSt → CtxSt) : State := setCtx s x (f (ctx s x))

def ringSt (s : State) (x n : Nat) : RingSt := smGet RingSt.reset (ctx s x).rings n

def modRing (s : State) (x n : Nat) (f : RingSt → RingSt) : State :=
  modCtx s x fun c => { c with rings := smSet RingSt.reset c.rings n (f (smGet RingSt.reset c.rings n)) }

/-- The context is enabled (R474, R476). -/
def ctxEnabled (s : State) (x : Nat) : Bool := bitOf (reg s .ctxEnabled) x

/-- Any context is enabled. -/
def anyEnabled (s : State) : Bool := (reg s .ctxEnabled) != 0

/-- The ring is configured (R293). -/
def ringConfigured (s : State) (x n : Nat) : Bool := reg s (.ctxCxSq x n) != 0 || reg s (.ctxCxCq x n) != 0

def ringBase (s : State) (r : Reg) : Nat := rf s r 0 48

def ringSize (s : State) (r : Reg) : Nat := 2 ^ rf s r 48 5

def subHead (s : State) (x n : Nat) : Nat := rf s (.ctxCxRstat x n) 0 32

def cplWr (s : State) (x n : Nat) : Nat := rf s (.ctxCxRstat x n) 32 32

/-- The difference of two free-running 32-bit counts (R294). -/
def cnt32 (a b : Nat) : Nat := (a + 2 ^ 32 - b % 2 ^ 32) % 2 ^ 32

/-- SEC_STAT.STATE: 0 OPEN, 1 CONFIDENTIAL, 2 CHANGING (R381, R390). -/
def secState (s : State) : Nat := rf s .secStat 0 2

/-- Confidential mode: a tenant is bound, or was when the change that runs began, which BAR4's absence shows (R289,
R382, R390). -/
def confidential (s : State) : Bool := secState s == 1 || (secState s == 2 && !bitOf (reg s .secStat) 13)

/-! ## The address space (R138 to R141) -/

/-- The ranges of the device address space (R138). -/
inductive Rng where
  | scratch | hub | regionSram | hbm | ddr | peer (pkg : Nat) | host
deriving DecidableEq, Repr

/-- First address and length of a range. -/
def Rng.span : Rng → Nat × Nat
  | .scratch => (0, 0x20000000)
  | .hub => (0x20000000, 0x08000000)
  | .regionSram => (0x40000000, 0x40000000)
  | .hbm => (0x100000000000, 0x6000000000)
  | .ddr => (0x200000000000, 0x18000000000)
  | .peer p => (0x400000000000 + p * 2 ^ 40, 2 ^ 40)
  | .host => (0x800000000000, 0x800000000000)

def slabBytes : Nat := 65536

def pageBytes : Nat := 2097152

/-- The range that holds an address, if any (R138). -/
def rngOf (a : Nat) : Option Rng :=
  if a < 0x20000000 then some .scratch
  else if a < 0x28000000 then some .hub
  else if a < 0x40000000 then none
  else if a < 0x80000000 then some .regionSram
  else if a < 0x100000000000 then none
  else if a < 0x106000000000 then some .hbm
  else if a < 0x200000000000 then none
  else if a < 0x218000000000 then some .ddr
  else if a < 0x400000000000 then none
  else if a < 0x800000000000 then some (.peer ((a - 0x400000000000) / 2 ^ 40))
  else if a < 2 ^ 48 then some .host
  else none

/-- The package id of this package (R16, R287). -/
def ownPkg (s : State) : Nat := rf s .peerId 0 6

/-- The address at the package that an offset of its window names (R140). -/
def windowAddr (o : Nat) : Option Nat :=
  if o < 0x80000000 then some o
  else if 0x8000000000 ≤ o ∧ o < 0xE000000000 then some (0x100000000000 + (o - 0x8000000000))
  else none

/-- The local address of a home: the window of the package's own id resolves locally (R140). -/
def resolve (s : State) (a : Nat) : Nat :=
  match rngOf a with
  | some (.peer p) => if p = ownPkg s then (windowAddr (a % 2 ^ 40)).getD a else a
  | _ => a

/-- The address lies in the window of another package. -/
def isRemote (s : State) (a : Nat) : Bool :=
  match rngOf a with
  | some (.peer p) => p != ownPkg s
  | _ => false

/-- A logical region is present: not retired (R362). -/
def regionPresent (s : State) (r : Nat) : Bool := (rf s .fltStat 0 32).testBit r

/-- Bytes of the addressed portion of a region's SRAM: 32 - 1.5 W MiB (R159). -/
def addressedBytes (s : State) : Nat := (64 - 3 * s.ways) * 524288

/-- The address is in the addressed portion of region SRAM, hub SRAM or scratch, of a present region and
outside the device-owned hub SRAM (R138, R139, R159, R244, R362). -/
def sramOpen (s : State) (a : Nat) : Bool :=
  match rngOf a with
  | some .scratch => regionPresent s (a / 0x1000000)
  | some .hub => decide (0x1000000 ≤ a % 0x4000000) && !(decide (0x21000000 ≤ a) && decide (a < 0x21800000))
  | some .regionSram =>
      regionPresent s ((a - 0x40000000) / 0x2000000) && decide (a % 0x2000000 < addressedBytes s)
  | _ => false

/-- An SRAM or HBM address. -/
def inSram (a : Nat) : Bool :=
  match rngOf a with
  | some .scratch | some .hub | some .regionSram => true
  | _ => false

def inHbm (a : Nat) : Bool := rngOf a == some .hbm

def inPaged (a : Nat) : Bool := rngOf a == some .hbm || rngOf a == some .ddr

/-! ## Memory (R138, R143, R148, R184) -/

/-- The canonical form of memory. -/
abbrev Memory.wf (m : List Host.Cell) : Prop := smWf (0 : Byte) m = true

/-- One byte of the device address space; an unbacked page and a byte never written read as 0 (R148, DESIGN CHOICE, log entry 2). -/
def readByte (s : State) (a : Nat) : Byte := smGet 0 s.mem (resolve s a)

/-- `len` bytes from an address upward. -/
def readBytes (s : State) (a len : Nat) : List Byte := (List.range len).map fun i => readByte s (a + i)

/-- A little-endian number of `k` bytes (R4). -/
def readLe (s : State) (a k : Nat) : Nat := leNat (readBytes s a k)

/-- A 64-bit word of memory. -/
def readWord (s : State) (a : Nat) : Word := BitVec.ofNat 64 (readLe s a 8)

/-- Store one byte at its home. -/
def pokeByte (s : State) (a : Nat) (b : Byte) : State := { s with mem := smSet 0 s.mem (resolve s a) b }

/-- Store bytes from an address upward. -/
def pokeBytes (s : State) (a : Nat) : List Byte → State
  | [] => s
  | b :: bs => pokeBytes (pokeByte s a b) (a + 1) bs

/-! ## Coding of DDR slabs (R152, R153) -/

/-- The planes of a block of words: byte `k - 1` of each of 32 words, then byte `k - 2`, and so on. -/
def planesOf (k : Nat) (block : List Byte) : List Byte :=
  (List.range k).flatMap fun j => (List.range 32).map fun i => block.getD (i * k + (k - 1 - j)) 0

/-- Block repacking (R153). -/
def repack (planes : Nat) (bytes : List Byte) : List Byte :=
  if planes = 1 then (List.range (bytes.length / 64)).flatMap fun b => planesOf 2 ((bytes.drop (b * 64)).take 64)
  else if planes = 2 then (List.range (bytes.length / 128)).flatMap fun b => planesOf 4 ((bytes.drop (b * 128)).take 128)
  else bytes

/-- Length of the run of `b` at the front of a list. -/
def runOf (b : Byte) : List Byte → Nat
  | [] => 0
  | c :: cs => if c = b then 1 + runOf b cs else 0

/-- Length of the run sequence of a greedy scan (R153): `skip` bytes belong to a run already begun, `lit` is
the length of the open literal run, `last` the byte before. -/
def codeLen : Nat → Nat → Option Byte → List Byte → Nat
  | _, _, _, [] => 0
  | skip + 1, _, _, b :: bs => codeLen skip 0 (some b) bs
  | 0, lit, last, b :: bs =>
    let z := if b = 0 then 1 + runOf 0 bs else 0
    let r := if last = some b then 1 + runOf b bs else 0
    if 2 ≤ z ∨ 2 ≤ r then 1 + codeLen (min 64 (max z r) - 1) 0 (some b) bs
    else if lit = 0 ∨ lit = 64 then 2 + codeLen 0 1 (some b) bs
    else 1 + codeLen 0 (lit + 1) (some b) bs

/-- The bytes that a run sequence spells; `k` bounds the runs, `last` is the last byte produced. None for a reserved header, a
repeat with nothing before it, and literals that are cut short (R153). -/
def runBytes : Nat → Option Byte → List Byte → Option (List Byte)
  | _, _, [] => some []
  | 0, _, _ => none
  | k + 1, last, h :: bs =>
    let n := h.toNat % 64 + 1
    match h.toNat / 64, last with
    | 0, _ => if bs.length < n then none else (runBytes k (bs.take n).getLast? (bs.drop n)).map (bs.take n ++ ·)
    | 1, _ => (runBytes k (some 0) bs).map (List.replicate n 0 ++ ·)
    | 2, some b => (runBytes k last bs).map (List.replicate n b ++ ·)
    | _, _ => none

/-- The words of a block from its planes. -/
def wordsOf (k : Nat) (block : List Byte) : List Byte :=
  (List.range (32 * k)).map fun m => block.getD ((k - 1 - m % k) * 32 + m / k) 0

/-- Undo `repack`. -/
def unpack (planes : Nat) (bytes : List Byte) : List Byte :=
  if planes = 1 then (List.range (bytes.length / 64)).flatMap fun b => wordsOf 2 ((bytes.drop (b * 64)).take 64)
  else if planes = 2 then (List.range (bytes.length / 128)).flatMap fun b => wordsOf 4 ((bytes.drop (b * 128)).take 128)
  else bytes

/-- The 64 KiB that a coded slab holds; none where it does not decode to exactly that (R152, R153). -/
def decodeSlab (planes : Nat) (coded : List Byte) : Option (List Byte) :=
  let n := leNat (coded.take 4)
  if coded.length < 4 + n then none
  else ((runBytes n none ((coded.drop 4).take n)).filter fun v => v.length == slabBytes).map (unpack planes)

/-- Bytes of the archive image at an address, 0 where its header names none: an adapter's (R249) or a package (R396). -/
def archiveLen (s : State) (a : Nat) : Nat :=
  let n := readLe s a 128
  if bitsAt n 0 48 = 0x58514144 + 2 ^ 32 then 144 + 8 * bitsAt n 224 32
  else if bitsAt n 0 48 = 0x5851574B + 2 ^ 32 then
    128 + bitsAt n 544 64 + (if n.testBit 48 then 16 * ceilDiv (bitsAt n 544 64) (2 ^ 30) else 0)
  else 0

/-- The archive images that entries of the package tables and adapter tables of enabled contexts name: LOAD, IMPORT and EXPORT
(R145, R246, R397). -/
def archives (s : State) : List (Nat × Nat) :=
  let named := ((List.range 64).filter (ctxEnabled s)).flatMap fun x =>
    let pk := reg s (.secCxPkg x)
    let ad := (ctx s x).adpTable
    (if fld pk 0 48 = 0 then [] else (List.range (fld pk 48 9)).filterMap fun i =>
      let n := readLe s (fld pk 0 48 + 64 * i) 64
      if bitsAt n 0 2 = 1 then some (bitsAt n 64 48) else none)
    ++ (if fld ad 0 48 = 0 then [] else (List.range (fld ad 48 16 + 1)).filterMap fun i =>
      let n := readLe s (fld ad 0 48 + 64 * i) 64
      if bitsAt n 16 3 = 2 ∨ bitsAt n 16 3 = 3 then some (bitsAt n 256 48) else none)
  (named.filter fun a => !isRemote s a).map fun a => (resolve s a, archiveLen s a)

/-- Some byte of an archive image lies in the extent. -/
def archived (s : State) (a len : Nat) : Bool := (archives s).any fun p => overlap p.1 p.2 a len

/-- A slab is stored coded in a DDR frame: where that is shorter, and never one of an archive image (R145, R152). -/
def slabCodes (s : State) (planes slab : Nat) : Bool :=
  bitOf s.tierCtl 2
    && decide (codeLen 0 0 none (repack planes (readBytes s (slab * slabBytes) slabBytes)) + 4 < 65536)
    && !archived s (slab * slabBytes) slabBytes

/-- CODED of a page held in a DDR frame, coded anew slab by slab (R152, R153). -/
def recode (s : State) (p planes : Nat) : BitVec 32 :=
  BitVec.ofNat 32 ((List.range 32).foldl (fun n i =>
    setBit n i (slabCodes s planes (p * 32 + i))) 0)

/-! ## The tier map and backing (R147 to R149, R154 to R158) -/

def tierAt (s : State) (p : Nat) : TierEntry := smGet TierEntry.reset s.tier p

def setTier (s : State) (p : Nat) (e : TierEntry) : State :=
  { s with tier := smSet TierEntry.reset s.tier p e }

/-- Selected channel groups of a context (R154). -/
def hbmGroups (s : State) (x : Nat) : List Nat := setBits (rf s (.tierCxHmask x) 0 16) 16

/-- The channels of a context's set, ascending (R154). -/
def setChannels (s : State) (x : Nat) : List Nat := (List.range 256).filter fun c => (hbmGroups s x).contains (c % 16)

/-- The HBM channel of an address in a frame of a context (R155), under the key in force; before the first is drawn the
key is a free value. -/
def hbmChannel (s : State) (x a : Nat) : Nat :=
  let cs := setChannels s x
  let k := Nat.log2 cs.length
  let h := (mix (s.sec.interleave.getD (Config.freeWord s.free) ^^^ BitVec.ofNat 64 (a >>> (9 + k)))).toNat % 2 ^ k
  cs.getD (((a >>> 9) % cs.length) ^^^ h) 0

/-- Units of 128 KiB that HBM frames take from a channel group (R154). -/
def groupLoad (s : State) (g : Nat) : Nat :=
  s.tier.foldl (fun n p =>
    let gs := hbmGroups s p.2.owner
    if p.2.backed && !p.2.ddr && gs.contains g then n + 16 / gs.length else n) 0

/-- A group holds 24 GiB less the 1.5 GiB held for snapshots (R23, R154): 184,320 units of 128 KiB. -/
def groupUnits : Nat := 184320

/-- The context's channel groups can take one more frame (R154, R158). -/
def hbmRoom (s : State) (x : Nat) : Bool :=
  let gs := hbmGroups s x
  !gs.isEmpty && gs.all fun g => groupLoad s g + 16 / gs.length ≤ groupUnits

/-- Channels that trained (R158, R480). -/
def trainedDdr (s : State) : List Nat := (List.range 12).filter fun d => bitOf (reg s (.idDdr d)) 0

/-- The channel set of a frame's owner; a snapshot area uses every trained channel (R158, R367). -/
def ddrChannels (s : State) (owner : Nat) (snap : Bool) : List Nat :=
  (trainedDdr s).filter fun d => snap || (rf s (.tierCxDmask owner) 0 12).testBit d

/-- 4 KiB granules that the j-th of d channels supplies for frame F (R157). -/
def granules (d frame j : Nat) : Nat := 512 / d + (if (j + d - frame % d) % d < 512 % d then 1 else 0)

/-- Granules in use on a channel (R158). -/
def ddrLoad (s : State) (c : Nat) : Nat :=
  s.tier.foldl (fun n p =>
    let cs := ddrChannels s p.2.owner p.2.snap
    if p.2.backed && p.2.ddr && cs.contains c then n + granules cs.length p.2.frame (cs.idxOf c) else n) 0

/-- Granules of a channel: its capacity less 1/8,192 for the nonce reserve (R158, R402). -/
def ddrGranules (s : State) (c : Nat) : Nat := rf s (.idDdr c) 16 16 * 262112

/-- Lowest frame index of a tier that no backed frame holds and that is not withheld (R157, R403). -/
def freeFrame (s : State) (ddr : Bool) : Nat :=
  let used := (s.tier.filter fun p => p.2.backed && p.2.ddr == ddr).map fun p => p.2.frame
  let held := if ddr then (s.withheld.filter fun p => p.2).map Prod.fst else []
  ((List.range (used.length + held.length + 1)).find? fun f => !used.contains f && !held.contains f).getD 0

/-- Every channel of the set can supply its granules for the next frame (R158). -/
def ddrRoom (s : State) (owner : Nat) (snap : Bool) : Bool :=
  let cs := ddrChannels s owner snap
  let f := freeFrame s true
  !cs.isEmpty && cs.all fun c => ddrLoad s c + granules cs.length f (cs.idxOf c) ≤ ddrGranules s c

def heldHbm (s : State) (x : Nat) : Nat := rf s (.tierCxHeld x) 0 24

def heldDdr (s : State) (x : Nat) : Nat := rf s (.tierCxHeld x) 24 24

def setHeld (s : State) (x h d : Nat) : State := setRf (setRf s (.tierCxHeld x) 0 24 h) (.tierCxHeld x) 24 24 d

/-- Count writes of slabs of a DDR frame (R402). -/
def countFrame (s : State) (f n : Nat) : State := { s with ddrCtr := smSet 0 s.ddrCtr f (smGet 0 s.ddrCtr f + n) }

/-- Give a page a zero-filled frame (R148): the map entry and the owner's count. The zero slabs of a DDR frame are held
coded, as slabs in DDR frames are (R152). -/
def giveFrame (s : State) (x p : Nat) (ddr : Bool) : State :=
  let e := tierAt s p
  let s := setTier s p { e with frame := freeFrame s ddr, ddr := ddr, backed := true, state := 0, owner := x,
                                heat := 0, traffic := 0
                                coded := if ddr && bitOf s.tierCtl 2 then BitVec.allOnes 32 else 0, moved := 0, partner := none, release := false }
  if ddr then setHeld s x (heldHbm s x) (heldDdr s x + 1) else setHeld s x (heldHbm s x + 1) (heldDdr s x)

/-- The coldest DDR-range page of the context that placement raised into HBM (R148), lowest address on a tie. -/
def coldestRaised (s : State) (x : Nat) : Option Nat :=
  (s.tier.foldl (fun (b : Option (Nat × Nat)) p =>
    if p.2.backed && !p.2.ddr && p.2.owner == x && p.2.state == 0 && rngOf (p.1 * pageBytes) == some .ddr then
      match b with
      | none => some (p.1, p.2.heat)
      | some (q, h) => if p.2.heat < h then some (p.1, p.2.heat) else some (q, h)
    else b) none).map Prod.fst

/-- Return a raised page to a DDR frame, its slabs coded (R148, R152). No quota stops it, for R148 reports QUOTA only
where no such page exists; a tier without room does (DEDUCED, log entry 138). -/
def returnRaised (s : State) (x q : Nat) : Option State :=
  if ddrRoom s x false then
    let e := tierAt s q
    let f := freeFrame s true
    let s := countFrame (setTier s q { e with ddr := true, frame := f, coded := recode s q e.planes }) f 32
    some (setHeld s x (heldHbm s x - 1) (heldDdr s x + 1))
  else none

/-- Back one page for a context; none when R148 reports QUOTA. -/
def backPage (s : State) (x p : Nat) : Option State :=
  if (tierAt s p).backed then some s
  else match rngOf (p * pageBytes) with
    | some .hbm =>
      if heldHbm s x < rf s (.tierCxQuota x) 0 18 then
        if hbmRoom s x then some (giveFrame s x p false) else none
      else if rf s (.tierCxQuota x) 0 18 = 0 then none
      else match coldestRaised s x with
        | none => none
        | some q => (returnRaised s x q).bind fun s => if hbmRoom s x then some (giveFrame s x p false) else none
    | some .ddr =>
      if heldDdr s x < rf s (.tierCxQuota x) 20 20 && ddrRoom s x false then some (giveFrame s x p true) else none
    | _ => some s

/-- Back a list of pages, or none at the first that R148 refuses. -/
def backPages (s : State) (x : Nat) : List Nat → Option State
  | [] => some s
  | p :: ps => (backPage s x p).bind fun s => backPages s x ps

/-- Pages of the HBM and DDR ranges that an extent touches. -/
def pagesOf (s : State) (lo len : Nat) : List Nat :=
  if len = 0 then []
  else
    let a := resolve s lo
    let p := a / pageBytes
    if inPaged a then (List.range ((a + len - 1) / pageBytes - p + 1)).map (p + ·) else []

/-- Zero an extent of memory and clear its poison marks. -/
def zeroExtent (s : State) (lo len : Nat) : State :=
  { s with mem := smErase s.mem lo len, poison := smErase s.poison (lo / 64) (ceilDiv (lo + len) 64 - lo / 64),
           clean := smErase s.clean (lo / slabBytes) (ceilDiv (lo + len) slabBytes - lo / slabBytes) }

/-- Unback a page: its frame is zeroed, and withheld when its counter is exhausted (R148, R179, R403). -/
def unbackPage (s : State) (p : Nat) : State :=
  let e := tierAt s p
  if e.backed then
    let s := zeroExtent s (p * pageBytes) pageBytes
    let s := if e.ddr && smGet 0 s.ddrCtr e.frame == 2 ^ 56 - 1 then
        { s with withheld := smSet false s.withheld e.frame true } else s
    let s := setTier s p { TierEntry.reset with planes := e.planes }
    if e.snap then s
    else if e.ddr then setHeld s e.owner (heldHbm s e.owner) (heldDdr s e.owner - 1)
    else setHeld s e.owner (heldHbm s e.owner - 1) (heldDdr s e.owner)
  else s

/-- Traffic that an engine moves to or from a backed page raises its heat (R150). -/
def addTraffic (s : State) (p bytes : Nat) : State :=
  let e := tierAt s p
  if e.backed then
    let t := e.traffic + bytes
    setTier s p { e with heat := min 255 (e.heat + t / slabBytes), traffic := t % slabBytes }
  else s

/-- An ember object is resident: moved in, and not still moving (R161). -/
def EmberObj.resident (o : EmberObj) : Bool := o.home.isSome && !o.moving

/-- The slab lies in the vacated extent of a resident ember object, which nothing reads or writes (R161). -/
def slabVacated (s : State) (slab : Nat) : Bool :=
  s.ctxs.any fun c => c.2.embers.any fun o =>
    o.resident && overlap (resolve s o.addr) (o.slabs * slabBytes) (slab * slabBytes) slabBytes

/-- Traffic of an extent, slab by slab, but for what the cache portions serve (R150, R161). -/
def touchExtent (s : State) (lo len : Nat) : State :=
  let a := resolve s lo
  if (pagesOf s lo len).isEmpty then s
  else
    let k := a / slabBytes
    (((List.range ((a + len - 1) / slabBytes - k + 1)).map (k + ·)).filter fun b => !slabVacated s b).foldl (fun s b =>
      addTraffic s (b / 32) (min (a + len) ((b + 1) * slabBytes) - max a (b * slabBytes))) s

/-- The line is marked poisoned (R184). -/
def poisoned (s : State) (a : Nat) : Bool := smGet false s.poison (resolve s a / 64)

/-- Mark or clear the line of an address. -/
def setPoison (s : State) (a : Nat) (b : Bool) : State :=
  { s with poison := smSet false s.poison (resolve s a / 64) b }

/-- Some line of an extent is poisoned. -/
def anyPoison (s : State) (a len : Nat) : Bool :=
  len != 0 && (List.range ((a + len - 1) / 64 - a / 64 + 1)).any fun i => poisoned s ((a / 64 + i) * 64)

/-- Mark every line of an extent. -/
def poisonExtent (s : State) (a len : Nat) : State :=
  if len = 0 then s
  else
    let a := resolve s a
    { s with poison := smFill false s.poison (fun _ => true) (a / 64) ((a + len - 1) / 64 - a / 64 + 1) }

/-- STRM_POISON_CNT: lines that arrive poisoned (R184, R188, DEDUCED, log entry 128). -/
def countBad (s : State) (lines : Nat) : State := bumpBy s .strmPoisonCnt 0 48 lines

/-- The frame that is an address's home, and whether it is of DDR: the page's own, or the one it exchanges for when the slab
has moved already (R146). -/
def homeOf (s : State) (a : Nat) : Nat × Bool :=
  let a := resolve s a
  let e := tierAt s (a / pageBytes)
  match e.partner with
  | some q => if e.state = 1 && e.moved.toNat.testBit (a / slabBytes % 32) then ((tierAt s q).frame, (tierAt s q).ddr) else (e.frame, e.ddr)
  | none => (e.frame, e.ddr)

/-- The DDR frame that holds an address's home, if one does; that of a resident ember object is in no frame (R161). -/
def ddrFrameOf (s : State) (a : Nat) : Option Nat :=
  let r := resolve s a
  let h := homeOf s a
  if inPaged r && (tierAt s (r / pageBytes)).backed && h.2 && !slabVacated s (r / slabBytes) then some h.1 else none

/-- The frame's write counter is used up (R403). -/
def exhausted (s : State) (a : Nat) : Bool :=
  match ddrFrameOf s a with
  | some f => smGet 0 s.ddrCtr f == 2 ^ 56 - 1
  | none => false

/-- Without repeats, in the order of first appearance. -/
def dedup : List Nat → List Nat
  | [] => []
  | a :: as => a :: (dedup as).filter (· != a)

/-- A resident ember object that a store into the slab at `a` reaches is written (R162). -/
def markEmber (s : State) (a : Nat) (o : EmberObj) : EmberObj :=
  if overlap (resolve s o.addr) (o.slabs * slabBytes) a slabBytes && o.home.isSome then { o with written := true } else o

/-- After a store into a slab: it counts as written since the cut (R366), an ember object there as written
(R162), and in a DDR frame the slab is coded anew under the next counter (R152, R402). -/
def slabWritten (s : State) (slab : Nat) : State :=
  let a := slab * slabBytes
  let s := { s with clean := smSet 0 s.clean slab 0
                    ctxs := s.ctxs.map fun p => (p.1, { p.2 with embers := p.2.embers.map (markEmber s a) }) }
  match ddrFrameOf s a with
  | none => s
  | some f =>
    let p := a / pageBytes
    let e := tierAt s p
    let c := slabCodes s e.planes slab
    setTier (countFrame s f 1) p { e with coded := BitVec.ofNat 32 (setBit e.coded.toNat (slab % 32) c) }

/-- The cells of a store that can be written: nothing of a slab whose frame is exhausted is (R403). -/
def writable (s : State) (cells : List Host.Cell) : List Host.Cell :=
  (cells.map fun c => (resolve s c.1, c.2)).filter fun c => !exhausted s c.1

/-- The runs of consecutive bytes in ascending cells. -/
def byteRuns : List Host.Cell → List (Nat × List Byte)
  | [] => []
  | (a, b) :: cs =>
    match byteRuns cs with
    | (c, bs) :: rs => if c = a + 1 then (a, b :: bs) :: rs else (a, [b]) :: (c, bs) :: rs
    | [] => [(a, [b])]

/-- The bytes that some cells write into a line, the later of two at one address, as runs. -/
def lineRuns (cells : List Host.Cell) (l : Nat) : List (Nat × List Byte) :=
  byteRuns ((List.range 64).filterMap fun i => cells.reverse.find? fun c => c.1 == l * 64 + i)

/-- TDISP state: 0 CONFIG_UNLOCKED, 1 CONFIG_LOCKED, 2 RUN, 3 ERROR (R390, R400). -/
def tdispState (s : State) : Nat := rf s .secStat 8 2

/-- The function may read and write host memory: the link is up, it is a bus master, and in confidential mode its
interface runs (R141, R400; PRESUMED, log entry 35). -/
def hostReadable (s : State) : Bool := s.pcie.linkUp && s.pcie.busMaster && (!confidential s || tdispState s == 2)

/-- An engine is in the middle of the command: it waits for read data of a peer, or a MOVE has landed in part. -/
def OutSt.onEngine : OutSt → Bool
  | .peerRead | .moving _ _ => true
  | _ => false

/-- The command has begun and has not ended. -/
def OutSt.begun : OutSt → Bool
  | .peerRead | .moving _ _ | .coll _ => true
  | _ => false

/-- The base of the host range, which an address loses on PCI Express (R141). -/
def hostBase : Nat := 0x800000000000

/-- Writes into host memory go out line by line, a poisoned one with the EP bit (R141, R184). -/
def hostWrites (s : State) (keep : List Host.Cell) (lines : List Nat) : State :=
  (lines.filter fun l => rngOf (l * 64) == some .host).foldl (fun s l =>
    (lineRuns keep l).foldl (fun s d => emit s (.hostWrite (d.1 - hostBase) d.2 (smGet false s.poison l))) s) s

/-- Store cells without heat: a full 64-byte write of clean data clears a poison mark, a partial write leaves it, and
poisoned data sets it (R184). `bad` lists the lines (address / 64) that receive poisoned data. The flag says that a slab
was refused. -/
def storeQuiet (s : State) (cells : List Host.Cell) (bad : List Nat) : State × Bool :=
  let keep := writable s cells
  let lines := dedup (keep.map fun c => c.1 / 64)
  let hit := bad.map fun l => resolve s (l * 64) / 64
  let full := lines.filter fun l =>
    !hit.contains l && (List.range 64).all fun i => keep.any fun c => c.1 == l * 64 + i
  let s1 := keep.foldl (fun s c => pokeByte s c.1 c.2) s
  let s2 := full.foldl (fun s l => setPoison s (l * 64) false) s1
  let s3 := (hit.filter fun l => lines.contains l).foldl (fun s l => setPoison s (l * 64) true) s2
  (hostWrites ((dedup (keep.map fun c => c.1 / slabBytes)).foldl slabWritten s3) keep lines, keep.length != cells.length)

/-- Store cells that an engine moves, whose traffic raises the heat of their pages (R150). -/
def storeCells (s : State) (cells : List Host.Cell) (bad : List Nat) : State × Bool :=
  let keep := (writable s cells).filter fun c => !slabVacated s (c.1 / slabBytes)
  let r := storeQuiet s cells bad
  ((dedup (keep.map fun c => c.1 / pageBytes)).foldl (fun s p =>
    addTraffic s p (keep.filter fun c => c.1 / pageBytes == p).length) r.1, r.2)

/-- Store consecutive bytes of clean data. -/
def storeBytes (s : State) (a : Nat) (bytes : List Byte) : State :=
  (storeCells s ((List.range bytes.length).map fun i => (a + i, bytes.getD i 0)) []).1

/-- Store bytes for a context, which backs the pages they touch (R148); where R148 refuses a page nothing is written
(DESIGN CHOICE, log entry 138). -/
def storeFor (s : State) (x a : Nat) (bytes : List Byte) : State :=
  match backPages s x (pagesOf s a bytes.length) with
  | some s => storeBytes s a bytes
  | none => s

/-! ## Interrupts (R319, R320, R473) -/

/-- The vector is masked: by the Function Mask, or by bit 0 of the fourth word of its table entry, which PCI Express resets to 1
(PRESUMED, log entry 4). -/
def vectorMasked (s : State) (v : Nat) : Bool := s.pcie.msixMask || (smGet (1 : Word32) s.msix (v * 4 + 3)).toNat.testBit 0

/-- The function may send a vector's message (R319; PRESUMED, log entry 35). -/
def vectorOpen (s : State) (v : Nat) : Bool := !vectorMasked s v && s.pcie.msixEn && s.pcie.busMaster

/-- Signal a vector: pending while masked (R319); a function without bus mastering or MSI-X signals nothing (PRESUMED, log entry 35). -/
def signal (s : State) (v : Nat) : State :=
  if vectorOpen s v then emit s (.interrupt v)
  else if s.pcie.msixEn && s.pcie.busMaster then { s with msixPend := smSet false s.msixPend v true }
  else s

/-- A pending vector that may be sent is, and stays pending otherwise (R319). -/
def releaseVector (s : State) (v : Nat) : State :=
  if smGet false s.msixPend v && vectorOpen s v then emit { s with msixPend := smSet false s.msixPend v false } (.interrupt v) else s

/-- Signal the device-level vector (R319). -/
def signalDevice (s : State) : State := signal s 2047

/-! ## Events (R316 to R318) -/

/-- An event to be written: kind, source ring, program, tag, detail from bit 128 upward. -/
structure Event where
  kind   : Nat
  ring   : Option Nat
  prog   : Option Nat
  tag    : Nat
  detail : Nat
deriving DecidableEq, Repr

def evtWr (s : State) (x : Nat) : Nat := rf s (.ctxCxEqStat x) 0 32

/-- The event ring is enabled and configured (R318). One of a context that is not enabled can be written only where R292
would let it stand without a window: in the host range (DEDUCED, log entry 36). -/
def evtRingOn (s : State) (x : Nat) : Bool :=
  let e := Reg.ctxCxEq x
  bitOf (reg s (.ctxCxEqCfg x)) 0 && reg s e != 0
    && (ctxEnabled s x || (rngOf (ringBase s e) == some .host && ringBase s e % 4096 == 0
      && decide (6 ≤ rf s e 48 5) && decide (rf s e 48 5 ≤ 16)))

/-- The event ring has space. -/
def evtSpace (s : State) (x : Nat) : Bool :=
  decide (cnt32 (evtWr s x) (ctx s x).evtHead < ringSize s (.ctxCxEq x))

/-- The 32 bytes of an event record that arose at time `t` (R316). -/
def eventImage (t phase : Nat) (e : Event) : List Byte :=
  let head := e.kind % 256 + phase * 256
    + (match e.ring with | some n => n % 16 * 2 ^ 9 + 2 ^ 13 | none => 0)
    + (match e.prog with | some p => 2 ^ 14 + p % 64 * 2 ^ 15 | none => 0)
    + e.tag % 2 ^ 32 * 2 ^ 32
  leBytes 8 head ++ leBytes 8 t ++ leBytes 16 e.detail

/-- PHASE of record `k` of a ring of `size` entries (R313). -/
def phaseOf (k size : Nat) : Nat := if (k / size) % 2 = 0 then 1 else 0

/-- Write one record into the event ring. -/
def putEvent (s : State) (x t : Nat) (e : Event) : State :=
  let k := evtWr s x
  let n := ringSize s (.ctxCxEq x)
  let s := storeFor s x (ringBase s (.ctxCxEq x) + k % n * 32) (eventImage t (phaseOf k n) e)
  let s := setRf s (.ctxCxEqStat x) 0 32 ((k + 1) % 2 ^ 32)
  if bitOf (reg s (.ctxCxEqCfg x)) 1 then signal s (x * 32 + 16) else s

/-- When the ring has space, an OVERFLOW event with the merged counts comes first (R318). -/
def flushOverflow (s : State) (x : Nat) : State :=
  let m := (ctx s x).evtMerged
  if evtRingOn s x && evtSpace s x && !m.isEmpty then
    let detail := m.foldl (fun n p => n + min 255 p.2 * 2 ^ (8 * p.1)) 0
    let s := putEvent s x (now s) ⟨0x0F, none, none, 0, detail⟩
    modCtx s x fun c => { c with evtMerged := [] }
  else s

/-- Write an event that arose at time `t`, or count it by kind when the ring cannot take it (R318). -/
def writeEventAt (s : State) (x t : Nat) (e : Event) : State :=
  let s := flushOverflow s x
  if evtRingOn s x && evtSpace s x then putEvent s x t e
  else
    let s := modCtx s x fun c => { c with evtMerged := smSet 0 c.evtMerged e.kind (smGet 0 c.evtMerged e.kind + 1) }
    bumpBy s (.ctxCxEqStat x) 32 16 1

/-- Write an event that arises now. -/
def writeEvent (s : State) (x : Nat) (e : Event) : State := writeEventAt s x (now s) e

/-! ## The map (R478, R480) -/

def cluFailed (s : State) (c : Nat) : Bool := bitOf (reg s (.arrCluStat c)) 24
def cluSpare (s : State) (c : Nat) : Bool := bitOf (reg s (.arrCluStat c)) 25
def cluInService (s : State) (c : Nat) : Bool := bitOf (reg s (.arrCluStat c)) 26
def cluRegion (s : State) (c : Nat) : Nat := rf s (.arrCluStat c) 27 5
def cluNumber (s : State) (c : Nat) : Nat := rf s (.arrCluStat c) 32 3

/-- The physical clusters of the die that holds a logical region (R18). -/
def dieClusters (r : Nat) : List Nat := (List.range 81).map (81 * (r / 8) + ·)

/-- The physical cluster that holds a logical number (R478). -/
def physCluster (s : State) (r c : Nat) : Option Nat :=
  (dieClusters r).find? fun k => cluInService s k && cluRegion s k == r && cluNumber s k == c

/-- The physical region that holds a logical number: that of its clusters. -/
def physRegion (s : State) (r : Nat) : Option Nat :=
  ((dieClusters r).find? fun k => cluInService s k && cluRegion s k == r).map (· / 9)

/-! ## Fault reports (R354 to R357) -/

/-- Aggregator index: regions 0-35, dies 36-41, the package 42. -/
def aggIndex : Aggregator → Nat
  | .region r => r.val
  | .die d => 36 + d.val
  | .package => 42

/-- Entries that a merge table holds (R357). -/
def mergeCap (agg : Nat) : Nat := if agg < 36 then 32 else if agg < 42 then 64 else 128

/-- SOURCE of a unit kind and index (R354). -/
def srcOf (kind index : Nat) : Nat := kind * 2 ^ 12 + index % 2 ^ 12

/-- The physical region whose engine a collector index names (R315): arrays, vector units, attention units and stream
engines; none for an engine of a hub die, or of a logical region that no physical one holds. -/
def engineRegion (s : State) (e : Nat) : Option Nat :=
  if e < 512 then physRegion s (e % 256 / 8)
  else if e < 544 then physRegion s (e - 512)
  else if e < 608 then physRegion s ((e - 544) / 2)
  else none

/-- The hub die of an engine outside the regions: collective engine 1 and the telemetry engine stand on HD1, collective
engine 0 and the ring processor on HD0 (R12, R14). -/
def hubEngineDie (e : Nat) : Nat := if e = 609 ∨ e = 610 then 5 else 4

/-- The aggregator that a source's first report reaches: its region's, its die's, or the package's (R12, R13, R356). A peer
sub-port is of HD1 and the host link of HD0 (R14); a die-to-die link, the package supply and a remote package report
to the package. -/
def firstAgg (s : State) (source : Nat) : Nat :=
  let kind := source / 2 ^ 12
  let i := source % 2 ^ 12
  if kind = 0 then i / 9
  else if kind = 1 then i
  else if kind = 2 then 36 + i
  else if kind = 3 then 36 + i / 64
  else if kind = 4 then (if i < 6 then 40 else 41)
  else if kind = 6 then 41
  else if kind = 7 then (engineRegion s i).getD (if i < 608 then 42 else 36 + hubEngineDie i)
  else if kind = 8 then 40
  else 42

/-- Merge a report into a table: identical reports add their counts, and a full table merges by CODE into an
overflow entry of unit kind 15 (R356, R357). -/
def mergeInto (cap : Nat) (e : MergeEntry) (m : List MergeEntry) : List MergeEntry :=
  let same (a b : MergeEntry) : Bool := a.code == b.code && a.source == b.source && a.ctx == b.ctx
  let join (a b : MergeEntry) : MergeEntry :=
    { a with sev := max a.sev b.sev, reporters := a.reporters ++ b.reporters.filter fun u => !a.reporters.contains u
             suppressed := a.suppressed + b.suppressed + 1 }
  if m.any (same e) then m.map fun a => if same e a then join a e else a
  else if m.length < cap then m ++ [e]
  else
    let o := { e with source := srcOf 15 0, ctx := none, info := 0, cmd := 0 }
    if m.any (same o) then m.map fun a => if same o a then join a o else a else m ++ [o]

/-- A merge table gains a report. -/
def addReport (s : State) (agg : Nat) (e : MergeEntry) : State :=
  { s with merges := smSet [] s.merges agg (mergeInto (mergeCap agg) e (smGet [] s.merges agg)) }

/-- Report a fault (R354, R356); the unit at fault reports itself. -/
def report (s : State) (code sev source : Nat) (cx : Option Nat) (action info cmd : Nat) : State :=
  addReport s (firstAgg s source) ⟨code, sev, source, cx, action, info, cmd, [source], 0, now s⟩

/-- A command in a report: its tag, from bit 32 its ring with HAS_RING and IN_PROG, and its program id. -/
def cmdRef (o : OutCmd) : Nat :=
  o.d.w1.toNat % 2 ^ 32 + o.ring % 16 * 2 ^ 32 + 2 ^ 36 + (if o.parent.isSome then 2 ^ 37 + o.prog % 64 * 2 ^ 38 else 0)

/-- SOURCE of the tier that holds an address: its DDR or HBM channel, its remote package, or the host link (R154,
R155, R157, R354). -/
def tierSource (s : State) (a : Nat) : Nat :=
  let e := tierAt s (resolve s a / pageBytes)
  let h := homeOf s a
  match rngOf (resolve s a) with
  | some (.peer p) => srcOf 10 p
  | some .host => srcOf 8 0
  | some .hbm | some .ddr =>
    if h.2 then
      let cs := ddrChannels s e.owner e.snap
      srcOf 4 (cs.getD ((resolve s a % pageBytes / 4096 + h.1) % cs.length) 0)
    else srcOf 3 (hbmChannel s e.owner (resolve s a))
  | _ => srcOf 8 0

/-- A failed tier request, which the unit `who` reports: TIER_CX_FAIL and a fault report (R169). -/
def tierFailed (s : State) (x : Nat) (source info who cmd : Nat) : State :=
  addReport (bump s (.tierCxFail x)) (firstAgg s source) ⟨0x30, 1, source, some x, 4, info, cmd, [who], 0, now s⟩

/-- A request of the context at an address fails: the unit at fault reports itself (R169). -/
def requestFails (s : State) (x a cmd : Nat) : State := tierFailed s x (tierSource s a) a (tierSource s a) cmd

/-- A slab is held coded in a DDR frame. -/
def slabCoded (s : State) (a : Nat) : Bool :=
  (ddrFrameOf s a).isSome && (tierAt s (resolve s a / pageBytes)).coded.toNat.testBit (resolve s a / slabBytes % 32)

/-- A coded slab that does not decode arrives bad: all its lines are poisoned (R153). -/
def slabUndecodable (s : State) (cx : Option Nat) (a : Nat) : State :=
  let b := a / slabBytes * slabBytes
  if slabCoded s a then report (countBad (poisonExtent s b slabBytes) 1024) 0x16 1 (tierSource s a) cx 3 b 0 else s

/-- A coded slab is read from its DDR frame: what its bytes decode to is what it holds, and bytes that do not decode poison
it (R152, R153). -/
def readCoded (s : State) (a : Nat) (coded : List Byte) : State :=
  let b := resolve s a / slabBytes * slabBytes
  if !slabCoded s a then s
  else match decodeSlab (tierAt s (b / pageBytes)).planes coded with
    | some v => { s with mem := smFill 0 s.mem (fun k => v.getD (k - b) 0) b slabBytes }
    | none => slabUndecodable s none b

end Sys2Proof.Machine
end

