-- ==== Sys2Proof/Machine/Flags.lean ====
section
/-! DEFINITION. Status codes and which one is reported (R9, R10); the step record and the counted and
deferred commands that mark it (R94, R214, R215, R217). -/

namespace Sys2Proof.Machine

/-! ## Status codes (R9) -/

def stOk : Nat := 0x00
def stCancelled : Nat := 0x01
def stBounds : Nat := 0x02
def stPoisonIn : Nat := 0x03
def stLate : Nat := 0x04
def stAborted : Nat := 0x05
def stCtxFault : Nat := 0x06
def stKeyExhausted : Nat := 0x07
def stTierFail : Nat := 0x08
def stStepVoid : Nat := 0x09
def stChecksum : Nat := 0x0A
def stRemoteFail : Nat := 0x0B
def stDeferred : Nat := 0x0C
def stQuota : Nat := 0x0D
def stBadDesc : Nat := 0x0E
def stUnsupported : Nat := 0x0F

/-- The code reported for the violations that a command's checks find: BAD_DESC, UNSUPPORTED, BOUNDS and QUOTA
in that order (R10). -/
def chooseViolation (v : List Nat) : Option Nat :=
  if v.contains stBadDesc then some stBadDesc
  else if v.contains stUnsupported then some stUnsupported
  else if v.contains stBounds then some stBounds
  else if v.contains stQuota then some stQuota
  else none

/-- Write a code where a condition holds. -/
def whenV (b : Bool) (code : Nat) : List Nat := if b then [code] else []

/-- The final code of a command whose work ended with `st`: LATE takes the place of OK alone (R10, R336). -/
def withMiss (missed : Bool) (st : Nat) : Nat := if missed && st == stOk then stLate else st

/-! ## The step record (R94, R214) -/

def markNonfin : Nat := 0
def markPoison : Nat := 1
def markIncomplete : Nat := 2
def markRefused : Nat := 3

/-- A STEP of the context has begun its check: it waits for verdicts, or for pass images (R214, R222, R253). -/
def stepChecking (s : State) (x : Nat) : Bool :=
  s.outs.any fun o => o.ctx == x && (match o.st with | .stepGroup _ | .stepRebuild _ => true | _ => false)

/-- A record word with a mark set, and the tag when it is the first mark. -/
def markWord (w : Word) (bit tag : Nat) : Word :=
  let w' := if fld w 0 4 = 0 then setFld w 32 32 tag else w
  setFld w' bit 1 1

/-- A mark joins a record, unless one of its kind and ring stands there. -/
def noteMark (ms : List StepMark) (m : StepMark) : List StepMark :=
  if ms.any fun n => n.bit == m.bit && n.ring == m.ring then ms else ms ++ [m]

/-- A mark arrives: it belongs to the step in progress, and once that step's check has begun to the next (R214). -/
def addMark (s : State) (x : Nat) (m : StepMark) : State :=
  if stepChecking s x then modCtx s x fun c => { c with nextMarks := noteMark c.nextMarks m }
  else modCtx (setReg s (.ctxCxSteprec x) (markWord (regRaw s (.ctxCxSteprec x)) m.bit m.tag)) x fun c =>
    { c with marks := noteMark c.marks m }

/-- Mark the step record of a context (R214). -/
def mark (s : State) (x bit tag : Nat) : State := addMark s x ⟨bit, 0, tag⟩

/-- Mark INCOMPLETE for a counted command of a ring (R214, R215). -/
def markInc (s : State) (x n tag : Nat) : State := addMark s x ⟨markIncomplete, n, tag⟩

/-- The context is remote-poisoned (R222, R269). -/
def remotePoisoned (s : State) (x : Nat) : Bool := bitOf (reg s (.ctxCxSteprec x)) 4

def setRemotePoisoned (s : State) (x : Nat) (b : Bool) : State :=
  setRf s (.ctxCxSteprec x) 4 1 (if b then 1 else 0)

/-! ## Counted and deferred commands (R215, R217) -/

/-- PHASE of a command: true for eval; classes without the field are train (R85, R102, R111, R215). -/
def evalPhase (d : Desc) : Bool :=
  match d.cls with
  | 1 => bitOf d.w2 14
  | 2 => bitOf d.w2 8
  | 3 => bitOf d.w2 6
  | _ => false

/-- A counted command (R215). -/
def isCounted (d : Desc) : Bool := decide (d.cls ≤ 4) && !evalPhase d

/-- A deferred command (R217). -/
def isDeferred : RingOp → Bool
  | .sgdMom | .adam | .adamw | .scaleSet => true
  | _ => false

end Sys2Proof.Machine
end

