-- ==== Sys2Proof/Machine/Frame.lean ====
section
/-! DEFINITION. Huantag frames: their octets, connections, credits, numbering and sending (R260 to R265, R287). -/

namespace Sys2Proof.Machine

/-! ## Routes and connections (R262, R263, R286) -/

/-- PEER_STAT.CONSENT (R286, R287): in OPEN, or in CONFIDENTIAL under a policy that carries the consent. -/
def peerConsent (s : State) : Bool := bitOf (reg s .peerStat) 8

/-- The route mask of a package; empty without consent (R262, R286). -/
def routeMask (s : State) (p : Nat) : Nat := if peerConsent s then rf s (.peerRoute p) 0 8 else 0

def connKey (sub pkg : Nat) : Nat := sub * 64 + pkg

def conn (s : State) (sub pkg : Nat) : Conn := smGet Conn.reset s.conns (connKey sub pkg)

def setConn (s : State) (sub pkg : Nat) (c : Conn) : State :=
  { s with conns := smSet Conn.reset s.conns (connKey sub pkg) c }

/-- The sub-port of an access: the ((ADDR >> 12) mod m)-th set bit of the route mask (R263). -/
def subportOf (s : State) (pkg addr : Nat) : Option Nat :=
  let bs := setBits (routeMask s pkg) 8
  if bs.isEmpty then none else bs[(addr >>> 12) % bs.length]?

/-! ## Octets (R260, R261) -/

/-- The MAC address of a sub-port of a package in a domain (R261). -/
def macOf (domain pkg sub : Nat) : List Byte := [0x02, 0x51, domain, pkg, sub, 0x00].map (BitVec.ofNat 8)

/-- The domain id of this package. -/
def ownDomain (s : State) : Nat := rf s .peerId 8 8

/-- The Huantag CRC-32C. -/
def huantagCrc (bs : List Byte) : List Byte := crc32 crc32cPoly bs

/-- The Ethernet frame check sequence. -/
def etherFcs (bs : List Byte) : List Byte := crc32 0xEDB88320 bs

/-- Payload lines of a frame. -/
def Sent.lines (f : Sent) : Nat := ceilDiv f.payload.length 64

/-- The 32 bytes of the Huantag header; VERSION is 1. -/
def frameHeader (s : State) (pkg ack : Nat) (f : Sent) : List Byte :=
  leBytes 32 (1 + f.vc % 8 * 2 ^ 4 + f.typ % 16 * 2 ^ 7 + ownPkg s % 64 * 2 ^ 12 + pkg % 64 * 2 ^ 18 + f.lines % 256 * 2 ^ 24
    + f.seq % 2 ^ 24 * 2 ^ 32 + ack % 2 ^ 24 * 2 ^ 56 + f.addr % 2 ^ 48 * 2 ^ 80 + f.ctx % 64 * 2 ^ 128 + f.tag % 2 ^ 32 * 2 ^ 134
    + f.poison % 2 ^ 64 * 2 ^ 166)

/-- The priority of a channel (R264, R287). -/
def channelPcp (s : State) (vc : Nat) : Nat := rf s .peerVcPcp (4 * vc) 3

/-- The 802.1Q tag, network byte order, omitted when TAG_EN is 0. -/
def vlanTag (s : State) (vc : Nat) : List Byte :=
  if bitOf (reg s .peerEtype) 28 then
    (leBytes 2 0x8100).reverse ++ (leBytes 2 (channelPcp s vc * 2 ^ 13 + rf s .peerEtype 16 12)).reverse
  else []

/-- A frame as it goes onto a sub-port (R260). `dst` is the destination MAC; each frame carries the cumulative acknowledgement
of its connection. -/
def frameOctets (s : State) (sub pkg ack : Nat) (dst : List Byte) (f : Sent) : List Byte :=
  let body := frameHeader s pkg ack f ++ f.payload
  let eth := dst ++ macOf (ownDomain s) (ownPkg s) sub ++ vlanTag s f.vc ++ (leBytes 2 (rf s .peerEtype 0 16)).reverse
    ++ body ++ huantagCrc body
  eth ++ etherFcs eth

/-- The most payload lines of a frame that this package forms (R260, R287). -/
def maxLines (s : State) : Nat := if bitOf (reg s .peerCtl) 2 then 64 else 16

/-- Bytes padded with zeros to whole lines. -/
def padLines (bs : List Byte) : List Byte := bs ++ List.replicate (roundUp bs.length 64 - bs.length) 0

/-! ## Sending (R264, R265) -/

/-- Drive a frame of a connection onto its sub-port. -/
def transmit (s : State) (sub pkg : Nat) (f : Sent) : State :=
  let c := conn s sub pkg
  emit s (.frame sub (frameOctets s sub pkg c.rxSeq (macOf (ownDomain s) pkg c.peerSub) f))

/-- Drive a frame outside the sequence: credit, negative acknowledgement. -/
def sendControl (s : State) (sub pkg typ : Nat) (payload : List Byte) : State :=
  transmit s sub pkg ⟨0, 4, typ, 0, 0, 0, 0, 0, padLines payload⟩

/-- The priority of a channel is paused on the sub-port (R264, R287). -/
def paused (s : State) (sub vc : Nat) : Bool := smGet 0 s.pauses (sub * 8 + channelPcp s vc) != 0

/-- Transmit what waits on a connection, in the order of each channel, while the channel's credits last and its priority is not
paused. A channel that must wait holds up no other (R21, R264). A frame takes its number as it is sent (R265). -/
def pumpFrames (s : State) (sub pkg : Nat) : List Nat → List Sent → State
  | _, [] => s
  | blocked, f :: fs =>
    let c := conn s sub pkg
    let need := f.lines + 1
    if !blocked.contains f.vc && !paused s sub f.vc && decide (need ≤ c.credits.getD f.vc 0) then
      let g := { f with seq := c.txSeq, tries := 1 }
      let c := { c with credits := c.credits.set f.vc (c.credits.getD f.vc 0 - need), txSeq := (c.txSeq + 1) % 2 ^ 24
                        waiting := c.waiting.erase f, unacked := c.unacked ++ [g] }
      pumpFrames (transmit (setConn s sub pkg c) sub pkg g) sub pkg blocked fs
    else pumpFrames s sub pkg (f.vc :: blocked) fs

/-- Everything that waits on a connection and may go. -/
def pumpConn (s : State) (sub pkg : Nat) : State := pumpFrames s sub pkg [] (conn s sub pkg).waiting

/-- Hand a frame to a connection, which numbers and sends it when it holds the credits (R264, R265). -/
def sendFrame (s : State) (sub pkg vc typ addr cx tag poison : Nat) (payload : List Byte) : State :=
  let c := conn s sub pkg
  pumpConn (setConn s sub pkg { c with waiting := c.waiting ++ [⟨0, vc, typ, addr, cx, tag, 0, poison, payload⟩] }) sub pkg

/-- Send a message that has no target address to a package, over the first sub-port of its route (DESIGN CHOICE, log entry 14);
nothing goes where there is no route. -/
def sendMessage (s : State) (pkg vc typ cx tag poison : Nat) (payload : List Byte) : State :=
  match subportOf s pkg 0 with
  | none => s
  | some sub => sendFrame s sub pkg vc typ 0 cx tag poison payload

end Sys2Proof.Machine
end

