-- ==== Sys2Proof/Machine/Group.lean ====
section
/-! DEFINITION. The COLL descriptor, collective groups, their sequence numbers, and the abandon notice (R272, R273,
R277, R284). -/

namespace Sys2Proof.Machine

/-! ## The descriptor (R273) -/

def clGroup (d : Desc) : Nat := fld d.w2 4 6
def clLocal (d : Desc) : Bool := bitOf d.w2 10
def clRedop (d : Desc) : Nat := fld d.w2 12 2
def clWire (d : Desc) : Bool := bitOf d.w2 14
def clCmode (d : Desc) : Nat := fld d.w2 15 3
def clSTid (d : Desc) : Nat := fld d.w2 18 12
def clDTid (d : Desc) : Nat := fld d.w2 30 12
def clCount (d : Desc) : Nat := fld d.w3 0 32
def clSrc (d : Desc) : Nat := fld d.w4 0 48
def clDst (d : Desc) : Nat := fld d.w5 0 48
def clAux (d : Desc) : Nat := fld d.w6 0 48

/-! ## Groups (R272) -/

def grpOwner (s : State) (g : Nat) : Nat := rf s (.peerGrpCfg g) 0 6

/-- The group is enabled for the context. -/
def grpOpen (s : State) (x g : Nat) : Bool := bitOf (reg s (.peerGrpCfg g)) 6 && grpOwner s g == x

/-- Packages of a group in rank order. -/
def grpMembers (s : State) (g : Nat) : List Nat := setBits (reg s (.peerGrpMem g)).toNat 64

/-- Members of a COLL: this package alone when LOCAL is set. -/
def clMembers (s : State) (d : Desc) : List Nat := if clLocal d then [ownPkg s] else grpMembers s (clGroup d)

/-- This package's rank. -/
def clRank (s : State) (d : Desc) : Nat := (clMembers s d).idxOf (ownPkg s)

/-- A COLL that is matched with other packages, whatever its OP (R277). -/
def clMatched (d : Desc) : Bool := d.cls == 4 && !clLocal d

/-- The number that a COLL takes when it is read; it advances whatever becomes of the command (R277). -/
def clTakeNumber (s : State) (x : Nat) (d : Desc) : Nat × State :=
  if clMatched d && grpOpen s x (clGroup d) then
    let n := smGet 0 s.grpSeq (clGroup d)
    (n, { s with grpSeq := smSet 0 s.grpSeq (clGroup d) ((n + 1) % 2 ^ 32) })
  else (0, s)

/-- The numbers of a group restart at 0 (R277). -/
def restartGroup (s : State) (g : Nat) : State :=
  { s with grpSeq := smSet 0 s.grpSeq g 0, abandoned := s.abandoned.filter fun p => p.1 != g
           collIn := s.collIn.filter fun p => p.2.group.val != g }

/-! ## Messages between members (R276, R284; laid out as DESIGN CHOICE, log entry 14) -/

/-- The first line of a collective frame's payload: kind, group and number, then `more` from bit 64. -/
def messageLine (kind g n more : Nat) : List Byte := leBytes 64 (g % 64 + kind % 4 * 2 ^ 6 + n % 2 ^ 32 * 2 ^ 16 + more * 2 ^ 64)

/-- The other members of a COLL's group. -/
def clPeers (s : State) (d : Desc) : List Nat := (clMembers s d).filter (· != ownPkg s)

/-- A message on the management channel to every other member. -/
def tellMembers (s : State) (o : OutCmd) (payload : List Byte) : State :=
  (clPeers s o.d).foldl (fun s p => sendMessage s p 4 8 o.ctx o.d.tag 0 payload) s

/-- A COLL that ends otherwise than by a completed exchange tells its peers (R277, R284). -/
def clAbandon (s : State) (o : OutCmd) : State :=
  if clMatched o.d && grpOpen s o.ctx (clGroup o.d) then tellMembers s o (messageLine 3 (clGroup o.d) o.seqNo 0) else s

end Sys2Proof.Machine
end

