-- ==== Sys2Proof/Machine/Complete.lean ====
section
/-! DEFINITION. Outstanding commands, completion records, deadline misses and programs' ends
(R295, R305, R306, R312 to R315, R320, R335, R336). -/

namespace Sys2Proof.Machine

/-! ## Ring set-up (R293) -/

def ringEn (s : State) (x n : Nat) : Bool := bitOf (reg s (.ctxCxRing x n)) 0
def ringRealtime (s : State) (x n : Nat) : Bool := bitOf (reg s (.ctxCxRing x n)) 1
def ringDropLate (s : State) (x n : Nat) : Bool := bitOf (reg s (.ctxCxRing x n)) 2

/-- The lowest `len` bits of SCH_CX_STAT.INTAKE_OFF for a ring (R348). -/
def intakeOff (s : State) (x n : Nat) : Bool := bitOf (reg s (.schCxStat x)) n

def setIntakeOff (s : State) (x n : Nat) (b : Bool) : State :=
  setRf s (.schCxStat x) n 1 (if b then 1 else 0)

/-- SCH_CX_STAT.BUSY of a ring (R341, R348). -/
def ringBusy (s : State) (x n : Nat) : Bool := bitOf (reg s (.schCxStat x)) (16 + n)

/-- BUSY is set exactly while CPL_WR differs from SUB_HEAD (R341). -/
def refreshBusy (s : State) (x n : Nat) : State :=
  setRf s (.schCxStat x) (16 + n) 1 (if cplWr s x n = subHead s x n then 0 else 1)

/-! ## Outstanding commands -/

def findOut (s : State) (ident : Nat) : Option OutCmd := s.outs.find? fun o => o.ident == ident

def dropOut (s : State) (ident : Nat) : State := { s with outs := s.outs.filter fun o => o.ident != ident }

def putOut (s : State) (o : OutCmd) : State :=
  { s with outs := s.outs.map fun p => if p.ident == o.ident then o else p }

def addOut (s : State) (o : OutCmd) : State := { s with outs := s.outs ++ [o] }

/-- Commands of a ring that have been read and not completed, not counting those of programs. -/
def outsOf (s : State) (x n : Nat) : List OutCmd :=
  s.outs.filter fun o => o.ctx == x && o.ring == n && o.parent.isNone

/-- The CALLs above a command, innermost first (R305: a depth of 4). -/
def ancestors (s : State) : Nat → OutCmd → List Nat
  | 0, _ => []
  | k + 1, o =>
    match o.parent with
    | none => []
    | some p => p :: (match findOut s p with | some c => ancestors s k c | none => [])

/-- The ring's command that a command belongs to. -/
def rootOf (s : State) (o : OutCmd) : Nat := (ancestors s 5 o).getLast?.getD o.ident

/-- A command was placed after another: in one ring command's program by its order there, and otherwise when its
ring's command was read later. -/
def placedAfter (s : State) (o q : OutCmd) : Bool :=
  if rootOf s o = rootOf s q then decide (q.ident < o.ident) else decide (q.ident < rootOf s o)

/-- Every command that stands in the program of a CALL, at any depth. -/
def programOuts (s : State) (call : Nat) : List OutCmd :=
  s.outs.filter fun o => (ancestors s 5 o).contains call

/-- Every descriptor of the CALL has been read or abandoned (R305, R306). -/
def callIssued : OutSt → Bool
  | .call next count _ abandoned => abandoned || next == count
  | _ => true

/-! ## Completion records (R312, R313, R320) -/

/-- The 16 bytes of a completion (R312). -/
def completionBytes (s : State) (o : OutCmd) (status detail : Nat) : List Byte :=
  let phase := phaseOf (cplWr s o.ctx o.ring) (ringSize s (.ctxCxCq o.ctx o.ring))
  let idx := o.pos % ringSize s (.ctxCxSq o.ctx o.ring)
  leBytes 4 o.d.tag ++
  leBytes 4 (status % 256 + phase * 2 ^ 8 + (if o.missed then 2 ^ 9 else 0) + idx % 2 ^ 16 * 2 ^ 16) ++
  leBytes 4 detail ++ leBytes 4 (subHead s o.ctx o.ring)

/-- The address of completion number CPL_WR (R294). -/
def completionAddr (s : State) (x n : Nat) : Nat :=
  ringBase s (.ctxCxCq x n) + (cplWr s x n % ringSize s (.ctxCxCq x n)) * 16

/-- The interrupt rule of a completion (R320). -/
def noteCompletion (s : State) (x n : Nat) (irq : Bool) : State :=
  let r := ringSt s x n
  let pend := r.pend + 1
  let oldest := if r.pend = 0 then now s else r.oldest
  let mode := rf s (.ctxCxRing x n) 3 2
  let fire := (mode == 2 && (decide (rf s (.ctxCxRing x n) 8 8 ≤ pend) || irq)) || (mode == 1 && irq)
  if fire then signal (modRing s x n fun r => { r with pend := 0, oldest := oldest }) (x * 32 + n)
  else modRing s x n fun r => { r with pend := pend, oldest := oldest }

/-- Write the completion of a command read from a ring (R312 to R314). -/
def putCompletion (s : State) (o : OutCmd) (status detail : Nat) : State :=
  let s1 := storeFor s o.ctx (completionAddr s o.ctx o.ring) (completionBytes s o status detail)
  let s2 := setRf s1 (.ctxCxRstat o.ctx o.ring) 32 32 ((cplWr s o.ctx o.ring + 1) % 2 ^ 32)
  noteCompletion (refreshBusy s2 o.ctx o.ring) o.ctx o.ring o.d.irq

/-! ## Ends of commands (R214, R306) -/

/-- Codes after which a program runs on (R306). -/
def programRunsOn (st : Nat) : Bool := [stOk, stPoisonIn, stLate, stDeferred, stStepVoid].contains st

/-- The marks that a command's code leaves on the step record (R214, R215, R229). -/
def markOutcome (s : State) (o : OutCmd) (status : Nat) : State :=
  let s := if isCounted o.d && !o.old && status != stOk && status != stLate then markInc s o.ctx o.ring o.d.tag else s
  if isDeferred o.op && !evalPhase o.d && status != stOk then mark s o.ctx markRefused o.d.tag else s

/-- The descriptors of a registered program that are not yet read. -/
def unreadProgram (s : State) (o : OutCmd) : List Desc :=
  match o.st with
  | .call next count _ false =>
    let a := match smGet none (ctx s o.ctx).progs (fld o.d.w2 2 6) with | some p => p.addr | none => 0
    (List.range (count - next)).map fun i =>
      descOf ((List.range 8).map fun w => readWord s (a + 64 + (next + i) * 64 + w * 8))
  | _ => []

/-- A descriptor is a deferred command of the train phase. -/
def defersTrain (d : Desc) : Bool :=
  !evalPhase d && (match RingOp.ofDesc d with | some op => isDeferred op | none => false)

/-- The first counted command that an abandoned program leaves unread marks INCOMPLETE, and the first deferred one REFUSED
(R214, R306). -/
def markUnread (s : State) (c : OutCmd) : State :=
  let ds := unreadProgram s c
  let s := match ds.find? isCounted with
    | some d => markInc s c.ctx c.ring d.tag
    | none => s
  match ds.find? defersTrain with
  | some d => mark s c.ctx markRefused d.tag
  | none => s

/-- The commands of a CALL's own program that are read and not dispatched. -/
def undispatched (s : State) (c : OutCmd) : List OutCmd :=
  s.outs.filter fun o => o.parent == some c.ident && o.st == .queued

/-- Abandon what a CALL's program has not dispatched: each counts as completed ABORTED (R306). -/
def abandonProgram (s : State) (c : OutCmd) : State :=
  let s := (undispatched s c).foldl (fun s o => markOutcome (clAbandon (dropOut s o.ident) o) o stAborted) s
  markUnread s c

/-- The earliest in program order of two commands that did not complete OK (R306). -/
def firstBad (bad : Option (Nat × Nat)) (index status : Nat) : Option (Nat × Nat) :=
  if status = stOk then bad
  else match bad with
    | none => some (index, status)
    | some (i, st) => if index < i then some (index, status) else some (i, st)

/-- A CALL records the end of one of its commands, and abandons the rest when R306 says so. -/
def callRecord (s : State) (c : OutCmd) (index status : Nat) : State :=
  match c.st with
  | .call next count bad abandoned =>
    let stop := !programRunsOn status && !abandoned
    let low := if stop then (undispatched s c).foldl (fun b o => firstBad b o.index stAborted) bad else bad
    let s := if stop then abandonProgram s c else s
    putOut s { c with st := .call next count (firstBad low index status) (abandoned || stop) }
  | _ => s

/-- The status and detail of a CALL whose program has ended (R306, R312). -/
def callOutcome (c : OutCmd) : Nat × Nat :=
  match c.st with
  | .call _ _ (some (i, st)) _ => (st, i)
  | _ => (stOk, 0xFFFFFFFF)

/-- End commands upward: a CALL whose program is read or abandoned and has nothing outstanding completes, and so
on up to the ring (R305, R306). -/
def endUpward : Nat → State → OutCmd → Nat → Nat → State
  | 0, s, _, _, _ => s
  | k + 1, s, o, status, detail =>
    let status := withMiss o.missed status
    let s := markOutcome (dropOut s o.ident) o status
    match o.parent with
    | none => putCompletion s o status detail
    | some p =>
      match findOut s p with
      | none => s
      | some c =>
        let s := callRecord s c o.index status
        match findOut s p with
        | none => s
        | some c =>
          if callIssued c.st && (programOuts s p).isEmpty then
            endUpward k s c (callOutcome c).1 (callOutcome c).2
          else s

/-- A command completes with a code and its DETAIL (R10, R306, R312). -/
def complete (s : State) (o : OutCmd) (status detail : Nat) : State := endUpward 6 s o status detail

/-! ## Deadlines (R324, R335, R336) -/

/-- The ring is real-time and the deadline is nonzero and has passed (R335). -/
def deadlinePassed (s : State) (o : OutCmd) : Bool :=
  ringRealtime s o.ctx o.ring && o.dl != 0 && earlier48 o.dl (now s % 2 ^ 48) true

/-- The event of a command: its ring, program and tag (R316). -/
def cmdEvent (o : OutCmd) (kind detail : Nat) : Event :=
  ⟨kind, some o.ring, if o.parent.isSome then some o.prog else none, o.d.tag, detail⟩

/-- A deadline miss: the event, MISSED, and the counts of R187 and R335. -/
def missNow (s : State) (o : OutCmd) (slabs : Nat) : State × OutCmd :=
  let o' := { o with missed := true }
  let detail := o.d.cls + o.dl % 2 ^ 48 * 2 ^ 8 + (if o.d.cls = 0 then slabs % 2 ^ 32 * 2 ^ 56 else 0)
  let s := writeEvent s o.ctx (cmdEvent o 0x01 detail)
  let s := bump (bump s .schMissCnt) (.telCxMisses o.ctx)
  let s := if o.d.cls = 0 then bump s .strmLateCnt else s
  (putOut s o', o')

/-! ## Engines (R299, R315, R327) -/

/-- Collector index of the engines whose queues take a command (R315, R327, R332): arrays 0-255, vector units
256-511, attention units 512-543, stream engines 544-607, collective engines 608-609, telemetry 610. -/
def enginesOf (d : Desc) : List Nat :=
  let c := 8 * d.region + d.cluster
  match d.cls with
  | 0 => [544 + 2 * d.region + d.cluster % 2]
  | 1 =>
    match fld d.w2 4 2 with
    | 0 => [c]
    | 1 => (List.range 4).map fun i => 8 * d.region + 4 * (d.cluster / 4) + i
    | _ => (List.range 8).map fun i => 8 * d.region + i
  | 2 => [256 + c]
  | 3 => [c]
  | 4 => [608 + fld d.w2 11 1]
  | 10 => [610]
  | _ => []

/-- The command waits in the queue of an engine. -/
def inQueue (o : OutCmd) (e : Nat) : Bool := o.st == .queued && (enginesOf o.d).contains e

/-- The rings that have a lane of a context on an engine (R328). -/
def lanesOf (s : State) (x e : Nat) : List Nat :=
  dedup ((s.outs.filter fun o => o.ctx == x && inQueue o e).map fun o => o.ring)

/-- An engine has a free place for a ring of a context (R328). -/
def enginePlace (s : State) (x n e : Nat) : Bool :=
  decide ((s.outs.filter fun o => o.ctx == x && inQueue o e).length < 16)
    && ((lanesOf s x e).contains n || decide ((lanesOf s x e).length < 8))

end Sys2Proof.Machine
end

