-- ==== Sys2Proof/Machine/Tensor.lean ====
section
/-! DEFINITION. Element formats, scale-table entries, reading and converting elements, the assay, and the two
layouts of tensors in memory (R26 to R28, R38 to R50, R102, R142). -/

namespace Sys2Proof.Machine

/-! ## Formats (R26) -/

/-- What R26 says of a format: bits, exponent bits, fraction bits, bias, integer, MX, infinities, NaN, the
largest finite magnitude as m × 2^e, and E_max (R38). -/
structure FmtInfo where
  bits  : Nat
  eb    : Nat
  mb    : Nat
  bias  : Int
  isInt : Bool
  mx    : Bool
  hasInf : Bool
  hasNan : Bool
  maxM  : Nat
  maxE  : Int
  eMax  : Int
deriving DecidableEq, Repr

def fmtInfo : Nat → FmtInfo
  | 0 => ⟨32, 8, 23, 127, false, false, true, true, 0xFFFFFF, 104, 127⟩
  | 1 => ⟨16, 8, 7, 127, false, false, true, true, 0xFF, 120, 127⟩
  | 2 => ⟨16, 5, 10, 15, false, false, true, true, 0x7FF, 5, 15⟩
  | 3 => ⟨8, 4, 3, 7, false, false, false, true, 14, 5, 8⟩
  | 4 => ⟨8, 5, 2, 15, false, false, true, true, 7, 13, 15⟩
  | 5 => ⟨8, 4, 3, 7, false, true, false, true, 14, 5, 8⟩
  | 6 => ⟨8, 5, 2, 15, false, true, true, true, 7, 13, 15⟩
  | 7 => ⟨6, 3, 2, 3, false, true, false, false, 7, 2, 4⟩
  | 8 => ⟨6, 2, 3, 1, false, true, false, false, 15, -1, 2⟩
  | 9 => ⟨4, 2, 1, 1, false, true, false, false, 3, 1, 2⟩
  | 10 => ⟨8, 0, 0, 0, true, false, false, false, 127, 0, 6⟩
  | _ => ⟨4, 0, 0, 0, true, false, false, false, 7, 0, 2⟩

/-- The largest finite value of a format, for R47's M. -/
def fmtMax (f : FmtInfo) : Fv := .fin false f.maxM f.maxE

/-- The value of an element's bits, before scales (R26, R28). -/
def decodeElem (f : FmtInfo) (n : Nat) : Fv :=
  if f.isInt then
    let v := signed n f.bits
    .fin (decide (v < 0)) v.natAbs 0
  else
    let s := n.testBit (f.bits - 1)
    let ex := bitsAt n f.mb f.eb
    let fr := n % 2 ^ f.mb
    if f.hasInf && ex == 2 ^ f.eb - 1 then (if fr = 0 then .inf s else .nan)
    else if f.hasNan && !f.hasInf && ex == 2 ^ f.eb - 1 && fr == 2 ^ f.mb - 1 then .nan
    else if ex = 0 then .fin s fr (1 - f.bias - f.mb)
    else .fin s (fr + 2 ^ f.mb) ((ex : Int) - f.bias - f.mb)

/-- The bits of a magnitude that the format holds exactly, with its sign. -/
def encodeMag (f : FmtInfo) (neg : Bool) (m : Nat) (e : Int) : Nat :=
  let sign := if neg then 2 ^ (f.bits - 1) else 0
  let low : Int := 1 - f.bias - f.mb
  if m = 0 then sign
  else
    let top := (Nat.log2 m : Int) + e
    if top < 1 - f.bias then sign + (if low ≤ e then m <<< (e - low).toNat else m >>> (low - e).toNat)
    else
      let frac := if Nat.log2 m ≤ f.mb then m <<< (f.mb - Nat.log2 m) else m >>> (Nat.log2 m - f.mb)
      sign + (top + f.bias).toNat * 2 ^ f.mb + frac % 2 ^ f.mb

/-- The NaN that a conversion writes (R42). -/
def nanCode (f : FmtInfo) : Nat :=
  if f.hasInf then (2 ^ f.eb - 1) * 2 ^ f.mb + 2 ^ (f.mb - 1) else 2 ^ (f.bits - 1) - 1

def infCode (f : FmtInfo) (neg : Bool) : Nat :=
  (if neg then 2 ^ (f.bits - 1) else 0) + (2 ^ f.eb - 1) * 2 ^ f.mb

/-- Where a converted element falls in the assay (R48). -/
inductive Census where
  | plain | sat | ufl | nonfin
deriving DecidableEq, Repr

/-- Round and saturate one element that is already scaled (R38 steps 3 and 4, R41, R42): its bits, its census,
and whether a non-finite value counts as written (R94). `x` is the value before scaling. -/
def convElem (f : FmtInfo) (nonsat : Bool) (mode : Rounding) (x y : Fv) : Nat × Census × Bool :=
  match y with
  | .nan => if f.isInt then (0, .nonfin, true) else (nanCode f, .nonfin, true)
  | .inf n =>
    if f.isInt then
      ((if n then 2 ^ (f.bits - 1) else 2 ^ (f.bits - 1) - 1), .nonfin, true)
    else if f.hasInf then (infCode f n, .nonfin, true)
    else (nanCode f, .nonfin, true)
  | .fin n m e =>
    if f.isInt then
      let q := if 0 ≤ e then m <<< e.toNat else roundShift mode m (-e).toNat
      let lim := if n then 2 ^ (f.bits - 1) else 2 ^ (f.bits - 1) - 1
      let v := min q lim
      let code := if n then (2 ^ f.bits - v) % 2 ^ f.bits else v
      (code, if lim < q then .sat else if v = 0 && !x.isZero then .ufl else .plain, false)
    else
      let r := roundMag mode (f.mb + 1) (1 - f.bias - f.mb) m e
      if !magLe r.1 r.2 f.maxM f.maxE then
        if nonsat && f.hasInf then (infCode f n, .sat, true)
        else if nonsat && f.hasNan then (nanCode f, .sat, true)
        else (encodeMag f n f.maxM f.maxE, .sat, false)
      else
        let small := r.1 = 0 ∨ (Nat.log2 r.1 : Int) + r.2 < 1 - f.bias
        (encodeMag f n r.1 r.2, if small && !x.isZero then .ufl else .plain, false)

/-! ## Scale-table entries (R44, R45, R470) -/

/-- What a command needs of a scale-table entry. -/
structure Tensor where
  tid    : Nat
  /-- The format in which the command converts or reads: FMT_STORE, or FMT_SAVE for a saved activation (R51). -/
  fmt    : Nat
  cls    : Nat
  round  : Nat
  nonsat : Bool
  e      : Int
  /-- MX blocks of an engine-ready tile run along rows, in bands of 32: class 0 or 4 (R142). -/
  band   : Bool
  /-- FMT_SAVE as a format, and ZRC_EN. -/
  save   : Nat
  zrc    : Bool
  /-- The operand is a saved activation (R51). -/
  kept   : Bool
deriving DecidableEq, Repr

/-- Address of an entry (R44, R475). -/
def entryAddr (s : State) (x tid : Nat) : Nat := rf s (.ctxCxScale x) 0 48 + tid * 32

/-- The 256 bits of an entry. -/
def entryBits (s : State) (x tid : Nat) : Nat := readLe s (entryAddr s x tid) 32

/-- The reserved encodings of an entry (R45) and its format codes (R27). -/
def entryViolations (n : Nat) : List Nat :=
  let reserved := bitsAt n 28 4 != 0 || bitsAt n 52 12 != 0 || bitsAt n 116 12 != 0 || bitsAt n 176 80 != 0
  let save := bitsAt n 4 4
  whenV (bitsAt n 13 2 == 3 || decide (6 ≤ bitsAt n 9 3) || bitsAt n 16 8 == 0x80
      || !([0x0, 0x3, 0x7, 0x8, 0x9].contains save) || bitsAt n 128 2 != 0 || reserved) stBadDesc
    ++ whenV (decide (0xC ≤ bitsAt n 0 4)) stUnsupported

/-- The tensor of an entry, expert options as CTX_CTL.EXPERT_EN allows (R470). -/
def tensorOfBits (s : State) (tid n : Nat) : Tensor :=
  let x := expertOn s .ctx
  { tid := tid, fmt := bitsAt n 0 4, cls := bitsAt n 9 3
    round := if bitsAt n 13 2 = 1 && !x then 0 else bitsAt n 13 2
    nonsat := n.testBit 15 && x
    e := signed (bitsAt n 16 8) 8
    band := bitsAt n 9 3 == 0 || bitsAt n 9 3 == 4
    save := if bitsAt n 4 4 = 0 then bitsAt n 0 4 else bitsAt n 4 4
    zrc := n.testBit 8
    kept := false }

def tensor (s : State) (x tid : Nat) : Tensor := tensorOfBits s tid (entryBits s x tid)

/-- The tensor of an operand at an address. An activation that the program keeps for the backward pass is written and
read in the save slot (R51): no field of a descriptor says which operand is kept, so it is a free value (DESIGN CHOICE,
log entry 18). -/
def tensorAt (s : State) (x tid a : Nat) : Tensor :=
  let t := tensor s x tid
  if t.cls == 1 && (t.save != t.fmt || t.zrc) && Config.keptAt x tid a then { t with fmt := t.save, kept := true } else t

/-- The conversions of this tensor count in its save sets: the save slot, when its format differs (R48). -/
def Tensor.saveSet (s : State) (x : Nat) (t : Tensor) : Bool := t.kept && t.fmt != (tensor s x t.tid).fmt

/-- Violations of reading under a tensor id. -/
def tidRead (s : State) (x tid : Nat) : List Nat := entryViolations (entryBits s x tid)

/-- Violations of converting into a tensor id: SR belongs to gradients and optimizer state (R39). -/
def tidWrite (s : State) (x tid : Nat) : List Nat :=
  let n := entryBits s x tid
  entryViolations n ++ whenV (bitsAt n 13 2 == 2 && !([2, 3].contains (bitsAt n 9 3))) stBadDesc

/-! ## Stochastic rounding (R40) -/

/-- The key of a tensor's random bits, with an explicit step counter. -/
def srKeyAt (seed step : Word) (tid : Nat) : Word := mix (seed ^^^ (step * 4096 + BitVec.ofNat 64 tid))

def srKey (s : State) (x tid : Nat) : Word := srKeyAt (reg s (.ctxCxSeed x)) (reg s (.ctxCxStep x)) tid

/-- The 16 random bits of an element. -/
def srBits (key : Word) (index : Nat) : Nat := fld (mix (key + BitVec.ofNat 64 index * 0x9E3779B97F4A7C15)) 48 16

/-- The rounding of a tensor at an element. -/
def roundingAt (t : Tensor) (key : Word) (index : Nat) : Rounding :=
  match t.round with
  | 1 => .rtz
  | 2 => .sr (srBits key index)
  | _ => .rne

/-! ## Conversion (R38) -/

/-- y = x × 2^(-e), rounded only where it falls below the FP32 normal range (R38 step 1). -/
def scaleDown (e : Int) : Fv → Fv
  | .fin n m k => let r := roundMag .rne 24 (-149) m (k - e); .fin n r.1 r.2
  | v => v

/-- floor(log2) of the largest magnitude among finite nonzero values, if any. -/
def topLog (vs : List Fv) : Option Int :=
  vs.foldl (fun b v => match v with
    | .fin _ m e => if m = 0 then b else
        let l := (Nat.log2 m : Int) + e
        match b with | none => some l | some k => some (max k l)
    | _ => b) none

/-- X of an MX block (R38 step 2). -/
def blockScale (f : FmtInfo) (ys : List Fv) : Int :=
  match topLog ys with
  | none => -127
  | some l => max (-127) (min 127 (l - f.eMax))

/-- Assay counts, the largest finite magnitude, and whether a non-finite value was written (R47, R48, R94). -/
structure Stats where
  total  : Nat
  sat    : Nat
  ufl    : Nat
  nonfin : Nat
  amax   : Option Fv
  wrote  : Bool
deriving DecidableEq, Repr

def Stats.empty : Stats := ⟨0, 0, 0, 0, none, false⟩

/-- The larger of two optional magnitudes. -/
def maxMag : Option Fv → Option Fv → Option Fv
  | none, b => b
  | a, none => a
  | some a, some b => some (if flt a b then b else a)

def Stats.join (a b : Stats) : Stats :=
  ⟨a.total + b.total, a.sat + b.sat, a.ufl + b.ufl, a.nonfin + b.nonfin, maxMag a.amax b.amax, a.wrote || b.wrote⟩

/-- The counts of one element; one derived from poisoned input is not counted (R186). -/
def Stats.of (x : Fv) (c : Census) (wrote poisoned : Bool) : Stats :=
  if poisoned then { Stats.empty with wrote := wrote }
  else
    let k (d : Census) : Nat := if c = d then 1 else 0
    ⟨1, k .sat, k .ufl, k .nonfin, if x.isFinite then some x.abs else none, wrote⟩

/-- An element on its way out: its value, whether it derives from poisoned input, and its element_index (R40). -/
structure Elem where
  v      : Fv
  bad    : Bool
  index  : Nat
deriving DecidableEq, Repr

/-- Convert the elements of one block (or, outside MX, any run of elements) into a tensor: element bits, the E8M0
code for MX, and the counts (R38, R42, R48). With `fixed` the block scale is that one (R126). -/
def convBlock (t : Tensor) (key : Word) (fixed : Option Int) (es : List Elem) : List Nat × Nat × Stats :=
  let f := fmtInfo t.fmt
  let ys := es.map fun a => scaleDown t.e a.v
  let nonfinite := ys.any fun y => !y.isFinite
  if f.mx && !f.hasNan && nonfinite then
    let st := es.foldl (fun st a => st.join (Stats.of a.v (if a.v.isFinite then .plain else .nonfin) true a.bad)) Stats.empty
    (es.map fun _ => 0, 0xFF, st)
  else
    let x := if f.mx then fixed.getD (blockScale f ys) else 0
    let rs := (es.zip ys).map fun p =>
      (p.1, convElem f t.nonsat (roundingAt t key p.1.index) p.1.v (p.2.scale (-x)))
    let st := rs.foldl (fun st p => st.join (Stats.of p.1.v p.2.2.1 p.2.2.2 p.1.bad)) Stats.empty
    (rs.map fun p => p.2.1, (x + 127).toNat, st)

/-! ## Bits in memory -/

/-- Bytes that hold elements of `bits` bits each, the first in the lowest bits (R142); the last byte is padded
with zero bits. -/
def packBits (bits : Nat) (codes : List Nat) : List Byte :=
  leBytes (ceilDiv (codes.length * bits) 8) (codes.foldr (fun c n => n * 2 ^ bits + c % 2 ^ bits) 0)

/-- The element bits at a bit offset from an address. -/
def bitsIn (s : State) (a bitOff bits : Nat) : Nat :=
  let b := a + bitOff / 8
  bitsAt (readLe s b (ceilDiv (bitOff % 8 + bits) 8)) (bitOff % 8) bits

/-- Some line under those bits is poisoned. -/
def bitsPoisoned (s : State) (a bitOff bits : Nat) : Bool :=
  anyPoison s (a + bitOff / 8) (ceilDiv (bitOff % 8 + bits) 8)

/-- A value under an E8M0 code and a per-tensor exponent (R27, R28). -/
def scaled (f : FmtInfo) (e : Int) (code : Nat) (v : Fv) : Fv :=
  if f.mx then (if code = 0xFF then .nan else v.scale ((code : Int) - 127 + e)) else v.scale e

/-- Bytes of an operand: none in a reserved format, whose elements have no size (R27). -/
def sized (fmt n : Nat) : Nat := if fmt < 12 then n else 0

/-! ## Row-major tensors of VEC (R102) -/

/-- Bytes of the elements alone. -/
def rowElemBytes (fmt rows cols : Nat) : Nat := ceilDiv (rows * cols * (fmtInfo fmt).bits) 8

/-- Address of the block scales: the next 64-byte boundary after the elements. -/
def rowScales (fmt a rows cols : Nat) : Nat := roundUp (a + rowElemBytes fmt rows cols) 64

/-- Bytes of a row-major tensor at an address, its block scales included. -/
def rowBytes (fmt a rows cols : Nat) : Nat :=
  if (fmtInfo fmt).mx then rowScales fmt a rows cols + rows * ceilDiv cols 32 - a else rowElemBytes fmt rows cols

/-- Element (i, j) of a row-major tensor: its value and whether it is poisoned. -/
def rowElem (s : State) (t : Tensor) (a rows cols i j : Nat) : Fv × Bool :=
  let f := fmtInfo t.fmt
  let off := (i * cols + j) * f.bits
  let sc := rowScales t.fmt a rows cols + i * ceilDiv cols 32 + j / 32
  let code := if f.mx then (readByte s sc).toNat else 127
  (scaled f t.e code (decodeElem f (bitsIn s a off f.bits)),
   bitsPoisoned s a off f.bits || (f.mx && poisoned s sc))

/-! ## Engine-ready tiles (R142) -/

/-- Offset of a subtile's block scales, R rows of 128 columns. -/
def subScaleOff (fmt r : Nat) : Nat := roundUp (r * 128 * (fmtInfo fmt).bits / 8) 64

/-- Bytes of a subtile. -/
def subtileBytes (fmt r : Nat) : Nat :=
  roundUp (subScaleOff fmt r + (if (fmtInfo fmt).mx then r * 4 else 0)) 64

/-- Offset of a scale byte in a subtile: blocks run along rows in bands of 32, or along columns. -/
def subScaleIdx (band : Bool) (i j : Nat) : Nat := if band then i / 32 * 128 + j else 4 * i + j / 32

/-- Element (i, j) of a tile stored as subtiles of `r` rows laid end to end. -/
def tileElem (s : State) (t : Tensor) (a r i j : Nat) : Fv × Bool :=
  let f := fmtInfo t.fmt
  let b := a + j / 128 * subtileBytes t.fmt r
  let off := (i * 128 + j % 128) * f.bits
  let sc := b + subScaleOff t.fmt r + subScaleIdx t.band i (j % 128)
  let code := if f.mx then (readByte s sc).toNat else 127
  (scaled f t.e code (decodeElem f (bitsIn s b off f.bits)),
   bitsPoisoned s b off f.bits || (f.mx && poisoned s sc))

/-! ## Results -/

/-- What a command writes: cells, the lines that receive poisoned results, and the counts of one tensor id. -/
structure Out where
  cells : List Host.Cell
  bad   : List Nat
  stats : Stats
deriving DecidableEq, Repr

def Out.empty : Out := ⟨[], [], Stats.empty⟩

def Out.join (a b : Out) : Out := ⟨a.cells ++ b.cells, a.bad ++ b.bad, a.stats.join b.stats⟩

def Out.concat (os : List Out) : Out := os.foldl Out.join Out.empty

/-- Bytes at an address, with the lines of an extent poisoned when `bad`. -/
def outBytes (a : Nat) (bs : List Byte) (bad : Bool) : Out :=
  { cells := (List.range bs.length).map fun i => (a + i, bs.getD i 0)
    bad := if bad ∧ 0 < bs.length then (List.range ((a + bs.length - 1) / 64 - a / 64 + 1)).map (a / 64 + ·) else []
    stats := Stats.empty }

/-- FP32 values written under no tensor id (R102, R112). -/
def outF32 (a : Nat) (vs : List (Fv × Bool)) : Out :=
  Out.concat ((List.range vs.length).map fun i =>
    let v := vs.getD i (.zero, false)
    outBytes (a + 4 * i) (leBytes 4 (bits32 v.1)) v.2)

/-- Cut a list into blocks of `n`. -/
def chunks {α : Type} (n : Nat) (l : List α) : List (List α) :=
  (List.range (ceilDiv l.length n)).map fun i => (l.drop (i * n)).take n

/-- Convert and lay out a row-major tensor (R102); `index i j` is the element_index (R40). -/
def outRows (t : Tensor) (key : Word) (a rows cols : Nat) (index : Nat → Nat → Nat) (val : Nat → Nat → Fv × Bool) : Out :=
  let f := fmtInfo t.fmt
  let elems := (List.range rows).map fun i => (List.range cols).map fun j =>
    (⟨(val i j).1, (val i j).2, index i j⟩ : Elem)
  let blocks := elems.flatMap fun row => chunks 32 row
  let conv := blocks.map fun b => (b, convBlock t key none b)
  let codes := conv.flatMap fun p => p.2.1
  let body := outBytes a (packBits f.bits codes) false
  let scales := if f.mx then outBytes (rowScales t.fmt a rows cols) (conv.map fun p => BitVec.ofNat 8 p.2.2.1) false
    else Out.empty
  let bad := elems.flatten.filter (·.bad)
  let lineOf (i : Nat) : List Nat :=
    let lo := (a + i * f.bits / 8) / 64
    let hi := (a + ((i + 1) * f.bits - 1) / 8) / 64
    if lo = hi then [lo] else [lo, hi]
  let badIdx := (List.range (rows * cols)).filter fun i => (val (i / cols) (i % cols)).2
  let badScale := if f.mx then (List.range conv.length).flatMap fun k =>
      if ((conv.getD k ([], [], 0, Stats.empty)).1.any (·.bad)) then [(rowScales t.fmt a rows cols + k) / 64] else []
    else []
  { cells := body.cells ++ scales.cells
    bad := if bad.isEmpty then [] else dedup (badIdx.flatMap lineOf ++ badScale)
    stats := conv.foldl (fun st p => st.join p.2.2.2) Stats.empty }

/-- Put the codes of the kept columns back among the old codes of the others. -/
def weave : List (Option Nat) → List Nat → List Nat
  | [], _ => []
  | some c :: os, cs => c :: weave os cs
  | none :: os, c :: cs => c :: weave os cs
  | none :: os, [] => 0 :: weave os []

/-- `convBlock` of a block in which some elements are not written and keep their old code; the last answer says
that some element is written. -/
def convKept (t : Tensor) (key : Word) (es : List (Elem × Option Nat)) : List Nat × Nat × Stats × Bool :=
  let kept := (es.filter fun p => p.2.isNone).map Prod.fst
  let r := convBlock t key none kept
  (weave (es.map Prod.snd) r.1, r.2.1, r.2.2, !kept.isEmpty)

/-- Convert and lay out one token tile of 128 tokens × `width` features (R88, R142): rows 0 to `n - 1` are real.
Blocks run along features, or in bands of tokens for classes 0 and 4. An element of `skip` (row, column) is not
written: it keeps its code `old`, and a row of a subtile that is skipped whole is not touched. -/
def outTile (t : Tensor) (key : Word) (a n width : Nat) (skip : Nat → Nat → Bool) (old : Nat → Nat → Nat)
    (index : Nat → Nat → Nat) (val : Nat → Nat → Fv × Bool) : Out :=
  let f := fmtInfo t.fmt
  let elem (i j : Nat) : Elem × Option Nat :=
    if skip i j then (⟨.zero, false, 0⟩, some (old i j)) else (⟨(val i j).1, (val i j).2, index i j⟩, none)
  let sub (c : Nat) : Nat := a + c * subtileBytes t.fmt 128
  let scaleCell (b : Nat) (cv : List Nat × Nat × Stats × Bool) (bad : Bool) : Out :=
    if cv.2.2.2 then outBytes b [BitVec.ofNat 8 cv.2.1] bad else Out.empty
  if f.mx && t.band then
    Out.concat ((List.range (width / 128)).map fun c =>
      let col (j b : Nat) := (List.range (min 32 (n - 32 * b))).map fun r => elem (32 * b + r) (128 * c + j)
      let conv (b : Nat) := (List.range 128).map fun j => (col j b, convKept t key (col j b))
      Out.concat ((List.range (ceilDiv n 32)).map fun b =>
        let cv := conv b
        let live (r : Nat) : Bool := (List.range 128).any fun j => !skip (32 * b + r) (128 * c + j)
        let rows := ((List.range (min 32 (n - 32 * b))).filter live).map fun r =>
          outBytes (sub c + (32 * b + r) * 128 * f.bits / 8) (packBits f.bits (cv.map fun p => p.2.1.getD r 0))
            (cv.any fun p => (p.1.getD r (⟨.zero, false, 0⟩, none)).1.bad)
        let sc := (List.range 128).map fun j =>
          scaleCell (sub c + subScaleOff t.fmt 128 + b * 128 + j) (cv.getD j ([], [], 0, Stats.empty, false)).2
            ((cv.getD j ([], [], 0, Stats.empty, false)).1.any fun p => p.1.bad)
        let st := cv.foldl (fun st p => st.join p.2.2.2.1) Stats.empty
        (Out.concat (rows ++ sc)).join ⟨[], [], st⟩))
  else
    Out.concat ((List.range (width / 128)).map fun c =>
      let live (i : Nat) : Bool := (List.range 128).any fun j => !skip i (128 * c + j)
      Out.concat (((List.range n).filter live).map fun i =>
        let row := (List.range 128).map fun j => elem i (128 * c + j)
        let cv := (chunks 32 row).map (convKept t key)
        let bad := row.any fun p => p.1.bad
        let body := outBytes (sub c + i * 128 * f.bits / 8) (packBits f.bits (cv.flatMap fun p => p.1)) bad
        let sc := if f.mx then Out.concat ((List.range 4).map fun b =>
            scaleCell (sub c + subScaleOff t.fmt 128 + 4 * i + b) (cv.getD b ([], 0, Stats.empty, false)) bad)
          else Out.empty
        (body.join sc).join ⟨[], [], cv.foldl (fun st p => st.join p.2.2.1) Stats.empty⟩))

/-! ## The assay and AMAX_PEND (R47 to R49) -/

/-- Index of a counter set: store/train, store/eval, save/train, save/eval (R308). -/
def assayKey (tid set : Nat) : Nat := tid * 4 + set

def assaySet (s : State) (x tid set : Nat) : Counters := smGet Counters.reset (ctx s x).assay (assayKey tid set)

def Counters.add (c : Counters) (st : Stats) : Counters :=
  ⟨satAdd c.total st.total 48, satAdd c.sat st.sat 48, satAdd c.ufl st.ufl 48, satAdd c.nonfin st.nonfin 48⟩

/-- AMAX_PEND of an entry. -/
def amaxPend (s : State) (x tid : Nat) : Fv := ofBits32 (readLe s (entryAddr s x tid + 8) 4)

/-- Conversions into a tensor count in the assay set of their slot and phase and raise AMAX_PEND; those of the
train-phase store set count toward the step's share of saturation (R47 to R49). -/
def countStats (s : State) (x : Nat) (t : Tensor) (eval : Bool) (st : Stats) : State :=
  let tid := t.tid
  let set := (if t.saveSet s x then 2 else 0) + (if eval then 1 else 0)
  let s := modCtx s x fun c =>
    let since := smGet (0, 0) c.since tid
    { c with
      assay := smSet Counters.reset c.assay (assayKey tid set) ((smGet Counters.reset c.assay (assayKey tid set)).add st)
      since := if set ≠ 0 then c.since
        else smSet (0, 0) c.since tid (satAdd since.1 st.total 48, satAdd since.2 st.sat 48) }
  match st.amax with
  | none => s
  | some a =>
    let s := modCtx s x fun c => { c with raised := smSet false c.raised tid true }
    if flt (amaxPend s x tid) a then storeBytes s (entryAddr s x tid + 8) (leBytes 4 (bits32 a)) else s

/-- The marks of results that have been written: a non-finite value, a poisoned one (R94, R186, R214). -/
def landMarks (s : State) (x tag : Nat) (eval : Bool) (o : Out) : State :=
  let s := if o.stats.wrote && !eval then mark s x markNonfin tag else s
  if !o.bad.isEmpty && !eval then mark s x markPoison tag else s

/-- A command's results land: they are stored, and a train-phase command that writes a non-finite or a poisoned
value marks the step record (R94, R184, R186). Answers the state, whether a poisoned result was written, and
whether a frame was exhausted (R403). -/
def landOut (s : State) (x tag : Nat) (eval : Bool) (o : Out) : State × Bool × Bool :=
  let (s, ex) := storeCells s o.cells o.bad
  (landMarks s x tag eval o, !o.bad.isEmpty, ex)

/-- `landOut` of results converted into a tensor, which are counted. -/
def landTensor (s : State) (x tag : Nat) (eval : Bool) (t : Tensor) (o : Out) : State × Bool × Bool :=
  let r := landOut s x tag eval o
  (countStats r.1 x t eval o.stats, r.2)

/-- The code of a command whose work ended: KEY_EXHAUSTED ends it, POISON_IN lets it run on (R10, R186, R403). -/
def workStatus (poisoned exhausted : Bool) : Nat :=
  if exhausted then stKeyExhausted else if poisoned then stPoisonIn else stOk

end Sys2Proof.Machine
end

