-- ==== Sys2Proof/Machine/Operands.lean ====
section
/-! DEFINITION. Extents and their checks, stream records, and the plan of a command: the violations its checks
find and the extents it reads and writes (R10, R148, R172 to R176). -/

namespace Sys2Proof.Machine

/-! ## Extents -/

/-- The bytes lo to hi, inclusive; `base` picks the bounds window (R176); `write` says that the command writes it. Where
the extent only bounds what is touched, `runs` lists the runs of bytes that are: address and length. -/
structure Ext where
  lo    : Int
  hi    : Int
  base  : Nat
  write : Bool
  runs  : List (Nat × Nat)
deriving DecidableEq, Repr

/-- `len` bytes from an address. -/
def ext (write : Bool) (a len : Nat) : Ext := ⟨a, (a : Int) + len - 1, a, write, []⟩

def Ext.empty (e : Ext) : Bool := decide (e.hi < e.lo)

def Ext.len (e : Ext) : Nat := (e.hi - e.lo + 1).toNat

/-- The runs of bytes that the extent stands for. -/
def Ext.pieces (e : Ext) : List (Nat × Nat) :=
  if e.empty || decide (e.lo < 0) then [] else if e.runs.isEmpty then [(e.lo.toNat, e.len)] else e.runs

/-- Two extents share a byte. -/
def Ext.meets (a b : Ext) : Bool :=
  !a.empty && !b.empty && decide (a.lo ≤ b.hi) && decide (b.lo ≤ a.hi)

/-- The extent at the local addresses that it resolves to (R140, R178). -/
def Ext.resolved (s : State) (e : Ext) : Ext :=
  if 0 ≤ e.lo then
    let a := resolve s e.lo.toNat
    ⟨a, (a : Int) + e.hi - e.lo, a, e.write, []⟩
  else e

/-! ## Bounds (R138, R159, R176, R476) -/

/-- Base and length in bytes of a bounds window. -/
def windowOf (s : State) (x w : Nat) : Nat × Nat := (rf s (.ctxCxWinBase x w) 0 48, rf s (.ctxCxWinSize x w) 0 32 * slabBytes)

/-- The extent lies in the single bounds window of the context that holds its base (R176). -/
def inWindow (s : State) (x : Nat) (e : Ext) : Bool :=
  (List.range 16).any fun w =>
    let p := windowOf s x w
    decide (p.1 ≤ e.base) && decide (e.base < p.1 + p.2) && decide ((p.1 : Int) ≤ e.lo) && decide (e.hi < (p.1 + p.2 : Nat))

/-- The scale tables: the context's own, and those of the other enabled contexts (R46, R176). -/
def scaleTables (s : State) (x : Nat) : List Ext :=
  ((List.range 64).filter fun y => y == x || ctxEnabled s y).map fun y => ext false (rf s (.ctxCxScale y) 0 48) 131072

/-- Extents that no stream may touch: device-owned hub SRAM, the cache portion of region SRAM, the SRAM of
retired regions, every scale table and key-value pool, and packages that are being loaded (R46, R125, R139, R159, R176,
R244, R362, R397). -/
def closedExtents (s : State) (x : Nat) : List Ext :=
  [ext false 0x20000000 0x1800000, ext false 0x24000000 0x1000000]
    ++ scaleTables s x
    ++ (List.range 32).flatMap (fun r =>
        ext false (0x40000000 + r * 0x2000000 + addressedBytes s) (0x2000000 - addressedBytes s) ::
          (if regionPresent s r then []
           else [ext false (r * 0x1000000) 0x1000000, ext false (0x40000000 + r * 0x2000000) 0x2000000]))
    ++ s.ctxs.flatMap (fun c => c.2.pools.flatMap fun p => [ext false p.hbm p.hbmLen, ext false p.ddr p.ddrLen])
    ++ s.ctxs.flatMap fun c => c.2.loading.map fun q => ext false q.2.2.1 q.2.2.2

/-- Bytes of a registered program image (R304). -/
def Prog.bytes (p : Prog) : Nat := 64 + p.count * 64

/-- Read-only extents: registered program images and frozen packages (R304, R397). -/
def readOnlyExtents (s : State) : List Ext :=
  (s.ctxs.flatMap fun c => c.2.progs.filterMap fun p => p.2.map fun p => ext false p.addr p.bytes)
    ++ (s.packages.filterMap Prod.snd).filterMap fun p => if p.frozen then some (ext false p.addr p.len) else none

/-- Snapshot areas of all contexts (R369). -/
def snapAreas (s : State) : List Ext :=
  (List.range 64).filterMap fun x =>
    let n := rf s (.fltCxSnapSize x) 0 32
    if n = 0 then none else some (ext false (rf s (.fltCxSnapArea x) 0 48) (n * pageBytes))

/-- The extent lies within one populated range (R138, R140, R262). -/
def populated (s : State) (e : Ext) : Bool :=
  if e.lo < 0 ∨ (2 : Int) ^ 48 ≤ e.hi then false
  else
    let lo := e.lo.toNat
    let hi := e.hi.toNat
    match rngOf lo with
    | none => false
    | some (.peer p) =>
      rngOf hi == some (.peer p)
        && (match windowAddr (lo % 2 ^ 40), windowAddr (hi % 2 ^ 40) with
            | some a, some b => b == a + (hi - lo) && (p == ownPkg s || (rngOf a).isSome && rngOf a == rngOf b)
            | _, _ => false)
        && (if p = ownPkg s then
              (match windowAddr (lo % 2 ^ 40), windowAddr (hi % 2 ^ 40) with
               | some a, some b => (rngOf a).isSome && rngOf a == rngOf b
               | _, _ => false)
            else routeMask s p != 0)
    | some r => rngOf hi == some r

/-- BOUNDS of one extent (R138, R176, R304, R397). -/
def extentOutside (s : State) (x : Nat) (e : Ext) : Bool :=
  if e.empty then false
  else
    let r := e.resolved s
    !populated s e || !inWindow s x e || (closedExtents s x).any r.meets || (snapAreas s).any r.meets
      || (e.write && (readOnlyExtents s).any r.meets)

/-- The pages that the written extents must have backed (R148). -/
def writePages (s : State) (es : List Ext) : List Nat :=
  dedup ((es.filter fun e => e.write).flatMap fun e => e.pieces.flatMap fun p => pagesOf s p.1 p.2)

/-- The extent lies in the scratch of a cluster of the executing region, whichever name it goes by (R139, R140). -/
def inScratch (s : State) (d : Desc) (c : Nat) (e : Ext) : Bool :=
  let r := e.resolved s
  let b : Int := ((8 * d.region + c) * 0x200000 : Nat)
  decide (b ≤ r.lo) && decide (r.hi < b + 0x200000)

/-- The extent lies in the executing cluster's scratch (R139). -/
def inScratchOf (s : State) (d : Desc) (e : Ext) : Bool := inScratch s d d.cluster e

/-- The extent lies in the SRAM of the executing region (R139, R140). -/
def inRegionOf (s : State) (d : Desc) (e : Ext) : Bool :=
  let r := e.resolved s
  let b : Int := (0x40000000 + d.region * 0x2000000 : Nat)
  decide (b ≤ r.lo) && decide (r.hi < b + 0x2000000)

/-- The executing cluster's scratch or its region's SRAM (R102, R112). -/
def inClusterStores (s : State) (d : Desc) (e : Ext) : Bool := e.empty || inScratchOf s d e || inRegionOf s d e

/-! ## Plans -/

/-- What a command's checks find before any work starts, and the extents it touches. -/
structure Plan where
  viol : List Nat
  exts : List Ext
deriving DecidableEq, Repr

def Plan.join (a b : Plan) : Plan := ⟨a.viol ++ b.viol, a.exts ++ b.exts⟩

/-- A plan of violations alone. -/
def planV (v : List Nat) : Plan := ⟨v, []⟩

/-- The first violation of a command in the order of R10: BAD_DESC, UNSUPPORTED, BOUNDS, QUOTA. -/
def planFails (s : State) (x : Nat) (p : Plan) : Option Nat :=
  match chooseViolation (p.viol ++ whenV (p.exts.any (extentOutside s x)) stBounds) with
  | some v => some v
  | none => if (backPages s x (writePages s p.exts)).isNone then some stQuota else none

/-- Back the pages of a plan's written extents; unchanged where R148 refuses, which `planFails` has reported. -/
def backPlan (s : State) (x : Nat) (p : Plan) : State := (backPages s x (writePages s p.exts)).getD s

/-! ## Streams (R172 to R175) -/

structure Strm where
  base    : Nat
  fmt     : Nat
  dims    : Nat
  counts  : List Nat
  strides : List Int
deriving DecidableEq, Repr

/-- Bytes of a stream's unit (R173). -/
def unitBytes (fmt : Nat) : Nat :=
  match fmt with
  | 0 => 4
  | 1 | 2 => 2
  | 3 | 4 | 10 => 1
  | _ => 64

/-- The 512 bits of a record at an address; a record in another package's window is what the peer answers, a free value
(DESIGN CHOICE, log entry 1). -/
def recordBits (s : State) (a : Nat) : Nat :=
  if isRemote s a then leNat ((List.range 64).map fun i => Config.peerByte s.free (a + i)) else readLe s a 64

def streamOf (n : Nat) : Strm :=
  let k := bitsAt n 52 3
  { base := bitsAt n 0 48, fmt := bitsAt n 48 4, dims := k
    counts := (List.range (min k 5)).map fun i => bitsAt n (64 + 16 * i) 16
    strides := (List.range (min k 5)).map fun i => signed (bitsAt n (144 + 32 * i) 32) 32 }

/-- The reserved bits of a record are 0: its gaps, and COUNT and STRIDE at or above DIMS (R172). -/
def streamReservedOk (n : Nat) : Bool :=
  let k := bitsAt n 52 3
  bitsAt n 55 9 == 0 && bitsAt n 304 208 == 0
    && (List.range 5).all fun i => decide (i < k) || (bitsAt n (64 + 16 * i) 16 == 0 && bitsAt n (144 + 32 * i) 32 == 0)

def Strm.empty (t : Strm) : Bool := t.counts.contains 0

/-- Units of a stream. -/
def Strm.total (t : Strm) : Nat := t.counts.foldl (· * ·) 1

/-- The addresses of a stream's units, dimension 0 innermost (R174). -/
def unitAddrs : List (Nat × Int) → Int → List Int
  | [], a => [a]
  | (n, st) :: ds, a => (List.range n).flatMap fun (i : Nat) => unitAddrs ds (a + (i : Int) * st)

def Strm.addrs (t : Strm) : List Nat :=
  (unitAddrs (t.counts.zip t.strides).reverse t.base).map Int.toNat

/-- Join runs of bytes that follow one another. -/
def joinRuns : List (Nat × Nat) → List (Nat × Nat)
  | [] => []
  | (a, n) :: ps =>
    match joinRuns ps with
    | (b, m) :: rs => if b = a + n then (a, n + m) :: rs else (a, n) :: (b, m) :: rs
    | [] => [(a, n)]

/-- The runs of bytes that a stream visits. -/
def Strm.runs (t : Strm) : List (Nat × Nat) := joinRuns (t.addrs.map fun a => (a, unitBytes t.fmt))

/-- The extent of a stream (R175). -/
def Strm.extent (t : Strm) (write : Bool) : Ext :=
  if t.empty then ⟨0, -1, t.base, write, []⟩
  else
    let span := (t.counts.zip t.strides).map fun p => ((p.1 : Int) - 1) * p.2
    { lo := (t.base : Int) + (span.map (min 0)).foldl (· + ·) 0
      hi := (t.base : Int) + (span.map (max 0)).foldl (· + ·) 0 + unitBytes t.fmt - 1
      base := t.base, write := write, runs := t.runs }

/-- The checks of one record (R176): the plan, and the stream when it may be read. A reserved format has no unit, so
nothing is judged by one. -/
def planStream (s : State) (x a : Nat) (write : Bool) : Plan × Option Strm :=
  if a % 64 ≠ 0 then (planV [stBadDesc], none)
  else if extentOutside s x (ext false a 64) then (planV [stBounds], none)
  else
    let n := recordBits s a
    let t := streamOf n
    let u : Int := unitBytes t.fmt
    let known := decide (t.fmt < 0xC)
    let bad := t.dims == 0 || decide (5 < t.dims) || !streamReservedOk n
      || known && (t.base % unitBytes t.fmt != 0 || t.strides.any fun st => st % u != 0)
    (⟨whenV bad stBadDesc ++ whenV (!known) stUnsupported,
      if bad || !known then [ext false a 64] else [ext false a 64, t.extent write]⟩, some t)

/-- Bytes of host memory are read, in requests of Max Read Request Size (R141, R288). -/
def hostReads (s : State) (a len : Nat) : State :=
  let m := max 1 s.pcie.maxRead
  (List.range (ceilDiv len m)).foldl (fun s i => emit s (.hostRead (a - hostBase + m * i) (min m (len - m * i)))) s

/-- One run of bytes is read: traffic of its pages, and requests when it lies in host memory (R141, R150). -/
def touchRun (s : State) (p : Nat × Nat) : State :=
  let s := touchExtent s p.1 p.2
  if rngOf p.1 == some .host then hostReads s p.1 p.2 else s

/-- What a plan reads takes part in traffic (R150); written extents are counted as they are stored. -/
def touchReads (s : State) (p : Plan) : State :=
  ((p.exts.filter fun e => !e.write).flatMap Ext.pieces).foldl touchRun s

end Sys2Proof.Machine
end

