-- ==== Sys2Proof/Machine/Ragged.lean ====
section
/-! DEFINITION. Ragged tables (R118, R119). -/

namespace Sys2Proof.Machine

/-- An entry of a ragged table (R118). -/
structure RagEntry where
  start    : Nat
  len      : Nat
  adapter  : Nat
  cachePos : Nat
  pageRec  : Nat
  adpV     : Bool
  mask     : Nat
  join     : Bool
  leave    : Bool
  deferred : Bool
  failed   : Bool
  deadline : Nat
  maskArg  : Nat
  reserved : Bool
deriving DecidableEq, Repr

/-- Bytes of a table of `n` sequences. -/
def ragBytes (n : Nat) : Nat := 64 + 32 * n

def ragCount (s : State) (a : Nat) : Nat := bitsAt (readLe s a 64) 0 13
def ragTokens (s : State) (a : Nat) : Nat := bitsAt (readLe s a 64) 16 24
def ragNext (s : State) (a : Nat) : Nat := bitsAt (readLe s a 64) 64 48

/-- The reserved bits of a header are 0. -/
def ragHeaderOk (s : State) (a : Nat) : Bool :=
  let n := readLe s a 64
  bitsAt n 13 3 == 0 && bitsAt n 40 24 == 0 && bitsAt n 112 400 == 0

def ragEntryAddr (a i : Nat) : Nat := a + 64 + 32 * i

def ragEntryOf (n : Nat) : RagEntry where
  start := bitsAt n 0 24
  len := bitsAt n 24 24
  adapter := bitsAt n 48 16
  cachePos := bitsAt n 64 32
  pageRec := bitsAt n 96 48
  adpV := n.testBit 144
  mask := bitsAt n 145 2
  join := n.testBit 147
  leave := n.testBit 148
  deferred := n.testBit 149
  failed := n.testBit 150
  deadline := bitsAt n 160 48
  maskArg := bitsAt n 208 24
  reserved := bitsAt n 151 9 != 0 || bitsAt n 232 24 != 0

def ragEntry (s : State) (a i : Nat) : RagEntry := ragEntryOf (readLe s (ragEntryAddr a i) 32)

def ragEntries (s : State) (a : Nat) : List RagEntry := (List.range (ragCount s a)).map (ragEntry s a)

/-- The entries of the current table that generate work: not DEFERRED and not FAILED (R119). -/
def liveEntries (s : State) (x : Nat) : List RagEntry :=
  match (ctx s x).ragged with
  | none => []
  | some a => (ragEntries s a).filter fun e => !e.deferred && !e.failed

/-- The live entry that covers a token index. -/
def entryOfToken (s : State) (x tok : Nat) : Option RagEntry :=
  (liveEntries s x).find? fun e => decide (e.start ≤ tok) && decide (tok < e.start + e.len)

/-- The adapter of a token (R73, R95). -/
def adapterOf (s : State) (x tok : Nat) : Option Nat :=
  (entryOfToken s x tok).bind fun e => if e.adpV then some e.adapter else none

end Sys2Proof.Machine
end

