-- ==== Sys2Proof/Machine/Saved.lean ====
section
/-! DEFINITION. Saved activations under zero-run coding: the coder and decoder of a slab, the flag area, and what the
feeder sees of a coded operand (R51, R52). -/

namespace Sys2Proof.Machine

/-! ## Layout -/

/-- Where elements and block scales lie in an operand: `units` equal parts of `unit` bytes, each with `elems` elements
of `bits` bits from its start and `scales` scale bytes from `scaleOff`. -/
structure SavedLay where
  bits     : Nat
  units    : Nat
  unit     : Nat
  elems    : Nat
  scaleOff : Nat
  scales   : Nat
deriving DecidableEq, Repr

/-- The layout of `n` subtiles of 128 × 128 laid end to end (R142). -/
def tileLay (fmt n : Nat) : SavedLay :=
  let mx := (fmtInfo fmt).mx
  ⟨(fmtInfo fmt).bits, n, subtileBytes fmt 128, 16384, subScaleOff fmt 128, if mx then 512 else 0⟩

/-- The layout of a row-major tensor at an address (R102). -/
def rowLay (fmt a rows cols : Nat) : SavedLay :=
  let mx := (fmtInfo fmt).mx
  ⟨(fmtInfo fmt).bits, 1, rowBytes fmt a rows cols, rows * cols, rowScales fmt a rows cols - a,
    if mx then rows * ceilDiv cols 32 else 0⟩

def SavedLay.bytes (l : SavedLay) : Nat := l.units * l.unit

/-- Bit offsets of the elements that have a bit in bytes [lo, hi), in order. One that straddles the end of a slab is
coded in both slabs, so that each decodes alone (DESIGN CHOICE, log entry 131). -/
def SavedLay.elemsIn (l : SavedLay) (lo hi : Nat) : List Nat :=
  (List.range l.units).flatMap fun u => (List.range l.elems).filterMap fun k =>
    let b := u * l.unit * 8 + k * l.bits
    if b < 8 * hi ∧ 8 * lo < b + l.bits then some b else none

/-- Offsets of the block scales in bytes [lo, hi), in order. -/
def SavedLay.scalesIn (l : SavedLay) (lo hi : Nat) : List Nat :=
  (List.range l.units).flatMap fun u => (List.range l.scales).filterMap fun k =>
    let b := u * l.unit + l.scaleOff + k
    if lo ≤ b ∧ b < hi then some b else none

/-! ## The coder (R52) -/

/-- Cut the codes where zeros begin and end. -/
def zeroGroups : List Nat → List (Bool × List Nat)
  | [] => []
  | c :: cs =>
    match zeroGroups cs with
    | [] => [(c == 0, [c])]
    | (z, r) :: rest => if (c == 0) = z then (z, c :: r) :: rest else (c == 0, [c]) :: (z, r) :: rest

/-- The runs of a slab: each as long as it can be, at most 128 elements (R52; DESIGN CHOICE, log entry 131). -/
def zrcRuns (bits : Nat) (codes : List Nat) : List Byte :=
  (zeroGroups codes).flatMap fun g => (chunks 128 g.2).flatMap fun r =>
    if g.1 then [BitVec.ofNat 8 (128 + (r.length - 1))] else BitVec.ofNat 8 (r.length - 1) :: packBits bits r

/-- The elements that run bytes spell; the first argument bounds the number of runs. -/
def zrcDecode (bits : Nat) : Nat → List Byte → List Nat
  | 0, _ => []
  | _, [] => []
  | k + 1, h :: bs =>
    let n := h.toNat % 128 + 1
    if 128 ≤ h.toNat then List.replicate n 0 ++ zrcDecode bits k bs
    else
      let w := ceilDiv (n * bits) 8
      (List.range n).map (fun i => bitsAt (leNat (bs.take w)) (i * bits) bits) ++ zrcDecode bits k (bs.drop w)

/-- The coded form of bytes [lo, hi) of an operand, zeros to its end; none where it would not be smaller (R52). -/
def zrcSlab (l : SavedLay) (raw : Nat → Byte) (lo hi : Nat) : Option (List Byte) :=
  let scales := (l.scalesIn lo hi).map raw
  let bytes (a n : Nat) : List Byte := (List.range n).map fun i => raw (a + i)
  let runs := zrcRuns l.bits ((l.elemsIn lo hi).map fun b =>
    bitsAt (leNat (bytes (b / 8) (ceilDiv (b % 8 + l.bits) 8))) (b % 8) l.bits)
  let body := scales ++ leBytes 4 runs.length ++ runs
  if body.length < hi - lo then some (body ++ List.replicate (hi - lo - body.length) 0) else none

/-- The raw bytes [lo, hi) that a coded slab restores; bytes between elements and scales read 0. -/
def zrcRaw (l : SavedLay) (coded : List Byte) (lo hi : Nat) : List Byte :=
  let sc := l.scalesIn lo hi
  let n := leNat ((coded.drop sc.length).take 4)
  let codes := zrcDecode l.bits n ((coded.drop (sc.length + 4)).take n)
  let bits := ((l.elemsIn lo hi).zip codes).foldl (fun m p =>
    m + if 8 * lo ≤ p.1 then p.2 <<< (p.1 - 8 * lo) else p.2 >>> (8 * lo - p.1)) 0
  let scale := ((sc.zip coded).map fun p => p.2.toNat <<< (8 * (p.1 - lo))).foldl (· + ·) 0
  leBytes (hi - lo) (bits + scale)

/-! ## Operands -/

/-- The operand is coded: a saved activation with ZRC_EN = 1. -/
def Tensor.coded (t : Tensor) : Bool := t.kept && t.zrc

/-- Address of the flag area: the first 64-byte boundary after the operand (R52). -/
def flagArea (a len : Nat) : Nat := roundUp (a + len) 64

/-- Slabs of an operand, counted from its start. -/
def savedSlabs (len : Nat) : Nat := ceilDiv len 65536

/-- Bytes of an operand, the flag area of a coded one included (R52, R88). -/
def savedBytes (t : Tensor) (a len : Nat) : Nat :=
  if t.coded && len != 0 then flagArea a len + ceilDiv (savedSlabs len) 8 - a else len

/-- The state as a feeder sees it: coded slabs of the operand restored, a poisoned line in one poisoning all of it (R52, R185). -/
def savedView (s : State) (t : Tensor) (l : SavedLay) (a : Nat) : State :=
  if t.coded then
    (List.range (savedSlabs l.bytes)).foldl (fun v k =>
      let lo := k * 65536
      let hi := min l.bytes (lo + 65536)
      if (readByte s (flagArea a l.bytes + k / 8)).toNat.testBit (k % 8) then
        let w := pokeBytes v (a + lo) (zrcRaw l (readBytes s (a + lo) (hi - lo)) lo hi)
        if anyPoison s (a + lo) (hi - lo) then poisonExtent w (a + lo) (hi - lo) else w
      else v) s
  else s

/-- A command's results in a coded operand: every slab is coded or raw, and the flags say which (R52). Bytes of a slab
that the command does not write are those that the slab held. -/
def savedOut (s : State) (t : Tensor) (l : SavedLay) (a : Nat) (o : Out) : Out :=
  if t.coded then
    let v := savedView s t l a
    let raw (i : Nat) : Byte := match o.cells.find? fun c => c.1 == a + i with | some c => c.2 | none => readByte v (a + i)
    let n := savedSlabs l.bytes
    let slab (k : Nat) : Option (List Byte) × Nat × Nat :=
      let lo := k * 65536
      let hi := min l.bytes (lo + 65536)
      (zrcSlab l raw lo hi, lo, hi)
    let isBad (lo hi : Nat) : Bool := o.bad.any fun b => decide ((a + lo) / 64 ≤ b) && decide (b ≤ (a + hi - 1) / 64)
    let parts := (List.range n).map fun k =>
      let p := slab k
      match p.1 with
      | some bs => outBytes (a + p.2.1) bs (isBad p.2.1 p.2.2)
      | none => { outBytes (a + p.2.1) ((List.range (p.2.2 - p.2.1)).map fun i => raw (p.2.1 + i)) false with
                  bad := o.bad.filter fun b => decide ((a + p.2.1) / 64 ≤ b) && decide (b ≤ (a + p.2.2 - 1) / 64) }
    let flags := ((List.range n).map fun k => if (slab k).1.isSome then 2 ^ k else 0).foldl (· + ·) 0
    let outside := o.cells.filter fun c => decide (c.1 < a) || decide (a + l.bytes ≤ c.1)
    let all := Out.concat (parts ++ [outBytes (flagArea a l.bytes) (leBytes (ceilDiv n 8) flags) false])
    { cells := all.cells ++ outside, bad := dedup (all.bad ++ o.bad), stats := o.stats }
  else o

end Sys2Proof.Machine
end

