-- ==== Sys2Proof/Machine/Mma.lean ====
section
/-! DEFINITION. The MMA command: geometry, checks, slices and passes, the banks and the array's checks, results and
rank lanes (R29 to R37, R53 to R95, R98, R106, R185). -/

namespace Sys2Proof.Machine

/-! ## The descriptor (R85) -/

def mmaMode (d : Desc) : Nat := fld d.w2 0 2
def mmaXpose (d : Desc) : Bool := bitOf d.w2 2
def mmaActT (d : Desc) : Bool := bitOf d.w2 3
def mmaGang (d : Desc) : Nat := fld d.w2 4 2
def mmaShape (d : Desc) : Nat := fld d.w2 6 4
def mmaCplx (d : Desc) : Nat := fld d.w2 10 2
def mmaF16A (d : Desc) : Bool := bitOf d.w2 12
def mmaF16W (d : Desc) : Bool := bitOf d.w2 13
def mmaResMode (d : Desc) : Nat := fld d.w2 15 2
def mmaHeld (d : Desc) : Bool := bitOf d.w2 17
def mmaEpi (d : Desc) : Nat := fld d.w2 18 2
def mmaActTid (d : Desc) : Nat := fld d.w3 0 12
def mmaWtTid (d : Desc) : Nat := fld d.w3 12 12
def mmaResTid (d : Desc) : Nat := fld d.w3 24 12
def mmaRankTid (d : Desc) : Nat := fld d.w3 36 12
def mmaGroups (d : Desc) : Nat := fld d.w3 48 4
def mmaT (d : Desc) : Nat := fld d.w4 0 16
def mmaK (d : Desc) : Nat := fld d.w4 16 8
def mmaN (d : Desc) : Nat := fld d.w4 24 8
def mmaTok (d : Desc) : Nat := fld d.w4 32 24
def mmaAct (d : Desc) : Nat := fld d.w5 0 48
def mmaWt (d : Desc) : Nat := fld d.w6 0 48
def mmaRes (d : Desc) : Nat := fld d.w7 0 48

/-! ## Geometry (R53, R57, R68, R69, R88) -/

/-- The shape of a read: rows streamed per slot, input and output width, rows and columns of the stored tile,
products that one cube adds for an output (R36), and outputs that a cube column holds (R72). -/
structure MmaGeo where
  perSlot : Nat
  inW     : Nat
  outW    : Nat
  rows    : Nat
  cols    : Nat
  group   : Nat
  colOuts : Nat
deriving DecidableEq, Repr

/-- The geometry of a mode and direction; `e2m1` says that the weights are MXFP4 E2M1. -/
def mmaGeo (mode : Nat) (xpose e2m1 : Bool) : MmaGeo :=
  if mode = 2 then ⟨1, 64, 512, 64, 512, 2, 4⟩
  else
    let outs := (if mode = 0 then 2 else 4) * (if e2m1 then 2 else 1)
    let c := 64 * outs
    if xpose then ⟨if mode = 0 && !e2m1 then 2 else 1, c, 128, 128, c, outs, outs⟩
    else ⟨if mode = 0 then 2 else 1, 128, c, 128, c, 2, outs⟩

/-- Bytes of a stored tile of `r` rows and `c` columns (R142). -/
def tileBytes (fmt r c : Nat) : Nat := c / 128 * subtileBytes fmt r

/-- Everything the sizes of a command depend on. -/
structure MmaDims where
  geo   : MmaGeo
  afmt  : Nat
  wfmt  : Nat
  rfmt  : Nat
  /-- Token tiles or feature groups per block, and stored activation tiles in each. -/
  tiles : Nat
  per   : Nat
  cplx  : Bool
  /-- A forward adapter-tile command: it writes rank-lane rows alone (R241). -/
  adapt : Bool
deriving DecidableEq, Repr

/-- The format in which results are stored (R92). -/
def mmaResFmt (s : State) (x : Nat) (d : Desc) : Nat :=
  match mmaResMode d with
  | 0 => (tensorAt s x (mmaResTid d) (mmaRes d)).fmt
  | 1 => 0
  | _ => 1

/-- The stores that the gang requires hold the extent (R86); an own-window name counts as its home (R140). -/
def mmaStoreOk (s : State) (d : Desc) (c : Nat) (scratch region : Bool) (e : Ext) : Bool :=
  e.empty || (scratch && inScratch s d c e) || (region && inRegionOf s d e)

/-- The store of the weights: scratch for a cluster or an activation-broadcast gang, region SRAM otherwise (R86). -/
def mmaWtStoreOk (s : State) (d : Desc) (c : Nat) (e : Ext) : Bool :=
  mmaStoreOk s d c (mmaGang d == 0 || mmaGang d == 3) (mmaGang d == 1 || mmaGang d == 2) e

/-- The store of the activations (R86). -/
def mmaActStoreOk (s : State) (d : Desc) (c : Nat) (e : Ext) : Bool :=
  mmaStoreOk s d c (mmaGang d != 3) (mmaGang d == 3) e

/-- A 64-byte header at the front of an operand can be read. -/
def headerIn (s : State) (x : Nat) (ok : Ext → Bool) (a : Nat) : Bool :=
  ok (ext false a 64) && !extentOutside s x (ext false a 64)

/-- An adapter-tile command in a forward read: group 0 of its rank-lane header has FIRST = 0 (R241). -/
def mmaAdapter (s : State) (x : Nat) (d : Desc) : Bool :=
  mmaGroups d != 0 && !mmaXpose d && headerIn s x (mmaWtStoreOk s d d.cluster) (mmaWt d)
    && fld (readWord s (mmaWt d)) 16 9 == 0

def mmaDims (s : State) (x : Nat) (d : Desc) : MmaDims :=
  let w := (tensor s x (mmaWtTid d)).fmt
  let g := mmaGeo (mmaMode d) (mmaXpose d) (w == 9)
  { geo := g, afmt := (tensorAt s x (mmaActTid d) (mmaAct d)).fmt, wfmt := w, rfmt := mmaResFmt s x d
    tiles := ceilDiv (g.perSlot * mmaT d) 128
    per := if mmaActT d then ceilDiv g.inW 128 else max g.inW 128 / 128
    cplx := mmaCplx d != 0
    adapt := mmaAdapter s x d }

def MmaDims.actTile (m : MmaDims) : Nat := m.per * subtileBytes m.afmt 128
def MmaDims.actHalf (m : MmaDims) (d : Desc) : Nat := mmaK d * m.tiles * m.actTile
def MmaDims.wtTile (m : MmaDims) : Nat := tileBytes m.wfmt m.geo.rows m.geo.cols
def MmaDims.wtHalf (m : MmaDims) (d : Desc) : Nat := mmaK d * mmaN d * m.wtTile
def MmaDims.resTile (m : MmaDims) : Nat := tileBytes m.rfmt 128 m.geo.outW
def MmaDims.resHalf (m : MmaDims) (d : Desc) : Nat := if m.adapt then 0 else mmaN d * m.tiles * m.resTile
def MmaDims.twice (m : MmaDims) (n : Nat) : Nat := if m.cplx then 2 * n else n

/-- Bytes of a header at the front of an operand. -/
def headBytes (b : Bool) : Nat := if b then 64 else 0

/-- The tensors of the activations and of the results. -/
def mmaActTensor (s : State) (x : Nat) (d : Desc) : Tensor := tensorAt s x (mmaActTid d) (mmaAct d)
def mmaResTensor (s : State) (x : Nat) (d : Desc) : Tensor := tensorAt s x (mmaResTid d) (mmaRes d)

/-- Bytes of the activation operand, its ganged header and the flags of a coded one included (R52, R88, R91, R100). -/
def mmaActBytes (s : State) (x : Nat) (m : MmaDims) (d : Desc) : Nat :=
  let h := headBytes (mmaGang d != 0)
  sized m.afmt (h + savedBytes (mmaActTensor s x d) (mmaAct d + h) (m.twice (m.actHalf d)))

/-- Bytes of the weight operand, its rank-lane header included (R88, R91, R95). -/
def mmaWtBytes (m : MmaDims) (d : Desc) : Nat := sized m.wfmt (headBytes (mmaGroups d != 0) + m.twice (m.wtHalf d))

/-- The drain writes rank-lane rows: only a forward read has rank-lane outputs (R73). -/
def mmaRankOn (d : Desc) : Bool := mmaGroups d != 0 && !mmaXpose d

/-- Bytes of one member's results without rank-lane rows; the flags of a coded operand count (R52, R88). -/
def mmaMainBytes (s : State) (x : Nat) (m : MmaDims) (d : Desc) : Nat :=
  let n := m.twice (m.resHalf d)
  if mmaResMode d = 0 then savedBytes (mmaResTensor s x d) (mmaRes d) n else n

/-- Offset of the rank-lane rows: they start at the first 64-byte boundary after the result extent (R95). -/
def mmaRankOff (s : State) (x : Nat) (m : MmaDims) (d : Desc) : Nat :=
  roundUp (mmaRes d + mmaMainBytes s x m d) 64 - mmaRes d

/-- Rows that a pass streams at most. -/
def mmaRows (m : MmaDims) (d : Desc) : Nat := m.geo.perSlot * mmaT d

/-- Bytes of one member's results, its rank-lane rows included. -/
def mmaResBytes (s : State) (x : Nat) (m : MmaDims) (d : Desc) : Nat :=
  let k := (tensor s x (mmaRankTid d)).fmt
  sized m.rfmt (if mmaRankOn d then sized k (mmaRankOff s x m d + m.twice (rowBytes k 0 (mmaRows m d) 64))
    else mmaMainBytes s x m d)

/-! ## Members (R86, R332) -/

/-- The logical clusters that execute the command. -/
def mmaMembers (d : Desc) : List Nat :=
  match mmaGang d with
  | 0 => [d.cluster]
  | 1 => (List.range 4).map (d.cluster / 4 * 4 + ·)
  | _ => List.range 8

/-- Scratch addresses move with the member; an address in a shared store does not (R86). -/
def memberAddr (s : State) (a q : Nat) : Nat := if rngOf (resolve s a) = some .scratch then a + q * 0x200000 else a

/-- Member q's result address: its own scratch, or RES_ADDR + q × E in region SRAM (R86). -/
def memberRes (s : State) (x : Nat) (m : MmaDims) (d : Desc) (q : Nat) : Nat :=
  if rngOf (resolve s (mmaRes d)) = some .scratch then mmaRes d + q * 0x200000
  else mmaRes d + q * roundUp (mmaResBytes s x m d) 64

/-! ## Rank lanes (R72, R95) -/

/-- A rank-lane group: adapter, first output column, rank. -/
structure RankGroup where
  adapter : Nat
  first   : Nat
  width   : Nat
deriving DecidableEq, Repr

def rankGroupAt (s : State) (a i : Nat) : RankGroup :=
  let w := readWord s (a + 8 * i)
  ⟨fld w 0 16, fld w 16 9, fld w 25 7⟩

def rankGroups (s : State) (a n : Nat) : List RankGroup := (List.range n).map (rankGroupAt s a)

/-- One past the last column that a group takes. -/
def RankGroup.stop (g : RankGroup) (o : Nat) : Nat := g.first + roundUp g.width o

/-- The header is faulty (R72, R95). The layer's last used column is taken to lie west of the first group. -/
def rankFaulty (s : State) (a n : Nat) (g : MmaGeo) (tileCols : Nat) (shallow : Bool) : Bool :=
  let gs := rankGroups s a n
  let words := (List.range 8).map fun i => readWord s (a + 8 * i)
  let bad (k : RankGroup) : Bool := k.width % 2 == 1 || decide (k.width < 2) || decide (64 < k.width)
    || k.first % g.colOuts != 0 || decide (tileCols < k.stop g.colOuts)
    || (shallow && (k.first / 256 != (k.stop g.colOuts - 1) / 256))
  (words.drop n).any (· != 0) || words.any (fun w => fld w 32 32 != 0) || gs.any bad
    || (gs.zip gs.tail).any fun p => decide (p.2.first < p.1.stop g.colOuts)

/-! ## Checks (R27, R39, R69, R86, R100, R106) -/

/-- A ganged shape: number, gang, mode, T, K, N (R100). -/
def mmaShapes : List (Nat × Nat × Nat × Nat × Nat × Nat) :=
  [(1, 1, 0, 64, 8, 1), (2, 1, 0, 128, 8, 2), (3, 1, 0, 64, 8, 1), (4, 1, 0, 256, 4, 4), (5, 1, 0, 128, 4, 1),
   (6, 2, 0, 128, 8, 2), (7, 2, 0, 32, 8, 1), (8, 3, 1, 128, 4, 1), (9, 3, 2, 128, 1, 1)]

/-- The formats that a shape names: weights, and activations for the BF16 shape (R100). -/
def shapeFormats (n wfmt afmt : Nat) : Bool :=
  if n = 3 ∨ n = 4 ∨ n = 6 then wfmt == 9
  else if n = 5 then wfmt == 1 && afmt == 1
  else [3, 4, 5, 6].contains wfmt

def shapeViolations (d : Desc) (wfmt afmt : Nat) : List Nat :=
  if mmaGang d = 0 then []
  else if mmaShape d = 0 then []
  else match mmaShapes.find? fun p => p.1 == mmaShape d with
    | none => [stUnsupported]
    | some (_, g, mo, t, k, n) =>
      whenV (g != mmaGang d || mo != mmaMode d || t != mmaT d || k != mmaK d || n != mmaN d
        || !shapeFormats (mmaShape d) wfmt afmt) stBadDesc

/-- The violations that the descriptor and the scale-table entries show by themselves. -/
def mmaStatic (s : State) (x : Nat) (d : Desc) : List Nat :=
  let rm := mmaResMode d
  whenV (mmaMode d == 3 || mmaCplx d == 3 || rm == 3 || ((mmaShape d != 0) != (mmaGang d != 0))
      || (mmaHeld d && (!mmaXpose d || mmaK d != 1 || mmaN d != 1 || mmaGang d != 0))
      || (mmaGang d == 1 && d.cluster != 0 && d.cluster != 4) || (decide (2 ≤ mmaGang d) && d.cluster != 0)
      || ((rm == 1 || rm == 2) && rngOf (resolve s (mmaRes d)) != some .regionSram) || decide (8 < mmaGroups d)
      || (mmaAdapter s x d && mmaN d != 1)) stBadDesc
    ++ whenV (mmaMode d == 2 && mmaXpose d) stUnsupported
    ++ tidRead s x (mmaActTid d) ++ tidRead s x (mmaWtTid d)
    ++ (if rm = 1 || mmaAdapter s x d then [] else tidWrite s x (mmaResTid d))
    ++ (if mmaRankOn d then tidWrite s x (mmaRankTid d) else [])
    ++ shapeViolations d (tensor s x (mmaWtTid d)).fmt (tensor s x (mmaActTid d)).fmt

/-- A member's extents: activations, weights, results. -/
def memberExts (s : State) (x : Nat) (m : MmaDims) (d : Desc) (c : Nat) : List Ext :=
  let q := c - d.cluster
  [ext false (memberAddr s (mmaAct d) q) (mmaActBytes s x m d), ext false (memberAddr s (mmaWt d) q) (mmaWtBytes m d),
   ext true (memberRes s x m d q) (mmaResBytes s x m d)]

/-- Extents of one member outside the stores of its gang. -/
def memberStray (s : State) (x : Nat) (m : MmaDims) (d : Desc) (c : Nat) : Bool :=
  match memberExts s x m d c with
  | [a, w, r] => !mmaActStoreOk s d c a || !mmaWtStoreOk s d c w || !mmaStoreOk s d c (mmaResMode d == 0) true r
  | _ => false

/-- The header of a member's activations: its real slot count, the other bits zero (R100). R100 names no outcome for other
bits that are not zero; the model takes R5's for a descriptor, BAD_DESC, as for a count above T (DESIGN CHOICE, log entry
132). -/
def memberCountBad (s : State) (x : Nat) (d : Desc) (c : Nat) : Bool :=
  let a := memberAddr s (mmaAct d) (c - d.cluster)
  let n := readLe s a 64
  mmaGang d != 0 && headerIn s x (mmaActStoreOk s d c) a && (decide (mmaT d < n % 65536) || n / 65536 != 0)

/-- The rank-lane header of a member, where it can be read, is faulty (R72, R95). -/
def memberHeaderBad (s : State) (x : Nat) (m : MmaDims) (d : Desc) (c : Nat) : Bool :=
  let a := memberAddr s (mmaWt d) (c - d.cluster)
  mmaGroups d != 0 && headerIn s x (mmaWtStoreOk s d c) a
    && rankFaulty s a (mmaGroups d) m.geo (if mmaXpose d then m.geo.inW else m.geo.outW) (mmaMode d == 2)

/-- Some result extent meets some operand extent. -/
def mmaSelfOverlap (s : State) (es : List Ext) : Bool :=
  let rs := es.map (Ext.resolved s)
  rs.any fun r => r.write && rs.any fun a => !a.write && r.meets a

/-- MMA's checks. An UNSUPPORTED or a stray extent hides no BAD_DESC of another extent (R10); a command without work is judged by
its descriptor and its entries alone (R106). -/
def planMma (s : State) (x : Nat) (d : Desc) : Plan :=
  let st := mmaStatic s x d
  if st.contains stBadDesc || mmaT d == 0 || mmaK d == 0 || mmaN d == 0 then planV st
  else
    let m := mmaDims s x d
    let ms := mmaMembers d
    let es := ms.flatMap (memberExts s x m d)
    ⟨st ++ whenV (mmaSelfOverlap s es || ms.any (memberHeaderBad s x m d) || ms.any (memberCountBad s x d)) stBadDesc
      ++ whenV (ms.any (memberStray s x m d)) stBounds, es⟩

/-! ## Slices (R29, R32, R33) -/

/-- The 4-bit slices of a significand, least significant first, with the operand's sign. -/
def sigSlices (neg : Bool) (m : Nat) (e : Int) (n : Nat) : List Fv :=
  (List.range n).map fun (i : Nat) => .fin neg (bitsAt m (4 * i) 4) (e + 4 * (i : Int))

/-- How many slices a format has; `exact` is F16X (R30, R32). -/
def sliceCount (fmt : Nat) (exact : Bool) : Nat :=
  match fmt with
  | 0 => 6
  | 1 => 2
  | 2 => if exact then 3 else 2
  | 10 => 2
  | _ => 1

/-- FP16 in its fast precision: the significand rounded to 8 bits (R32). -/
def fastHalf : Fv → Fv
  | .fin n m e =>
    let q := roundShift .rne m 3
    if q = 256 then .fin n 128 (e + 4) else .fin n q (e + 3)
  | v => v

/-- The slices of an operand read in a format. A non-finite one has none (R37). -/
def slicesOf (fmt : Nat) (exact : Bool) (v : Fv) : List Fv :=
  match v with
  | .fin n m e =>
    if fmt = 10 then
      let k : Int := if n then -(m : Int) else m
      let hi := k / 16
      [.fin false (k % 16).toNat e, .fin (decide (hi < 0)) hi.natAbs (e + 4)]
    else if fmt = 2 && !exact then
      match fastHalf v with
      | .fin n m e => sigSlices n m e 2
      | _ => []
    else if sliceCount fmt exact = 1 then [.fin n m e]
    else sigSlices n m e (sliceCount fmt exact)
  | _ => []

/-- One operand of a pass: its whole value and its slices. -/
structure Operand where
  v  : Fv
  sl : List Fv
deriving DecidableEq, Repr

def operandOf (fmt : Nat) (exact : Bool) (v : Fv) : Operand := ⟨v, slicesOf fmt exact v⟩

/-! ## Passes (R34, R36, R37) -/

/-- The product of one slice pair; a non-finite operand enters the first pass alone, whole (R37). -/
def sliceProduct (i j : Nat) (a w : Operand) : Fv :=
  if a.v.isFinite && w.v.isFinite then exactMul (a.sl.getD i .zero) (w.sl.getD j .zero)
  else if i = 0 ∧ j = 0 then exactMul a.v w.v
  else .zero

/-- The sums of a column: each cube adds its products to the sum from the cube before, with one rounding (R36). -/
def cubeChain (group : Nat) : Nat → Option Fv → List Fv → Fv
  | 0, s, _ => s.getD .zero
  | n + 1, s, ps =>
    if ps.isEmpty then s.getD .zero
    else
      let here := ps.take group
      cubeChain group n (some (fsum (match s with | none => here | some v => v :: here))) (ps.drop group)

/-- One pass for one token and one output. -/
def passSum (group i j : Nat) (as ws : List Operand) : Fv :=
  cubeChain group as.length none ((as.zip ws).map fun p => sliceProduct i j p.1 p.2)

/-- What an operand contributes to one slice: its slice, or in the first pass a non-finite value whole (R37). -/
def sliceVal (first : Bool) (k : Nat) (o : Operand) : Fv :=
  if o.v.isFinite then o.sl.getD k .zero else if first then o.v else .zero

/-- The drain takes the first pass as it comes and adds the others in issue order (R36). -/
def drainFold : List Fv → Fv
  | [] => .zero
  | v :: vs => vs.foldl fadd v

/-! ## Operands in memory (R88, R91, R98) -/

/-- Where an activation lies: tile address, row and column of the stored tile. -/
def actAt (m : MmaDims) (actT : Bool) (base k i q : Nat) : Nat × Nat × Nat :=
  if actT then (base + ((k * m.tiles + i / 128) * m.per + q / 128) * subtileBytes m.afmt 128, q % 128, i % 128)
  else (base + (k * m.tiles + i / 128) * m.actTile, i % 128, q)

/-- Where a weight of tile (k, n) lies for input q and output j. -/
def wtAt (m : MmaDims) (d : Desc) (base k n q j : Nat) : Nat × Nat × Nat :=
  if mmaXpose d then (base + (k * mmaN d + n) * m.wtTile, j, q)
  else (base + (n * mmaK d + k) * m.wtTile, q, j)

/-- The block scale code of an element of a stored tile, 127 outside MX. -/
def tileScale (s : State) (t : Tensor) (a r i j : Nat) : Nat :=
  if (fmtInfo t.fmt).mx then
    (readByte s (a + j / 128 * subtileBytes t.fmt r + subScaleOff t.fmt r + subScaleIdx t.cls i (j % 128))).toNat
  else 127

/-- The sum of two elements rounded to their format, to nearest even with saturation (R35); in an MX format under
the larger of the two block scales (DEDUCED, log entry 21). -/
def sumInFormat (t : Tensor) (ca cb : Nat) (minus : Bool) (a b : Fv) : Fv :=
  let f := fmtInfo t.fmt
  match exactSum [a, if minus then b.neg else b] with
  | .fin n k e =>
    let c := max ca cb
    let y := Fv.fin n k (e - t.e - (if f.mx then (c : Int) - 127 else 0))
    let r := convElem f false .rne (.fin n k e) y
    scaled f t.e c (decodeElem f r.1)
  | v => v

/-- Which operand half a component streams or loads. -/
inductive Part where
  | re | im | sum | diff
deriving DecidableEq, Repr

/-- An element of a complex or real operand from its real and imaginary halves: value and poison. `diff` is
imaginary less real, the d − c of R91. -/
def partElem (t : Tensor) (p : Part) (re im : Unit → (Fv × Bool) × Nat) : Fv × Bool :=
  match p with
  | .re => (re ()).1
  | .im => (im ()).1
  | .sum =>
    let a := re (); let b := im ()
    (sumInFormat t a.2 b.2 false a.1.1 b.1.1, a.1.2 || b.1.2)
  | .diff =>
    let a := re (); let b := im ()
    (sumInFormat t b.2 a.2 true b.1.1 a.1.1, a.1.2 || b.1.2)

/-- A component of R91: what is streamed, what is loaded, and whether its sums are subtracted from the real and from the
imaginary accumulator, none where they do not enter it. -/
structure Component where
  act : Part
  wt  : Part
  re  : Option Bool
  im  : Option Bool
deriving DecidableEq, Repr

/-- The components of a command in their order (R91). -/
def components : Nat → List Component
  | 0 => [⟨.re, .re, some false, none⟩]
  | 1 => [⟨.re, .re, some false, none⟩, ⟨.im, .re, none, some false⟩, ⟨.re, .im, none, some false⟩, ⟨.im, .im, some true, none⟩]
  | _ => [⟨.sum, .re, some false, some false⟩, ⟨.re, .diff, none, some false⟩, ⟨.im, .sum, some true, none⟩]

/-! ## One member -/

/-- What one member reads and writes: logical cluster, operand addresses past their headers, result address, real
rows, rank-lane groups. -/
structure Member where
  cluster : Nat
  act     : Nat
  wt      : Nat
  res     : Nat
  rows    : Nat
  groups  : List RankGroup
deriving DecidableEq, Repr

def memberOf (s : State) (x : Nat) (d : Desc) (c : Nat) : Member :=
  let m := mmaDims s x d
  let q := c - d.cluster
  let a := memberAddr s (mmaAct d) q
  let w := memberAddr s (mmaWt d) q
  { cluster := c
    act := a + headBytes (mmaGang d != 0)
    wt := w + headBytes (mmaGroups d != 0)
    res := memberRes s x m d q
    rows := m.geo.perSlot * (if mmaGang d = 0 then mmaT d else readLe s a 2)
    groups := rankGroups s w (mmaGroups d) }

/-- The group of a token, by the adapter that the ragged table gives it (R73, R95). Row i of every member of a gang stands for
the token TOK_BASE + i: R95 gives TOK_BASE for the command alone and no offset for a member (DESIGN CHOICE, log entry 72). -/
def groupOf (s : State) (x : Nat) (d : Desc) (gs : List RankGroup) (i : Nat) : Option RankGroup :=
  (adapterOf s x (mmaTok d + i)).bind fun a => gs.find? fun g => g.adapter == a

/-- The column belongs to some group, padding columns included. -/
def inGroups (o : Nat) (gs : List RankGroup) (j : Nat) : Bool :=
  gs.any fun g => decide (g.first ≤ j) && decide (j < g.stop o)

/-- The feeder forces to zero the inputs of a transposed read in groups that are not the token's own (R73). -/
def foreignInput (s : State) (x : Nat) (d : Desc) (m : MmaDims) (mb : Member) (k i q : Nat) : Bool :=
  mmaXpose d && k + 1 == mmaK d && inGroups m.geo.colOuts mb.groups q
    && (match groupOf s x d mb.groups i with
        | none => true
        | some g => !(decide (g.first ≤ q) && decide (q < g.stop m.geo.colOuts)))

/-- The activations as the feeder reads them: a coded operand is restored (R52). -/
def actView (s : State) (x : Nat) (d : Desc) (m : MmaDims) (mb : Member) : State :=
  savedView s (mmaActTensor s x d) (tileLay m.afmt (m.twice (mmaK d * m.tiles * m.per))) mb.act

/-- The activations of row i in block k under one component. Their MX blocks run along the features whatever the class of
their tensor (R88). -/
def actRow (s : State) (x : Nat) (d : Desc) (m : MmaDims) (mb : Member) (p : Part) (k i : Nat) : List (Fv × Bool) :=
  let t := { mmaActTensor s x d with band := false }
  let v := actView s x d m mb
  (List.range m.geo.inW).map fun q =>
    if foreignInput s x d m mb k i q then (.zero, false)
    else
      let half (b : Nat) (_ : Unit) : (Fv × Bool) × Nat :=
        let l := actAt m (mmaActT d) b k i q
        (tileElem v t l.1 128 l.2.1 l.2.2, tileScale v t l.1 128 l.2.1 l.2.2)
      partElem t p (half mb.act) (half (mb.act + m.actHalf d))

/-- The weight of tile (k, n) for input q and output j under one component, as it stands in memory. -/
def wtElem (s : State) (x : Nat) (d : Desc) (m : MmaDims) (mb : Member) (p : Part) (k n q j : Nat) : Fv × Bool :=
  let t := tensor s x (mmaWtTid d)
  let half (b : Nat) (_ : Unit) : (Fv × Bool) × Nat :=
    let l := wtAt m d b k n q j
    (tileElem s t l.1 m.geo.rows l.2.1 l.2.2, tileScale s t l.1 m.geo.rows l.2.1 l.2.2)
  partElem t p (half mb.wt) (half (mb.wt + m.wtHalf d))

/-- Any line of the weight tile (k, n) is poisoned (R185). -/
def wtTilePoison (s : State) (d : Desc) (m : MmaDims) (mb : Member) (k n : Nat) : Bool :=
  let at' (b : Nat) := (wtAt m d b k n 0 0).1
  anyPoison s (at' mb.wt) m.wtTile || (m.cplx && anyPoison s (at' (mb.wt + m.wtHalf d)) m.wtTile)

/-- Some value of row i in block k comes from a poisoned line (R185). -/
def actRowPoison (s : State) (x : Nat) (d : Desc) (m : MmaDims) (mb : Member) (k i : Nat) : Bool :=
  (actRow s x d m mb .re k i).any (·.2) || (m.cplx && (actRow s x d m mb .im k i).any (·.2))

/-- Some value of row i comes from a poisoned line (R185). -/
def actPoison (s : State) (x : Nat) (d : Desc) (m : MmaDims) (mb : Member) (i : Nat) : Bool :=
  (List.range (mmaK d)).any fun k => actRowPoison s x d m mb k i

/-! ## The order of passes (R34, R89, R90) -/

/-- A pass: output tile, input tile, component, weight and activation slice, and the rows of its chunk. -/
structure Pass where
  n    : Nat
  k    : Nat
  comp : Component
  wsl  : Nat
  asl  : Nat
  lo   : Nat
  len  : Nat
deriving DecidableEq, Repr

/-- Sums that a slot delivers (R90). -/
def slotSums (d : Desc) (wfmt : Nat) : Nat :=
  if mmaMode d = 2 then 512 else if wfmt = 9 then (if mmaXpose d then 128 else 512) else 256

def mmaActSlices (m : MmaDims) (d : Desc) : Nat := sliceCount m.afmt (mmaF16A d)
def mmaWtSlices (m : MmaDims) (d : Desc) : Nat := sliceCount m.wfmt (mmaF16W d)

/-- Passes of one output tile for one chunk. -/
def tilePasses (m : MmaDims) (d : Desc) : Nat :=
  mmaK d * (components (mmaCplx d)).length * mmaWtSlices m d * mmaActSlices m d

/-- Slots of a chunk: all of them when an output tile takes one pass (R90). -/
def chunkSlots (m : MmaDims) (d : Desc) : Nat :=
  if tilePasses m d = 1 then mmaT d else 131072 / slotSums d m.wfmt / (if m.cplx then 2 else 1)

/-- The passes of a command in R89's order. -/
def mmaPasses (m : MmaDims) (d : Desc) : List Pass :=
  (List.range (mmaN d)).flatMap fun n =>
    (List.range (ceilDiv (mmaT d) (chunkSlots m d))).flatMap fun c =>
      let lo := c * chunkSlots m d
      let len := min (chunkSlots m d) (mmaT d - lo)
      (List.range (mmaK d)).flatMap fun k =>
        (components (mmaCplx d)).flatMap fun cp =>
          (List.range (mmaWtSlices m d)).flatMap fun j =>
            (List.range (mmaActSlices m d)).map fun i =>
              ⟨n, k, cp, j, i, m.geo.perSlot * lo, m.geo.perSlot * len⟩

/-- Two passes use one fill: the same tile or slice, in the same chunk (R89). -/
def Pass.sameFill (a b : Pass) : Bool :=
  a.n == b.n && a.k == b.k && a.comp.wt == b.comp.wt && a.wsl == b.wsl && a.lo == b.lo

/-- The pass whose fill a pass runs on: the first of the passes before it that share its fill. -/
def fillOf (ps : List Pass) (i : Nat) : Nat :=
  ((List.range (i + 1)).reverse.takeWhile fun j =>
    match ps[j]?, ps[i]? with | some a, some b => a.sameFill b | _, _ => false).getLast?.getD i

/-! ## What an array holds (R53, R54, R74, R98) -/

/-- The array of a logical cluster. -/
def arrOf (s : State) (r c : Nat) : Option Nat := physCluster s r c

def arrSt (s : State) (p : Nat) : ArrSt := smGet ArrSt.reset s.arrays p

def setArr (s : State) (p : Nat) (a : ArrSt) : State := { s with arrays := smSet ArrSt.reset s.arrays p a }

/-- HELD uses the tile in the active bank (R98). -/
def heldHit (s : State) (x : Nat) (d : Desc) (m : MmaDims) (mb : Member) : Option Bank :=
  if mmaHeld d && mmaWtSlices m d == 1 then
    (arrOf s d.region mb.cluster).bind fun p =>
      (arrSt s p).active.bind fun h =>
        if h.whole && h.ctx = x && h.addr = mb.wt && h.tid = mmaWtTid d && h.mode = mmaMode d && h.fmt = m.wfmt then some h
        else none
  else none

/-- Place of a weight in the stored tile, from its input and output. -/
def storedAt2 (d : Desc) (q j : Nat) : Nat × Nat := if mmaXpose d then (j, q) else (q, j)

/-- A weight that a bank holds, under the tensor's exponent. -/
def bankWeight (b : Bank) (e : Int) (d : Desc) (q j : Nat) : Fv :=
  let l := storedAt2 d q j
  (b.weights.getD (l.1 * b.cols + l.2) .zero).scale e

/-- The cube and lane that hold a weight of the stored tile for a token lane: row, column, lane, place in the lane
(R31, R53). The lanes of a cube stand in the order token lane, input, output (DESIGN CHOICE, log entry 133). -/
def laneOf (mode o pp tok i j : Nat) : Nat × Nat × Nat × Nat :=
  let half := if mode = 2 then j / 256 else 0
  let j' := if mode = 2 then j % 256 else j
  let per := o / pp
  (i / 2 + 32 * half, j' / o, (if mode = 0 then 4 * tok else 0) + i % 2 * per + j' % o / pp, j' % pp)

/-- Outputs that a forward cube column holds, and weights in a lane (R53). -/
def cubeOuts (d : Desc) (wfmt : Nat) : Nat × Nat :=
  let pp := if wfmt = 9 ∧ mmaMode d ≠ 2 then 2 else 1
  ((if mmaMode d = 0 then 2 else 4) * pp, pp)

/-- The 14-bit image of a weight in a lane: sign, 9-bit exponent, 4-bit significand (R54, R76). The exponent is held with
an offset of 256, and 511 marks an infinity or a NaN (DESIGN CHOICE, log entry 133). -/
def laneImage : Fv → Nat
  | .fin n m e => (if n then 2 ^ 13 else 0) + unsigned (e + 256) 9 * 16 + m % 16
  | .inf n => (if n then 2 ^ 13 else 0) + 511 * 16
  | .nan => 511 * 16 + 1

/-- The weight that a 14-bit image spells. -/
def imageWeight (w : Nat) : Fv :=
  if bitsAt w 4 9 = 511 then (if w % 16 = 0 then .inf (w.testBit 13) else .nan)
  else .fin (w.testBit 13) (w % 16) ((bitsAt w 4 9 : Int) - 256)

/-! ## Passes with what goes wrong in them (R36, R74 to R78) -/

/-- What a member's passes meet: the array events of its cluster, and the passes that were retried, each with the first
row of its second attempt. -/
structure Feed where
  events  : List ArrEvent
  retries : List (Nat × Nat)
deriving DecidableEq, Repr

/-- The second attempt gave the row's sums in pass `i` (R78). -/
def Feed.again (f : Feed) (i row : Nat) : Bool := f.retries.any fun r => r.1 == i && decide (r.2 ≤ row)

/-- The load that filled the bank for an attempt at a pass: the pass of its fill, and whether a retry repeated it. -/
def Feed.load (f : Feed) (ps : List Pass) (i : Nat) (again : Bool) : Nat × Bool :=
  if again then (i, true)
  else match (f.retries.filter fun r => decide (r.1 < i) && fillOf ps r.1 == fillOf ps i).getLast? with
    | some r => (r.1, true)
    | none => (fillOf ps i, false)

/-- The word that an event leaves in a lane after a load. -/
def laneEvent (f : Feed) (ld : Nat × Bool) (r c k : Nat) : Option Nat :=
  f.events.findSome? fun e => match e with
    | .lane _ pass row col l again w =>
      if pass = ld.1 && again = ld.2 && row.val = r && col.val = c && l.val = k then some w.toNat else none
    | _ => none

/-- The sum that an event puts in place of the array's. -/
def outputEvent (f : Feed) (i row out : Nat) (again : Bool) : Option Fv :=
  f.events.findSome? fun e => match e with
    | .output _ pass rw o ag w =>
      if pass = i && rw = row && o = out && ag = again then some (ofBits32 w.toNat) else none
    | _ => none

/-- The held tile serves an attempt: until a retry has reloaded the tile from its source (R78, R98). -/
def heldFor (s : State) (x : Nat) (d : Desc) (m : MmaDims) (mb : Member) (f : Feed) (i : Nat) (again : Bool) : Option Bank :=
  if again || f.retries.any (fun r => decide (r.1 < i)) then none else heldHit s x d m mb

/-- The weight that the feeder sends for a pass, or that the bank holds: value with its exponents, before slicing. -/
def sentWeight (s : State) (x : Nat) (d : Desc) (m : MmaDims) (mb : Member) (held : Option Bank) (p : Pass) (q j : Nat) : Fv :=
  match held with
  | some b => bankWeight b (tensor s x (mmaWtTid d)).e d q j
  | none => (wtElem s x d m mb p.comp.wt p.k p.n q j).1

/-- A weight of a pass as the cubes multiply it, for one token lane: what was sent, or what an event has left there. -/
def passWeight (s : State) (x : Nat) (d : Desc) (m : MmaDims) (mb : Member) (f : Feed) (ps : List Pass) (i : Nat) (p : Pass)
    (again : Bool) (tok q j : Nat) : Operand :=
  let held := heldFor s x d m mb f i again
  let sent := operandOf m.wfmt (mmaF16W d) (sentWeight s x d m mb held p q j)
  if held.isSome then sent
  else
    let l := storedAt2 d q j
    let o := cubeOuts d m.wfmt
    let c := laneOf (mmaMode d) o.1 o.2 tok l.1 l.2
    match laneEvent f (f.load ps i again) c.1 c.2.1 c.2.2.1 with
    | none => sent
    | some w =>
      let v := (imageWeight (w >>> (14 * c.2.2.2))).scale (tensor s x (mmaWtTid d)).e
      ⟨v, List.replicate (mmaWtSlices m d) v⟩

/-- The token lane of a row (R53, R55). -/
def tokLane (m : MmaDims) (row : Nat) : Nat := row % m.geo.perSlot

/-- The operands of a pass that stream for a row. -/
def passActs (s : State) (x : Nat) (d : Desc) (m : MmaDims) (mb : Member) (p : Pass) (row : Nat) : List Operand :=
  (actRow s x d m mb p.comp.act p.k row).map fun v => operandOf m.afmt (mmaF16A d) v.1

/-- The sum that the array delivers for a row and an output in one attempt at a pass (R36). -/
def passOut (s : State) (x : Nat) (d : Desc) (m : MmaDims) (mb : Member) (f : Feed) (ps : List Pass) (i : Nat) (p : Pass)
    (again : Bool) (row j : Nat) : Fv :=
  match outputEvent f i row j again with
  | some v => v
  | none => passSum m.geo.group p.asl p.wsl (passActs s x d m mb p row)
      ((List.range m.geo.inW).map fun q => passWeight s x d m mb f ps i p again (tokLane m row) q j)

/-- The final sum of an accumulator for a row and an output of tile n (R34, R36, R78, R89, R91). -/
def finalSum (s : State) (x : Nat) (d : Desc) (m : MmaDims) (mb : Member) (f : Feed) (imag : Bool) (n row j : Nat) : Fv :=
  let ps := mmaPasses m d
  let sums := (List.range ps.length).filterMap fun i =>
    ps[i]?.bind fun p =>
      if p.n = n ∧ p.lo ≤ row ∧ row < p.lo + p.len then
        (if imag then p.comp.im else p.comp.re).map fun minus =>
          let v := passOut s x d m mb f ps i p (f.again i row) row j
          if minus then v.neg else v
      else none
  epilogue (mmaEpi d) (drainFold sums)

/-- Any weight that serves output tile n comes from a poisoned line; a held tile brings the marks that it had when it was
loaded (R185). -/
def wtPoison (s : State) (x : Nat) (d : Desc) (m : MmaDims) (mb : Member) (f : Feed) (n : Nat) : Bool :=
  match heldFor s x d m mb f 0 false with
  | some b => b.bad || (!f.retries.isEmpty && wtTilePoison s d m mb 0 n)
  | none => (List.range (mmaK d)).any fun k => wtTilePoison s d m mb k n

/-! ## Results (R92, R93, R95) -/

/-- The old code of an element of a result tile. -/
def oldCode (s : State) (fmt a i j : Nat) : Nat :=
  bitsIn s (a + j / 128 * subtileBytes fmt 128) ((i * 128 + j % 128) * (fmtInfo fmt).bits) (fmtInfo fmt).bits

/-- Accumulate-on-write of one element (R92, R167): its cells, poison and counts. -/
def accumulate (s : State) (t : Tensor) (key : Word) (mode pos a : Nat) (v : Fv × Bool) : Out :=
  let bad := v.2 || poisoned s a
  if mode = 1 then
    let r := fadd (ofBits32 (readLe s a 4)) v.1
    let o := outBytes a (leBytes 4 (bits32 r)) bad
    { o with stats := { Stats.empty with wrote := !r.isFinite } }
  else
    let r := fadd (round32 ((decodeElem (fmtInfo 1) (readLe s a 2)).scale t.e)) v.1
    let c := convBlock { t with fmt := 1 } key none [⟨r, bad, pos⟩]
    let o := outBytes a (leBytes 2 (c.1.getD 0 0)) bad
    { o with stats := c.2.2 }

/-- The results as the drain finds them: a coded operand restored (R52). -/
def resView (s : State) (x : Nat) (d : Desc) (m : MmaDims) (mb : Member) : State :=
  savedView s (mmaResTensor s x d) (tileLay m.rfmt (m.twice (mmaN d * m.tiles * (m.geo.outW / 128)))) mb.res

/-- The results of one half (real or imaginary) of one member. -/
def memberOut (s : State) (x : Nat) (d : Desc) (m : MmaDims) (mb : Member) (f : Feed) (imag : Bool) : Out :=
  let t := mmaResTensor s x d
  let key := srKey s x (mmaResTid d)
  let base := mb.res + (if imag then m.resHalf d else 0)
  let feats := m.twice (mmaN d * m.geo.outW)
  let f0 := if imag then mmaN d * m.geo.outW else 0
  Out.concat ((List.range (mmaN d)).map fun n =>
    let skip (j : Nat) : Bool := mmaRankOn d && n + 1 == mmaN d && inGroups m.geo.colOuts mb.groups j
    let wbad := wtPoison s x d m mb f n
    Out.concat ((List.range m.tiles).map fun tt =>
      let a := base + (n * m.tiles + tt) * m.resTile
      let rows := min 128 (mb.rows - 128 * tt)
      let val (i j : Nat) : Fv × Bool :=
        (finalSum s x d m mb f imag n (128 * tt + i) j, wbad || actPoison s x d m mb (128 * tt + i))
      if mmaResMode d = 0 then
        outTile t key a rows m.geo.outW (fun _ j => skip j) (oldCode (resView s x d m mb) m.rfmt a)
          (fun i j => (128 * tt + i) * feats + f0 + n * m.geo.outW + j) val
      else
        let w := (fmtInfo m.rfmt).bits / 8
        Out.concat ((List.range rows).flatMap fun i => (List.range m.geo.outW).filterMap fun j =>
          if skip j then none
          else
            let p := a + j / 128 * subtileBytes m.rfmt 128 + (i * 128 + j % 128) * w
            some (accumulate s t key (mmaResMode d) ((p - mb.res) / 2) p (val i j)))))

/-- The rank-lane rows of one half (R95). The imaginary rows follow the real ones in element_index too (R40). The rows of a
gang's member whose real count is below T end early, and their MX scales lie right after them, while the extent is sized
for T rows (DESIGN CHOICE, log entry 72). -/
def rankOut (s : State) (x : Nat) (d : Desc) (m : MmaDims) (mb : Member) (f : Feed) (imag : Bool) : Out :=
  let t := tensor s x (mmaRankTid d)
  let n := mmaN d - 1
  let a := mb.res + mmaRankOff s x m d + (if imag then rowBytes t.fmt 0 (mmaRows m d) 64 else 0)
  let i0 := if imag then mmaRows m d else 0
  let wbad := wtPoison s x d m mb f n
  outRows t (srKey s x (mmaRankTid d)) a mb.rows 64 (fun i j => (i0 + i) * 64 + j) fun i j =>
    match groupOf s x d mb.groups i with
    | none => (.zero, false)
    | some g =>
      if j < g.width then (finalSum s x d m mb f imag n i (g.first + j), wbad || actPoison s x d m mb i)
      else (.zero, wbad || actPoison s x d m mb i)

/-- Everything one member writes under RES_TID, a kept result coded (R52), and under RANK_TID. -/
def memberResults (s : State) (x : Nat) (d : Desc) (m : MmaDims) (mb : Member) (f : Feed) : Out × Out :=
  let both (g : Bool → Out) : Out := if m.cplx then (g false).join (g true) else g false
  let main := if m.adapt then Out.empty else both (memberOut s x d m mb f)
  (if mmaResMode d = 0 && !m.adapt then
      savedOut s (mmaResTensor s x d) (tileLay m.rfmt (m.twice (mmaN d * m.tiles * (m.geo.outW / 128)))) mb.res main
    else main,
   if mmaRankOn d then both (rankOut s x d m mb f) else Out.empty)

end Sys2Proof.Machine
end

