-- ==== Sys2Proof/Machine/Spare.lean ====
section
/-! DEFINITION. The sparing map, and marking clusters and regions failed (R17, R19, R359 to R363, R478, R480). -/

namespace Sys2Proof.Machine

/-! ## The map (R478, R480) -/

def rgnWorking (s : State) (p : Nat) : Bool := bitOf (reg s (.idRgn p)) 0
def rgnSpare (s : State) (p : Nat) : Bool := bitOf (reg s (.idRgn p)) 1
def rgnSpareClu (s : State) (p : Nat) : Bool := bitOf (reg s (.idRgn p)) 8

/-- ARR_STAT.IN_SERVICE counts the clusters with a logical number (R478). -/
def refreshArrStat (s : State) : State :=
  setRf s .arrStat 0 9 ((List.range 324).filter fun c => cluInService s c).length

/-- Give or take a cluster's place in the map: spare, in service, its numbers. -/
def setClu (s : State) (c : Nat) (spare inService : Bool) (r k : Nat) : State :=
  setRf s (.arrCluStat c) 25 10
    ((if spare then 1 else 0) + (if inService then 2 else 0) + r % 32 * 4 + k % 8 * 128)

/-- The failure record marks a cluster (R363). -/
def cluRecorded (s : State) (c : Nat) : Bool := bitOf (reg s (.fltFailClu (c / 64))) (c % 64)

/-- Whether the failure record or the fuses mark a cluster (R17, R363). -/
def cluBad (s : State) (c : Nat) : Bool := s.part.badClusters.contains c || cluRecorded s c

def rgnBad (s : State) (p : Nat) : Bool := s.part.badRegions.contains p || bitOf (reg s .fltFailRgn) p

/-- Working clusters of a region, in ascending order (R17). -/
def workingClusters (s : State) (p : Nat) : List Nat :=
  ((List.range 9).map fun k => 9 * p + k).filter fun c => !cluBad s c

/-- Working regions of a compute die (R17): not marked, with at least eight working clusters. -/
def workingRegions (s : State) (d : Nat) : List Nat :=
  ((List.range 9).map fun k => 9 * d + k).filter fun p => !rgnBad s p && decide (8 ≤ (workingClusters s p).length)

/-- One physical region's part of a rebuilt map: its logical number, none for a spare or failed one. Its ninth working
cluster is its spare whether or not the region works, and the FAILED marks come from the failure record (R17, R478, R480). -/
def buildRegion (s : State) (p : Nat) (number : Option Nat) (spare : Bool) : State :=
  let ws := workingClusters s p
  let s := (List.range 9).foldl (fun s k =>
    let c := 9 * p + k
    let s := setRf s (.arrCluStat c) 24 1 (if cluRecorded s c then 1 else 0)
    match number, ws.idxOf? c with
    | some r, some i => if i < 8 then setClu s c false true r i else setClu s c true false 0 0
    | none, some i => setClu s c (decide (8 ≤ i)) false 0 0
    | _, none => setClu s c false false 0 0) s
  let failedClu := ((List.range 9).filter fun k => cluRecorded s (9 * p + k)).foldl (fun n k => n + 2 ^ k) 0
  let working := number.isSome || spare
  setReg s (.idRgn p) (BitVec.ofNat 64
    ((if working then 1 else 0) + (if spare then 2 else 0) + number.getD 0 % 32 * 8
      + (if ws.length = 9 then 256 else 0) + failedClu * 512))

/-- Rebuild the sparing map of a compute die, retire the numbers left unfilled and report each (R17, R362). No physical
region holds an unfilled number 8d + i; SOURCE of its NO_SPARE is physical region 9d + i (DESIGN CHOICE, log entry 129). -/
def buildDie (s : State) (d : Nat) : State :=
  let ws := workingRegions s d
  let s := (List.range 9).foldl (fun s k =>
    let p := 9 * d + k
    match ws.idxOf? p with
    | some i => if i < 8 then buildRegion s p (some (8 * d + i)) false else buildRegion s p none true
    | none => buildRegion s p none false) s
  let s := (List.range 8).foldl (fun s i =>
    let r := 8 * d + i
    if i < ws.length then setRf s .fltStat r 1 1
    else report (setRf s .fltStat r 1 0) 0x3B 2 (srcOf 1 (9 * d + i)) none 7 r 0) s
  refreshArrStat s

/-! ## Failures (R359, R362) -/

/-- What a record about a unit concerns: the contexts whose commands ran there, each with the first affected command (R358). -/
abbrev Concerned := List (Option Nat × Nat)

/-- Report a unit: to each context that it concerns, or as a record of no context (R356, R358). -/
def reportUnit (s : State) (code sev source action info : Nat) (about : Concerned) : State :=
  if about.isEmpty then report s code sev source none action info 0
  else about.foldl (fun s a => report s code sev source a.1 action info a.2) s

/-- Retire the logical number of a failed region whose die has no spare (R362). -/
def retireRegion (s : State) (p r : Nat) (about : Concerned) : State :=
  let s := setRf s .fltStat r 1 0
  let s := setRf s (.idRgn p) 2 1 1
  let s := (List.range 9).foldl (fun s k =>
    let c := 9 * p + k
    setRf s (.arrCluStat c) 26 1 0) s
  reportUnit (refreshArrStat s) 0x3B 2 (srcOf 1 p) 7 r about

/-- The die of a region has a spare region that works (R359). -/
def dieSpare (s : State) (p : Nat) : Option Nat :=
  ((List.range 9).map fun k => p / 9 * 9 + k).find? fun q => rgnSpare s q && rgnWorking s q

/-- Mark a region failed (R359): the record, the report, and retirement where no spare is left (R362). -/
def failRegion (s : State) (p : Nat) (about : Concerned) : State :=
  if !rgnWorking s p then s
  else
    let wasSpare := rgnSpare s p
    let number := ((List.range 9).map fun k => 9 * p + k).find? fun c => cluInService s c
    let s := setRf (setRf s (.idRgn p) 0 1 0) .fltFailRgn p 1 1
    let s := reportUnit s 0x38 2 (srcOf 1 p) (if (dieSpare s p).isSome then 6 else 7) 0 about
    match number with
    | none => if wasSpare then setRf s (.idRgn p) 1 1 0 else s
    | some c => if (dieSpare s p).isSome then s else retireRegion s p (cluRegion s c) about

/-- Mark a cluster failed (R359); a region that loses a cluster with no spare cluster left fails. -/
def failCluster (s : State) (c : Nat) (about : Concerned) : State :=
  if cluFailed s c then s
  else
    let p := c / 9
    let wasSpare := cluSpare s c
    let hadSpare := rgnSpareClu s p
    let s := setRf s (.arrCluStat c) 24 1 1
    let s := setRf s (.fltFailClu (c / 64)) (c % 64) 1 1
    let s := setRf s (.idRgn p) (9 + c % 9) 1 1
    let s := reportUnit s 0x04 2 (srcOf 0 c) (if hadSpare && !wasSpare then 6 else 7) 0 about
    if wasSpare then setRf (setRf s (.arrCluStat c) 25 1 0) (.idRgn p) 8 1 0
    else if hadSpare then s
    else failRegion s p about

/-- Every byte of an extent takes a free value: undefined results (R101, DESIGN CHOICE, log entry 1). -/
def freeExtent (s : State) (a len : Nat) : State :=
  { s with mem := smFill 0 s.mem (Config.freeByte s.free) (resolve s a) len, free := s.free + 1 }

/-- Every byte of an extent takes a free value and every line is poisoned: lost contents (R360, DESIGN CHOICE, log entry 1). -/
def loseExtent (s : State) (a len : Nat) : State := poisonExtent (freeExtent s a len) a len

end Sys2Proof.Machine
end

