-- ==== Sys2Proof/Machine/Array.lean ====
section
/-! DEFINITION. The array's checks and what they do: checksum cubes, the check of each token, the load check, retries,
kindling, banks and budget; and MMA, its checks passed (R54, R61, R71, R74 to R82, R98, R101, R359). -/

namespace Sys2Proof.Machine

/-! ## Checksum cubes (R74) -/

/-- An exact sum rounded to nearest even in FP32: c_i and c'_j. -/
def chkSum (vs : List Fv) : Fv := fsum vs

/-- An exact sum of magnitudes rounded upward to 8 significand bits: d_i and d'_j. -/
def chkAbs (vs : List Fv) : Fv :=
  match exactSum (vs.map Fv.abs) with
  | .fin n m e =>
    let k := Nat.log2 m - 7
    if m = 0 ∨ Nat.log2 m < 8 then .fin n m e else .fin n (ceilDiv m (2 ^ k)) (e + k)
  | v => v

/-- The outputs of each half-array, which is checked on its own in SHALLOW (R59, R75). -/
def halves (d : Desc) (outW : Nat) : List (Nat × Nat) := if mmaMode d = 2 then [(0, 256), (256, 256)] else [(0, outW)]

/-- What a pass's weights add to one input's checksum cube over some outputs: the slices that the feeder sends. -/
def sentSlices (s : State) (x : Nat) (d : Desc) (m : MmaDims) (mb : Member) (held : Option Bank) (p : Pass) (q : Nat)
    (h : Nat × Nat) : List Fv :=
  (List.range h.2).map fun j =>
    sliceVal (p.asl == 0 && p.wsl == 0) p.wsl (operandOf m.wfmt (mmaF16W d) (sentWeight s x d m mb held p q (h.1 + j)))

/-! ## The load check (R76) -/

/-- The word that the feeder sends for a lane: its one or two weights, zero-padded. In the checksum column lanes 0 to 3 hold
the FP32 images of c and d of the row's two inputs (DESIGN CHOICE, log entry 133). -/
def sentLane (s : State) (x : Nat) (d : Desc) (m : MmaDims) (mb : Member) (p : Pass) (r c k : Nat) : Nat :=
  let e := (tensor s x (mmaWtTid d)).e
  let o := cubeOuts d m.wfmt
  let per := o.1 / o.2
  let shallow := mmaMode d == 2
  let lane := if mmaMode d = 0 then k % 4 else k
  let w (i j : Nat) : Fv :=
    let l := storedAt2 d i j
    sliceVal (p.asl == 0 && p.wsl == 0) p.wsl (operandOf m.wfmt (mmaF16W d) (sentWeight s x d m mb none p l.1 l.2)) |>.scale (-e)
  let i0 := 2 * (if shallow then r % 32 else r)
  let width := o.1 * 64
  let j0 := if shallow then r / 32 * 256 else 0
  if c = 64 then
    let row := (List.range width).map fun j => w (i0 + k % 2) (j0 + j)
    if k < 2 then bits32 (chkSum row) else if k < 4 then bits32 (round32 (chkAbs row)) else 0
  else
    ((List.range o.2).map fun t => laneImage (w (i0 + lane / per) (j0 + c * o.1 + lane % per * o.2 + t)) <<< (14 * t)).foldl (· + ·) 0

/-- A column's load-check word over given lane words. -/
def loadWord (lane : Nat → Nat → Nat) : Nat :=
  ((List.range 64).flatMap fun r => (List.range 8).map fun k => lane r k * (8 * r + k + 1)).foldl (· + ·) 0 % 2 ^ 32

/-- The load check of a tile fails in some column. -/
def fillFails (s : State) (x : Nat) (d : Desc) (m : MmaDims) (mb : Member) (f : Feed) (ld : Nat × Bool) (p : Pass) : Bool :=
  (List.range 65).any fun c =>
    let sent (r k : Nat) : Nat := sentLane s x d m mb p r c k
    loadWord (fun r k => (laneEvent f ld r c k).getD (sent r k)) != loadWord sent

/-! ## The check of a token (R75, R186) -/

/-- Neighbours are paired level by level. -/
def pairTree : Nat → List Fv → Fv
  | 0, vs => vs.headD .zero
  | k + 1, vs => pairTree k (treeLevel fadd vs)

/-- |S - K| is above 2^(-τ) × B. -/
def beyond (tol : Nat) (sum check bound : Fv) : Bool :=
  match exactSum [sum, check.neg], bound with
  | .fin _ m e, .fin _ n g => !magLe m e n (g - tol)
  | _, _ => false

/-- A row's pass fails its check in some half: the output sum by a fixed tree, K and B by the checksum cubes; nothing is
compared where a value is not finite, or for a row whose pass reads a poisoned line (R75, R186). -/
def rowFails (s : State) (x : Nat) (d : Desc) (m : MmaDims) (mb : Member) (f : Feed) (ps : List Pass) (i : Nat) (p : Pass)
    (again : Bool) (row : Nat) : Bool :=
  let held := heldFor s x d m mb f i again
  let bad := actRowPoison s x d m mb p.k row
    || (match held with | some b => b.bad | none => wtTilePoison s d m mb p.k p.n)
  let xs := (passActs s x d m mb p row).map (sliceVal (p.asl == 0 && p.wsl == 0) p.asl)
  !bad && (halves d m.geo.outW).any fun h =>
    let ys := (List.range h.2).map fun j => passOut s x d m mb f ps i p again row (h.1 + j)
    let slices := (List.range m.geo.inW).map fun q => sentSlices s x d m mb held p q h
    let check := cubeChain m.geo.group m.geo.inW none ((xs.zip slices).map fun a => exactMul a.1 (chkSum a.2))
    let bound := cubeChain m.geo.group m.geo.inW none ((xs.zip slices).map fun a => exactMul a.1.abs (chkAbs a.2))
    if ys.all Fv.isFinite && check.isFinite && bound.isFinite then
      beyond (rf s .arrChkCtl 0 5) (pairTree (Nat.log2 h.2) ys) check bound
    else false

/-- The verdict of one member on an attempt at a pass from a row: the first row that is not folded, and the fault's code. A
load mismatch fails the first pass of its tile (R76, R77). -/
def verdict (s : State) (x : Nat) (d : Desc) (m : MmaDims) (mb : Member) (f : Feed) (ps : List Pass) (i : Nat) (p : Pass)
    (again : Bool) (start : Nat) : Option (Nat × Nat) :=
  let filled := again || ((heldFor s x d m mb f i again).isNone && fillOf ps i == i)
  if filled && fillFails s x d m mb f (i, again) p then some (start, 0x02)
  else
    let rows := (List.range (min mb.rows (p.lo + p.len) - start)).map (start + ·)
    (rows.find? fun r => rowFails s x d m mb f ps i p again r).map fun r => (r, 0x01)

/-! ## Retries, kindling, budget (R71, R78 to R82) -/

/-- A retried pass is counted in its cluster and device-wide (R78, R478). -/
def countRetry (s : State) (c : Nat) : State := bumpBy (bump s .arrRetryCnt) (.arrCluStat c) 0 16 1

/-- A mismatch is reported (R78, R355). -/
def reportRetry (s : State) (x c code tag : Nat) : State := report s code 1 (srcOf 0 c) (some x) 2 (tag % 2 ^ 32) tag

/-- A kindling pair is launched: the shift register moves on (R80). -/
def kindlePair (s : State) (c : Nat) : State := setArr s c { arrSt s c with lfsr := Config.lfsrNext (arrSt s c).lfsr }

/-- The feeder launches kindling pairs (R80, R84). -/
def kindleOn (s : State) : Bool := bitOf (reg s .arrCtl) 1

/-- A kindling pair fails its check; the flag says that the cluster has failed (R79, R359). -/
def kindleFails (s : State) (c : Nat) (cx : Option Nat) (cmd : Nat) : State × Bool :=
  if !kindleOn s then (s, false)
  else
    let s := kindlePair s c
    let n := (arrSt s c).kindles + 1
    let s := report (bumpBy s (.arrCluStat c) 16 8 1) 0x03 0 (srcOf 0 c) cx 0 0 cmd
    let s := setArr s c { arrSt s c with kindles := n }
    if 2 ≤ n then (failCluster s c [(cx, cmd)], true) else (s, false)

/-- The count of failed kindling checks begins anew (R79). -/
def clearKindles (s : State) (c : Nat) : State := setArr s c { arrSt s c with kindles := 0 }

/-- Real work has run on an array: its kindling window begins anew; an idle array starts at b = 1, and a ramp-down stops and
holds (R81, R82). -/
def arrWork (s : State) (p : Nat) : State :=
  let b := rf s (.arrCluStat p) 35 5
  let a := arrSt s p
  let s := if b = 0 then setRf s (.arrCluStat p) 35 5 1 else s
  let r := if b = 16 then Ramp.steady else if b ≠ 0 && (a.ramp == .down || a.ramp == .hold) then .hold else .up
  setArr s p { a with window := true, ramp := r }

/-- Both banks hold a tile: the front has copied the shadow bank, and no further fill has come (R61). -/
def setBanks (s : State) (p : Nat) (b : Option Bank) : State := setArr s p { arrSt s p with active := b, shadow := b }

/-- The banks after a pass: the slice of the tile that the pass multiplied with. -/
def bankAfter (s : State) (x : Nat) (d : Desc) (m : MmaDims) (mb : Member) (p : Pass) : Bank :=
  match heldHit s x d m mb with
  | some b => b
  | none =>
    let t := tensor s x (mmaWtTid d)
    let w (i j : Nat) : Fv :=
      let l := storedAt2 d i j
      (sliceVal (p.asl == 0 && p.wsl == 0) p.wsl (operandOf m.wfmt (mmaF16W d) (wtElem s x d m mb p.comp.wt p.k p.n l.1 l.2).1)).scale (-t.e)
    let ins := List.range m.geo.rows
    let outs := List.range m.geo.cols
    let cut := (halves d m.geo.cols).map fun h => (List.range h.2).map (h.1 + ·)
    { ctx := x, addr := (wtAt m d mb.wt p.k p.n 0 0).1, tid := mmaWtTid d, mode := mmaMode d, fmt := m.wfmt, slice := p.wsl
      whole := mmaWtSlices m d == 1 && !m.cplx
      cols := m.geo.cols
      weights := ins.flatMap fun i => outs.map fun j => w i j
      bad := wtTilePoison s d m mb p.k p.n
      colSum := cut.flatMap fun h => ins.map fun i => chkSum (h.map fun j => w i j)
      colAbs := cut.flatMap fun h => ins.map fun i => chkAbs (h.map fun j => w i j)
      rowSum := outs.map fun j => chkSum (ins.map fun i => w i j)
      rowAbs := outs.map fun j => chkAbs (ins.map fun i => w i j) }

/-- An array after a command: its banks hold the tile of the last pass that ran, its window and budget move on (R61, R81,
R82, R98). -/
def arrAfter (s0 s : State) (x : Nat) (d : Desc) (m : MmaDims) (mb : Member) (last : Option Pass) : State :=
  match arrOf s d.region mb.cluster, last with
  | some c, some p => arrWork (setBanks s c (some (bankAfter s0 x d m mb p))) c
  | _, _ => s

/-- An ATTN command leaves no tile that R98 would reuse; it starts an idle array's ramp as any real pair does (R82). -/
def arrTouch (s : State) (p : Nat) : State := arrWork (setBanks s p none) p

/-! ## The passes of a command, checked (R70, R71, R77 to R79) -/

/-- What the checks have found so far: the retries of each quad of the gang (quad, pass, first row of the second attempt),
and the pass at which the command died. -/
structure Checked where
  retries : List (Nat × Nat × Nat)
  dead    : Option Nat
deriving DecidableEq, Repr

/-- The clusters that run in lockstep with a member: its quad, or itself outside a gang (R70). -/
def lockstep (d : Desc) (c : Nat) : Nat := if mmaGang d = 0 then c else c / 4

/-- A member's feed from the command's events and retries. -/
def feedOf (s : State) (d : Desc) (ev : List ArrEvent) (ck : Checked) (c : Nat) : Feed :=
  { events := ev.filter fun e => (arrOf s d.region c) == some e.cluster
    retries := (ck.retries.filter fun r => r.1 == lockstep d c).map Prod.snd }

/-- Kindling failures before a pass, cluster by cluster (R79). -/
def kindleBefore (s : State) (x cmd i : Nat) (ev : List ArrEvent) : State × Bool :=
  ev.foldl (fun r e => match e with
    | .kindle c pass => if pass = i && !r.2 then kindleFails r.1 c.val (some x) cmd else r
    | _ => r) (s, false)

/-- One pass of every member: kindling pairs before it, the first attempt, and where a member's check fails the second
attempt of its whole quad (R71, R78). `s0` is the state in which the command reads its operands. -/
def checkPass (s0 : State) (x : Nat) (d : Desc) (m : MmaDims) (cmd : Nat) (ev : List ArrEvent) (ps : List Pass)
    (r : State × Checked) (i : Nat) : State × Checked :=
  match ps[i]?, r.2.dead with
  | some p, none =>
    let ms := mmaMembers d
    let k := kindleBefore r.1 x cmd i ev
    let phys := ms.filterMap (arrOf s0 d.region)
    let s := if fillOf ps i = i then phys.foldl clearKindles k.1 else k.1
    if k.2 then (s, { r.2 with dead := some i })
    else
      let judge (ck : Checked) (again : Bool) (start c : Nat) : Option (Nat × Nat) :=
        verdict s0 x d m (memberOf s0 x d c) (feedOf s0 d ev ck c) ps i p again start
      let first := ms.filterMap fun c => (judge r.2 false p.lo c).map fun v => (c, v)
      if first.isEmpty then
        (((ms.filter fun c => decide (p.lo < (memberOf s0 x d c).rows)).filterMap (arrOf s0 d.region)).foldl clearKindles s, r.2)
      else
        let quads := dedup (first.map fun v => lockstep d v.1)
        let from' (q : Nat) : Nat :=
          ((first.filter fun v => lockstep d v.1 == q).map fun v => v.2.1).foldl min (p.lo + p.len)
        let again := quads.map fun q => (q, i, from' q)
        let ck := { r.2 with retries := r.2.retries ++ again }
        let retried := ms.filter fun c => quads.contains (lockstep d c)
        let s := (retried.filterMap (arrOf s0 d.region)).foldl countRetry s
        let s := first.foldl (fun s v => match arrOf s0 d.region v.1 with
          | some c => reportRetry s x c v.2.2 cmd
          | none => s) s
        let failing := retried.filter fun c => (judge ck true (from' (lockstep d c)) c).isSome
        let s := (failing.filterMap (arrOf s0 d.region)).foldl (fun s c => failCluster s c [(some x, cmd)]) s
        (s, { ck with dead := if failing.isEmpty then none else some i })
  | _, _ => r

/-- Every pass of the command in order, until one dies. -/
def checkPasses (s : State) (x : Nat) (d : Desc) (m : MmaDims) (cmd : Nat) (ev : List ArrEvent) : State × Checked :=
  let ps := mmaPasses m d
  (List.range ps.length).foldl (checkPass s x d m cmd ev ps) (s, ⟨[], none⟩)

/-! ## The command -/

/-- Results land member by member in ascending logical cluster (R167). -/
def landMembers (s : State) (x : Nat) (d : Desc) (m : MmaDims) (feed : Nat → Feed) : State × Bool × Bool :=
  (mmaMembers d).foldl (fun (r : State × Bool × Bool) c =>
    let mb := memberOf r.1 x d c
    let o := memberResults r.1 x d m mb (feed c)
    let a := if mmaResMode d = 1 then landOut r.1 x d.tag (evalPhase d) o.1
      else landTensor r.1 x d.tag (evalPhase d) (mmaResTensor r.1 x d) o.1
    let b := if mmaRankOn d then landTensor a.1 x d.tag (evalPhase d) (tensor a.1 x (mmaRankTid d)) o.2 else (a.1, false, false)
    (b.1, r.2.1 || a.2.1 || b.2.1, r.2.2 || a.2.2 || b.2.2)) (s, false, false)

/-- MMA, its checks passed: what goes wrong in its arrays meanwhile is met and spent, then its results land; a command whose
retried pass fails completes CHECKSUM and leaves its results undefined (R78, R89, R101). -/
def runMma (s : State) (o : OutCmd) : State :=
  let d := o.d
  if mmaT d = 0 ∨ mmaK d = 0 ∨ mmaN d = 0 then complete s o stOk 0
  else
    let m := mmaDims s o.ctx d
    let ps := mmaPasses m d
    let phys := (mmaMembers d).filterMap (arrOf s d.region)
    let ev := s.glitches.filter fun e => phys.contains e.cluster
    let s := { s with glitches := s.glitches.filter fun e => !phys.contains e.cluster }
    let r := checkPasses s o.ctx d m (cmdRef o) ev
    let after (t : State) (last : Option Pass) : State :=
      (mmaMembers d).foldl (fun t c => arrAfter s t o.ctx d m (memberOf s o.ctx d c) last) t
    match r.2.dead with
    | some i =>
      let exts := (mmaMembers d).flatMap (memberExts s o.ctx m d)
      let s1 := (exts.filter (·.write)).foldl (fun s e => freeExtent s e.lo.toNat e.len) r.1
      complete (after s1 ps[i]?) o stChecksum 0
    | none =>
      let q := landMembers r.1 o.ctx d m (feedOf s d ev r.2)
      complete (after q.1 ps.getLast?) o (workStatus q.2.1 q.2.2) 0

end Sys2Proof.Machine
end

