-- ==== Sys2Proof/Machine/Ember.lean ====
section
/-! DEFINITION. The ember set: moving objects into and out of cache portions (R160 to R162). -/

namespace Sys2Proof.Machine

/-- An object's extent. -/
def EmberObj.ext (o : EmberObj) : Ext := Sys2Proof.Machine.ext false o.addr (o.slabs * slabBytes)

/-- The object and an extent share a byte, whichever names they go by (R140). -/
def EmberObj.touches (s : State) (o : EmberObj) (e : Ext) : Bool := (o.ext.resolved s).meets (e.resolved s)

/-- The cache ways that a context may use: TIER_CX_WMASK below W (R159, R170). -/
def emberWays (s : State) (x : Nat) : List Nat := setBits (rf s (.tierCxWmask x) 0 16) (min 16 s.ways)

/-- Slabs held in a region by contexts that share a way with this one (R162, DEDUCED, log entry 17). -/
def emberUsed (s : State) (x r : Nat) : Nat :=
  s.ctxs.foldl (fun n c =>
    if (emberWays s c.1).any (emberWays s x).contains then
      c.2.embers.foldl (fun n o => if o.home == some r then n + o.slabs else n) n
    else n) 0

def emberFree (s : State) (x r : Nat) : Nat := 24 * (emberWays s x).length - emberUsed s x r

def modEmber (s : State) (x a : Nat) (f : EmberObj → EmberObj) : State :=
  modCtx s x fun c => { c with embers := c.embers.map fun o => if o.addr = a then f o else o }

/-- Some tier-map entries change state with an object's residence (R149). -/
def emberPages (s : State) (o : EmberObj) (st : Nat) : State :=
  (pagesOf s o.addr (o.slabs * slabBytes)).foldl (fun s p =>
    let e := tierAt s p
    if e.backed && e.state != 1 then setTier s p { e with state := st } else s) s

/-- The slabs of a written object are written back into its extent: traffic of its pages, and in a DDR frame a coded
write each (R150, R152, R162). -/
def emberBack (s : State) (o : EmberObj) : State :=
  let a := resolve s o.addr
  touchExtent ((List.range o.slabs).foldl (fun s k => slabWritten s (a / slabBytes + k)) s) a (o.slabs * slabBytes)

/-- Move an object out; a written one is written back into its extent, which its address names throughout (R161, R162). -/
def emberOut (s : State) (x : Nat) (o : EmberObj) : State :=
  let s := emberPages (modEmber s x o.addr fun o => { o with home := none, written := false }) o 0
  if o.written then emberBack s o else s

/-- A move-in has ended: the object, read from its frames, is resident in the region that it was bound for (R161). -/
def emberIn (s : State) (x : Nat) (o : EmberObj) : State :=
  let s := touchExtent s o.addr (o.slabs * slabBytes)
  emberPages (modEmber s x o.addr fun o => { o with moving := false, used := now s }) o 2

/-- The order of eviction among the context's resident objects of a region: those that no command names, least
recently used first, then those that queued commands alone name, latest earliest deadline first (R162). `rank` is
none for an object that no command names, and otherwise the earliest effective deadline; `running` objects stay. -/
def evictOrder (s : State) (x r : Nat) (running : EmberObj → Bool) (rank : EmberObj → Option Nat) : List EmberObj :=
  let here := (ctx s x).embers.filter fun o => o.home == some r && !o.moving && !running o
  let idle := sortBy (fun a b => decide (a.used ≤ b.used)) (here.filter fun o => (rank o).isNone)
  let later (a b : EmberObj) : Bool := earlier48 ((rank b).getD 0) ((rank a).getD 0) true || rank a == rank b
  idle ++ sortBy later (here.filter fun o => (rank o).isSome)

/-- Evict in order until `need` slabs are free. -/
def evictFor (s : State) (x r need : Nat) : List EmberObj → State
  | [] => s
  | o :: os => if need ≤ emberFree s x r then s else evictFor (emberOut s x o) x r need os

/-- Begin a move-in for an object: moving when room can be made, otherwise it stays where it is (R161, R162). -/
def emberBegin (s : State) (x r : Nat) (running : EmberObj → Bool) (rank : EmberObj → Option Nat) (o : EmberObj) : State :=
  let s' := evictFor s x r o.slabs (evictOrder s x r running rank)
  if !(emberWays s x).isEmpty && decide (o.slabs ≤ emberFree s' x r) then
    modEmber s' x o.addr fun o => { o with moving := true, home := some r }
  else s

/-- The objects, each with its context, that some extent touches and that satisfy `p`. A window may be shared, so they may be
another context's. -/
def embersBy (s : State) (p : EmberObj → Bool) (es : List Ext) : List (Nat × EmberObj) :=
  s.ctxs.flatMap fun c => (c.2.embers.filter fun o => p o && es.any (o.touches s)).map fun o => (c.1, o)

/-- The objects that are not resident and not moving in and that some extent touches. -/
def embersNeeded (s : State) (es : List Ext) : List (Nat × EmberObj) := embersBy s (fun o => o.home.isNone && !o.moving) es

/-- Objects that are moving in and that some extent touches (R165). -/
def embersMoving (s : State) (es : List Ext) : List (Nat × EmberObj) := embersBy s (·.moving) es

/-- A use of a resident object sets the time of its last use (R162). -/
def markUsed (s : State) (es : List Ext) (o : EmberObj) : EmberObj :=
  if o.resident && es.any (o.touches s) then { o with used := now s } else o

def emberUse (s : State) (es : List Ext) : State :=
  { s with ctxs := s.ctxs.map fun c => (c.1, { c.2 with embers := c.2.embers.map (markUsed s es) }) }

/-- Ask for a move-in, which the ember engine begins as soon as it is free to (R161). -/
def wantEmber (s : State) (x a r : Nat) : State := modCtx s x fun c => { c with wants := c.wants ++ [(a, r)] }

end Sys2Proof.Machine
end

