-- ==== Sys2Proof/Machine/Link.lean ====
section
/-! DEFINITION. Accesses over the peer links: posted writes and reads (R263, R267 to R270). -/

namespace Sys2Proof.Machine

/-- The package and the address there that a window address names (R140). -/
def windowTarget (a : Nat) : Nat × Nat := ((a - 0x400000000000) / 2 ^ 40, (windowAddr (a % 2 ^ 40)).getD 0)

/-- A posted write of bytes within one line through a peer window (R268): accepted by the local port at once.
A write of part of a line carries just its bytes (DEDUCED, log entry 16). -/
def postWrite (s : State) (x tag a : Nat) (bytes : List Byte) (poison : Bool) : State :=
  let (pkg, addr) := windowTarget a
  match subportOf s pkg addr with
  | none => s
  | some sub =>
    let stamp := s.nextId
    let s := { s with nextId := stamp + 1 }
    let s := modCtx s x fun c => { c with posted := c.posted ++ [⟨stamp, tag, pkg, addr, sub, bytes.length⟩] }
    sendFrame s sub pkg 0 1 addr x tag (if poison then 1 else 0) bytes

/-- A read of one line through a peer window for an outstanding command (R267). -/
def sendRead (s : State) (x ident a : Nat) : State :=
  let (pkg, addr) := windowTarget a
  match subportOf s pkg addr with
  | none => s
  | some sub =>
    let tag := s.nextId
    let s := { s with nextId := s.nextId + 1 }
    let s := modCtx s x fun c => { c with reads := c.reads ++ [⟨ident, pkg, a, sub, tag, 64⟩] }
    sendFrame s sub pkg 0 0 addr x tag 0 []

/-- Store cells that may lie in peer windows: local ones are stored, remote ones posted line by line (R268). -/
def storeOut (s : State) (x tag : Nat) (cells : List Host.Cell) (bad : List Nat) : State × Bool :=
  let far := cells.filter fun c => isRemote s c.1
  let r := storeCells s (cells.filter fun c => !isRemote s c.1) bad
  let lines := dedup (far.map fun c => c.1 / 64)
  (lines.foldl (fun s l => (lineRuns far l).foldl (fun s p => postWrite s x tag p.1 p.2 (bad.contains l)) s) r.1, r.2)

/-- A posted write has failed: the event, and the context is remote-poisoned (R268). -/
def postedFailed (s : State) (x : Nat) (p : Posted) (cause : Nat) : State :=
  let detail := p.pkg % 64 + p.addr % 2 ^ 48 * 2 ^ 6 + cause % 16 * 2 ^ 54
  let s := writeEvent s x ⟨0x03, none, none, p.tag, detail⟩
  setRemotePoisoned s x true

end Sys2Proof.Machine
end

