-- ==== Sys2Proof/Machine/Adapter.lean ====
section
/-! DEFINITION. Adapters: layout records, state extents, pass images, the registry and the adapter table
(R237 to R239, R244 to R250, R253, R256). -/

namespace Sys2Proof.Machine

/-! ## Layout records (R237) -/

/-- One attachment. -/
structure Attach where
  host : Nat
  inT  : Nat
  outT : Nat
  rank : Nat
deriving DecidableEq, Repr

def layoutCount (s : State) (a : Nat) : Nat := bitsAt (readLe s a 64) 0 5

def layoutBytes (n : Nat) : Nat := 64 + 16 * n

def attachOf (n : Nat) : Attach := ⟨bitsAt n 0 12, bitsAt n 12 8, bitsAt n 20 8, bitsAt n 28 7⟩

def attachBits (s : State) (a i : Nat) : Nat := readLe s (a + 64 + 16 * i) 16

def layoutOf (s : State) (a : Nat) : List Attach := (List.range (layoutCount s a)).map fun i => attachOf (attachBits s a i)

/-- What the host layer violates: class 0 with SCALE_FIXED (R237), nothing reserved (R27, R45), no stochastic rounding (R39). -/
def hostViolations (s : State) (x tid : Nat) : List Nat :=
  let n := entryBits s x tid
  tidWrite s x tid ++ whenV (bitsAt n 9 3 != 0 || !n.testBit 12) stBadDesc

def attachViolations (s : State) (x : Nat) (a : Attach) : List Nat :=
  whenV (a.inT == 0 || a.outT == 0 || a.rank % 2 != 0 || decide (a.rank < 2) || decide (64 < a.rank)) stBadDesc
    ++ hostViolations s x a.host

/-- What a layout record violates (R237). -/
def layoutViolations (s : State) (x a : Nat) : List Nat :=
  let n := layoutCount s a
  whenV (readLe s a 64 != n || decide (n < 1) || decide (16 < n)) stBadDesc
    ++ (List.range n).flatMap fun i =>
      whenV (bitsAt (attachBits s a i) 35 93 != 0) stBadDesc ++ attachViolations s x (attachOf (attachBits s a i))

/-! ## Sizes (R237 to R239) -/

/-- Columns of a weight tile under the host's format. -/
def hostCols (s : State) (x : Nat) (a : Attach) : Nat := if (tensor s x a.host).fmt = 9 then 256 else 128

def attachIn (a : Attach) : Nat := 128 * a.inT

def attachOut (s : State) (x : Nat) (a : Attach) : Nat := hostCols s x a * a.outT

def attachParams (s : State) (x : Nat) (a : Attach) : Nat := a.rank * (attachIn a + attachOut s x a)

/-- P of R238. -/
def adapterParams (s : State) (x : Nat) (l : List Attach) : Nat := l.foldl (fun n a => n + attachParams s x a) 0

def stateBytes (s : State) (x : Nat) (l : List Attach) : Nat := 8 * adapterParams s x l

def hostTile (s : State) (x : Nat) (a : Attach) : Nat :=
  hostCols s x a / 128 * subtileBytes (tensor s x a.host).fmt 128

def segmentBytes (s : State) (x : Nat) (a : Attach) : Nat := 64 + (a.inT + a.outT) * hostTile s x a

/-- The pass image in whole slabs (R239). -/
def passBytes (s : State) (x : Nat) (l : List Attach) : Nat :=
  roundUp (l.foldl (fun n a => n + segmentBytes s x a) 0) slabBytes

/-! ## Building a pass image (R239, R253) -/

/-- An FP32 master element and whether its line is poisoned. -/
def masterAt (s : State) (a i : Nat) : Fv × Bool := (ofBits32 (readLe s (a + 4 * i) 4), poisoned s (a + 4 * i))

/-- Down tile `t`: A's columns at 0 to RANK - 1; `base` is A's first element in the master. -/
def downTile (s : State) (x : Nat) (a : Attach) (master base dst t : Nat) : Out :=
  let h := tensor s x a.host
  let at' (i j : Nat) : Nat := base + (128 * t + i) * a.rank + j
  outTile h (srKey s x a.host) dst 128 (hostCols s x a) (fun _ j => decide (a.rank ≤ j)) (fun _ _ => 0) at'
    fun i j => masterAt s master (at' i j)

/-- Up tile `t`: B's rows at input rows 0 to RANK - 1. -/
def upTile (s : State) (x : Nat) (a : Attach) (master base dst t : Nat) : Out :=
  let h := tensor s x a.host
  let at' (i j : Nat) : Nat := base + i * attachOut s x a + hostCols s x a * t + j
  outTile h (srKey s x a.host) dst a.rank (hostCols s x a) (fun _ _ => false) (fun _ _ => 0) at'
    fun i j => masterAt s master (at' i j)

/-- The rank-lane header of a segment: one group (R95, R239). -/
def segmentHeader (id : Nat) (a : Attach) : List Byte := leBytes 64 (id % 65536 + a.rank * 2 ^ 25)

/-- One segment's cells and the counts of its host tensor. -/
def segmentOut (s : State) (x id : Nat) (a : Attach) (master base dst : Nat) : Out :=
  let tile := hostTile s x a
  (outBytes dst (segmentHeader id a) false).join
    (Out.concat
      ((List.range a.inT).map (fun t => downTile s x a master base (dst + 64 + t * tile) t)
        ++ (List.range a.outT).map fun t =>
            upTile s x a master (base + a.rank * attachIn a) (dst + 64 + (a.inT + t) * tile) t))

/-- The segments of an image: what each host tensor receives. -/
def segmentsOut (s : State) (x id master : Nat) : Nat → Nat → List Attach → List (Nat × Out)
  | _, _, [] => []
  | base, dst, a :: l =>
    (a.host, segmentOut s x id a master base dst)
      :: segmentsOut s x id master (base + attachParams s x a) (dst + segmentBytes s x a) l

/-- Build a pass image from the master; conversions count under HOST_TID in the train-phase store set (R253). The
flag says that a frame was exhausted. -/
def buildPass (s : State) (x id : Nat) (l : List Attach) (master pass : Nat) : State × Bool :=
  let outs := segmentsOut s x id master 0 pass l
  let n := passBytes s x l
  let blank := (List.range n).map fun i => (pass + i, (0 : Byte))
  let r0 := storeCells s blank []
  let all := Out.concat (outs.map Prod.snd)
  let r1 := storeCells r0.1 all.cells all.bad
  let s := outs.foldl (fun s p => countStats s x (tensor s x p.1) false p.2.stats) r1.1
  (s, r0.2 || r1.2)

/-! ## The registry (R244, R250) -/

def adp (s : State) (k : Nat) : Adapter := smGet Adapter.reset s.adapters k

def setAdp (s : State) (k : Nat) (a : Adapter) : State := { s with adapters := smSet Adapter.reset s.adapters k a }

/-- The layout of a registered adapter, read from its record. -/
def adpLayout (s : State) (a : Adapter) : List Attach := layoutOf s a.layout

def adpState (s : State) (a : Adapter) : Ext := ext true a.stAddr (stateBytes s a.owner (adpLayout s a))

def adpPass (s : State) (a : Adapter) : Ext := ext true a.passAddr (passBytes s a.owner (adpLayout s a))

def adpKey (s : State) (k : Nat) : Option AdpKey := smGet none s.sec.adpKeys k

def setAdpKey (s : State) (k : Nat) (v : Option AdpKey) : State :=
  { s with sec := { s.sec with adpKeys := smSet none s.sec.adpKeys k v } }

/-- The registering context owns the key slot (R250, R395). -/
def ownKey (s : State) (x k : Nat) : State :=
  match adpKey s k with
  | some v => setAdpKey s k (some { v with owner := some x })
  | none => s

/-- The adapters of a context in some state. -/
def adaptersOf (s : State) (x : Nat) (st : AdpState) : List (Nat × Adapter) :=
  s.adapters.filter fun p => p.2.owner == x && p.2.state == st

/-! ## The adapter table (R245, R246) -/

def adpTableAddr (w : Word) : Nat := fld w 0 48

/-- Entries of a table: none when ADDR is 0. -/
def adpTableEntries (w : Word) : List Nat :=
  if adpTableAddr w = 0 then [] else (List.range (fld w 48 16 + 1)).map fun i => adpTableAddr w + 64 * i

/-- The 512 bits of an entry. -/
def adpEntry (s : State) (e : Nat) : Nat := readLe s e 64

def entAdapter (n : Nat) : Nat := bitsAt n 0 16
def entOp (n : Nat) : Nat := bitsAt n 16 3
def entReq (n : Nat) : Nat := bitsAt n 24 8
def entAck (n : Nat) : Nat := bitsAt n 32 8
def entLayout (n : Nat) : Nat := bitsAt n 64 48
def entState (n : Nat) : Nat := bitsAt n 128 48
def entPass (n : Nat) : Nat := bitsAt n 192 48
def entEmber (n : Nat) : Nat := bitsAt n 240 5
def entArch (n : Nat) : Nat := bitsAt n 256 48

/-- The reserved bits of an entry are 0 and OP is 0 to 4. -/
def entOk (n : Nat) : Bool :=
  decide (entOp n ≤ 4) && bitsAt n 19 5 == 0 && bitsAt n 48 16 == 0 && bitsAt n 112 16 == 0 && bitsAt n 176 16 == 0
    && bitsAt n 245 11 == 0 && bitsAt n 304 16 == 0 && bitsAt n 368 144 == 0

/-- A request finishes: STATUS, then VERSION, then ACK, then the adapter event (R246, R317). -/
def finishRequest (s : State) (x : Nat) (q : AdpReq) (status version : Nat) : State :=
  let s := storeBytes s (q.entry + 5) (leBytes 1 status)
  let s := storeBytes s (q.entry + 40) (leBytes 6 version)
  let s := storeBytes s (q.entry + 4) (leBytes 1 q.req)
  let s := modCtx s x fun c => { c with adpReqs := c.adpReqs.filter fun r => r.entry != q.entry }
  writeEvent s x ⟨0x04, none, none, 0, q.adapter + q.op * 2 ^ 16 + status * 2 ^ 24 + version % 2 ^ 48 * 2 ^ 32⟩

/-- VERSION of every entry of the table in force that names an adapter (R246, R255, DEDUCED, log entry 26). -/
def showVersion (s : State) (x k version : Nat) : State :=
  (adpTableEntries (ctx s x).adpTable).foldl (fun s e =>
    if entAdapter (adpEntry s e) = k ∧ entOp (adpEntry s e) ≠ 0 then storeBytes s (e + 40) (leBytes 6 version) else s) s

/-! ## Checks of a request (R248) -/

/-- The extents of a request overlap one another or a LIVE adapter's extents. -/
def requestOverlap (s : State) (k : Nat) (es : List Ext) : Bool :=
  let rs := es.map (Ext.resolved s)
  let pairs := (List.range rs.length).any fun i => (rs.drop (i + 1)).any fun b => (rs.getD i b).meets b
  pairs || s.adapters.any fun p => p.1 != k && p.2.state == .live &&
    rs.any fun r => r.meets ((adpState s p.2).resolved s) || r.meets ((adpPass s p.2).resolved s)

/-- Violations of CREATE and IMPORT whose layout may be read: alignments, layout, overlap (R237 to R239, R248). -/
def buildPlan (s : State) (x : Nat) (n : Nat) (arch : List Ext) : Plan :=
  let lay := ext false (entLayout n) 64
  let broken := layoutViolations s x (entLayout n)
  if extentOutside s x lay then planV [stBounds]
  else if !broken.isEmpty then planV broken
  else
    let l := layoutOf s (entLayout n)
    let st := ext true (entState n) (stateBytes s x l)
    let pa := ext true (entPass n) (passBytes s x l)
    let bad := entState n % slabBytes != 0 || entPass n % slabBytes != 0
      || requestOverlap s (entAdapter n) ([st, pa] ++ arch)
    ⟨whenV bad stBadDesc, [ext false (entLayout n) (layoutBytes l.length), st, pa] ++ arch⟩

/-! ## Archives (R249) -/

/-- Bytes of an archive of P parameters. -/
def archiveBytes (p : Nat) : Nat := 144 + 8 * p

/-- Bytes read for an archive or a package; those of another package are what its peer returns, free values
(DESIGN CHOICE, log entry 27). -/
def fetchedBytes (s : State) (a len : Nat) : List Byte :=
  (List.range len).map fun i => if isRemote s (a + i) then Config.freeByte s.free (a + i) else readByte s (a + i)

/-- An archive or a package stands in host memory, which the function may not reach (R141). -/
def archBarred (s : State) (a : Nat) : Bool := rngOf a == some .host && !hostReadable s

/-- The header that an EXPORT writes. -/
def archiveHeader (k : Nat) (a : Adapter) (nonce : BitVec 96) (p : Nat) : List Byte :=
  leBytes 128 (0x58514144 + 2 ^ 32 + k * 2 ^ 48 + a.version % 2 ^ 48 * 2 ^ 64 + nonce.toNat * 2 ^ 128 + p % 2 ^ 32 * 2 ^ 224
    + a.origin.toNat * 2 ^ 256)

/-- The header of an archive names this adapter and this parameter count, and its fixed and reserved fields hold. -/
def archiveOk (h : List Byte) (k p : Nat) : Bool :=
  let n := leNat h
  bitsAt n 0 32 == 0x58514144 && bitsAt n 32 16 == 1 && bitsAt n 48 16 == k && bitsAt n 112 16 == 0
    && bitsAt n 224 32 == p % 2 ^ 32 && bitsAt n 640 384 == 0

/-! ## CREATE and IMPORT (R248) -/

/-- The id of a failed CREATE or IMPORT stays FREE. -/
def requestFailed (s : State) (x : Nat) (q : AdpReq) (status : Nat) : State :=
  finishRequest (setAdp s q.adapter Adapter.reset) x q status 0

/-- The registry entry of an adapter that has been built. -/
def builtEntry (x n version : Nat) (origin : BitVec 384) : Adapter :=
  { state := .pending, owner := x, version := version, origin := origin, layout := entLayout n
    stAddr := entState n, passAddr := entPass n, ember := entEmber n, finished := true, rebuildDue := false }

/-- The pass image is built and the request finishes. -/
def buildAdapter (s : State) (x : Nat) (q : AdpReq) (n version : Nat) (origin : BitVec 384) : State :=
  let l := layoutOf s (entLayout n)
  let r := buildPass s x q.adapter l (entState n) (entPass n)
  if r.2 then requestFailed r.1 x q stKeyExhausted
  else finishRequest (ownKey (setAdp r.1 q.adapter (builtEntry x n version origin)) x q.adapter) x q stOk version

/-- CREATE: both moments zeroed, the image built, the origin digest of the master as written. -/
def createNow (s : State) (x : Nat) (q : AdpReq) : State :=
  let n := adpEntry s q.entry
  let plan := buildPlan s x n []
  match planFails s x plan with
  | some st => requestFailed s x q st
  | none =>
    let s := backPlan s x plan
    let p := adapterParams s x (layoutOf s (entLayout n))
    let r := storeCells s ((List.range (4 * p)).map fun i => (entState n + 4 * p + i, (0 : Byte))) []
    if r.2 then requestFailed r.1 x q stKeyExhausted
    else buildAdapter r.1 x q n 0 (Config.sha384 (readBytes s (entState n) (4 * p)))

/-- IMPORT: the archive is decrypted into the state extent and the image built. -/
def importNow (s : State) (x : Nat) (q : AdpReq) : State :=
  let n := adpEntry s q.entry
  let plan0 := buildPlan s x n []
  let p := adapterParams s x (layoutOf s (entLayout n))
  let plan := if plan0.exts.isEmpty then plan0 else buildPlan s x n [ext false (entArch n) (archiveBytes p)]
  match adpKey s q.adapter with
  | none => requestFailed s x q stBadDesc
  | some key =>
    match planFails s x plan with
    | some st => requestFailed s x q st
    | none =>
      if archBarred s (entArch n) then requestFailed (requestFails s x (entArch n) 0) x q stTierFail else
      let h := fetchedBytes s (entArch n) 128
      let ct := fetchedBytes s (entArch n + 128) (8 * p)
      let tag := BitVec.ofNat 128 (leNat (fetchedBytes s (entArch n + 128 + 8 * p) 16))
      let s := { s with free := s.free + 1 }
      let nonce := BitVec.ofNat 96 (bitsAt (leNat h) 128 96)
      match if archiveOk h q.adapter p then Config.gcmOpen key.key nonce h ct tag else none with
      | none => requestFailed s x q stBadDesc
      | some pt =>
        let s := backPlan s x plan
        let bad := anyPoison s (entArch n) (archiveBytes p)
        let o := outBytes (entState n) ((List.range (8 * p)).map fun i => pt.getD i 0) bad
        let r := storeCells s o.cells o.bad
        if r.2 then requestFailed r.1 x q stKeyExhausted
        else buildAdapter r.1 x q n (bitsAt (leNat h) 64 48) (BitVec.ofNat 384 (bitsAt (leNat h) 256 384))

/-! ## EXPORT and RETIRE (R248, R250) -/

/-- EXPORT at step 4 of R247: the committed state leaves as an archive under the adapter's key. -/
def exportNow (s : State) (x : Nat) (q : AdpReq) : State :=
  let n := adpEntry s q.entry
  let a := adp s q.adapter
  match adpKey s q.adapter with
  | none => finishRequest s x q stBadDesc a.version
  | some key =>
    let l := adpLayout s a
    let p := adapterParams s a.owner l
    let arch := ext true (entArch n) (archiveBytes p)
    let bad := a.state != .live || a.owner != x || requestOverlap s q.adapter [adpState s a, adpPass s a, arch]
    let plan : Plan := ⟨whenV bad stBadDesc, if a.state == .live && a.owner == x then [arch] else []⟩
    match planFails s x plan with
    | some st => finishRequest s x q st a.version
    | none =>
      if 2 ^ 32 ≤ key.exports then finishRequest s x q stKeyExhausted a.version
      else if archBarred s (entArch n) then finishRequest (requestFails s x (entArch n) 0) x q stTierFail a.version
      else
        let d0 := draw s
        let d1 := draw d0.2
        let s := backPlan d1.2 x plan
        let nonce := BitVec.ofNat 96 (d0.1.toNat + d1.1.toNat * 2 ^ 64)
        let h := archiveHeader q.adapter a nonce p
        let pt := readBytes s a.stAddr (8 * p)
        let ct := Config.gcmSeal key.key nonce h pt
        let tag := Config.gcmTag key.key nonce h pt
        let img := h ++ (List.range (8 * p)).map (fun i => ct.getD i 0) ++ leBytes 16 tag.toNat
        let o := outBytes (entArch n) img (anyPoison s a.stAddr (8 * p))
        let r := storeOut s x 0 o.cells o.bad
        let s := setAdpKey r.1 q.adapter (some { key with exports := key.exports + 1 })
        finishRequest s x q (if r.2 then stKeyExhausted else stOk) a.version

/-- A resident or arriving object is discarded without write-back; its registration stays (R162). -/
def discardEmber (s : State) (x : Nat) (o : EmberObj) : State :=
  emberPages (modEmber s x o.addr fun o => { o with home := none, moving := false, written := false }) o 0

/-- Discard the ember objects of an adapter. -/
def discardAdapter (s : State) (k : Nat) (a : Adapter) : State :=
  ((ctx s a.owner).embers.filter fun o => o.adapter == some k && decide (o.addr = a.passAddr) && o.home.isSome).foldl
    (fun s o => discardEmber s a.owner o) s

/-- The adapter leaves: its ember object discarded without write-back, its extents zeroed, its key slot zeroised, the id
freed (R248, R258). -/
def freeAdapter (s : State) (k : Nat) : State :=
  let a := adp s k
  let s := discardAdapter s k a
  let st := adpState s a
  let pa := adpPass s a
  let zero (s : State) (e : Ext) : State :=
    (storeCells s ((List.range e.len).map fun i => (e.lo.toNat + i, (0 : Byte))) []).1
  let s := zero (zero s st) pa
  advanceEpoch (setAdpKey (setAdp s k Adapter.reset) k none)

/-- RETIRE at step 2 of R247. -/
def retireNow (s : State) (x : Nat) (q : AdpReq) : State := finishRequest (freeAdapter s q.adapter) x q stOk 0

/-! ## Reading the table (R247 step 5, R248) -/

/-- A pending request is refused: what its acceptance did to the registry is undone (R248). -/
def refuseRequest (s : State) (x : Nat) (q : AdpReq) : State :=
  let a := adp s q.adapter
  match q.op with
  | 1 | 2 => requestFailed s x q stBadDesc
  | 3 => finishRequest s x q stBadDesc a.version
  | _ => finishRequest (setAdp s q.adapter { a with state := .live }) x q stBadDesc a.version

/-- One entry whose REQ differs from ACK becomes a pending request, or finishes at once where R248 refuses it. Of two pending
entries that name one id the later in table order is refused. -/
def takeRequest (s : State) (x e : Nat) : State :=
  let n := adpEntry s e
  let q : AdpReq := ⟨e, entOp n, entAdapter n, entReq n⟩
  let fresh := entReq n != entAck n && !(ctx s x).adpReqs.any fun r => r.entry == e
  let s := if fresh && entOk n then
    ((ctx s x).adpReqs.filter fun r => r.adapter == q.adapter && decide (e < r.entry)).foldl (fun s r => refuseRequest s x r) s
    else s
  let a := adp s q.adapter
  let named := (ctx s x).adpReqs.any fun r => r.adapter == q.adapter
  if entReq n = entAck n || (ctx s x).adpReqs.any (fun r => r.entry == e) then s
  else
    let queue (s : State) : State := modCtx s x fun c => { c with adpReqs := c.adpReqs ++ [q] }
    if !entOk n || named then finishRequest s x q stBadDesc a.version
    else match q.op with
      | 0 => finishRequest s x q stOk a.version
      | 1 => if a.state == .free then queue (setAdp s q.adapter { Adapter.reset with state := .pending, owner := x })
             else finishRequest s x q stBadDesc a.version
      | 2 => if a.state == .free && (adpKey s q.adapter).isSome
             then queue (setAdp s q.adapter { Adapter.reset with state := .pending, owner := x })
             else finishRequest s x q stBadDesc a.version
      | 3 => queue s
      | _ => if a.state == .live && a.owner == x then queue (setAdp s q.adapter { a with state := .retiring })
             else finishRequest s x q stBadDesc a.version

/-- Some EXPORT or IMPORT that uses the key slot has not ended (R395). -/
def keyInUse (s : State) (k : Nat) : Bool :=
  s.ctxs.any fun c => c.2.adpReqs.any fun q => q.adapter == k && (q.op == 2 || q.op == 3)

/-- Zeroise an adapter key slot, and answer the ERASE_KEY that asked for it. -/
def eraseSlot (s : State) (k : Nat) : State :=
  emit (advanceEpoch { setAdpKey s k none with sec := { (setAdpKey s k none).sec with erases := s.sec.erases.filter (· != k) } })
    (.keyProtocol 0 [])

/-- Erasures whose last use has ended are performed (R395). -/
def eraseDue (s : State) : State := (s.sec.erases.filter fun k => !keyInUse s k).foldl eraseSlot s

/-- Step 5 of R247: the register takes effect and the table is read. -/
def readAdapterTable (s : State) (x : Nat) : State :=
  let w := reg s (.ctxCxAdp x)
  (adpTableEntries w).foldl (fun s e => takeRequest s x e) (modCtx s x fun c => { c with adpTable := w })

end Sys2Proof.Machine
end

