-- ==== Sys2Proof/Machine/Cache.lean ====
section
/-! DEFINITION. The key-value cache: descriptors, page lists, where a position lies, and reading and appending
rows (R125 to R129). -/

namespace Sys2Proof.Machine

/-! ## Cache descriptors (R125) -/

structure CacheDesc where
  fmt      : Nat
  dim      : Nat
  heads    : Nat
  layers   : Nat
  minPg    : Nat
  maxPg    : Nat
  headroom : Nat
  slot     : Nat
  kTid     : Nat
  vTid     : Nat
  scale    : Nat
  pkgs     : Nat
  pkg      : Nat
  shard    : Nat
  bias     : Nat
  hbm      : Nat
  hbmLen   : Nat
  ddr      : Nat
  ddrLen   : Nat
  reserved : Bool
deriving DecidableEq, Repr

def cacheOf (n : Nat) : CacheDesc :=
  let w (i lo len : Nat) : Nat := bitsAt n (64 * i + lo) len
  { fmt := w 0 0 2, dim := w 0 2 2, heads := w 0 4 10 + 1, layers := w 0 14 10 + 1, minPg := w 0 24 4, maxPg := w 0 28 4
    headroom := w 0 32 3, slot := w 0 35 2, kTid := w 0 37 12, vTid := w 0 49 12
    scale := w 1 0 32, pkgs := w 1 32 6 + 1, pkg := w 1 38 6, shard := w 1 44 5
    bias := w 2 0 48, hbm := w 3 0 48, hbmLen := w 4 0 48, ddr := w 5 0 48, ddrLen := w 6 0 48
    reserved := w 0 61 3 != 0 || w 1 49 15 != 0 || [2, 3, 4, 5, 6, 7].any fun i => w i 48 16 != 0 }

def cacheAt (s : State) (a : Nat) : CacheDesc := cacheOf (readLe s a 64)

/-- Head dimension. -/
def CacheDesc.d (c : CacheDesc) : Nat := 64 * 2 ^ c.dim

/-- K_TID and V_TID: class 5, SCALE_FIXED, no reserved encoding, whose codes are those of any entry (R27, R45, R125). -/
def cacheTid (s : State) (x tid : Nat) : List Nat :=
  let n := entryBits s x tid
  entryViolations n ++ whenV (!(bitsAt n 9 3 == 5 && n.testBit 12)) stBadDesc

/-- What R125 and R137 refuse in a descriptor. -/
def cacheViolations (s : State) (x : Nat) (c : CacheDesc) : List Nat :=
  let page (a : Nat) : Bool := a % pageBytes != 0
  cacheTid s x c.kTid ++ cacheTid s x c.vTid
    ++ whenV (c.reserved || decide (c.maxPg < c.minPg)
      || decide (8 < c.minPg) || decide (8 < c.maxPg) || decide (c.shard < 12) || decide (24 < c.shard)
      || decide (c.shard < c.maxPg + 4) || decide (c.pkgs ≤ c.pkg)
      || page c.hbm || page c.hbmLen || page c.ddr || page c.ddrLen) stBadDesc
    ++ whenV (decide (2 ≤ c.fmt) || c.dim == 3) stUnsupported

/-- Position k is held by this package (R128). -/
def CacheDesc.mine (c : CacheDesc) (k : Nat) : Bool := (k >>> c.shard) % c.pkgs == c.pkg

/-! ## Pages (R127 to R129) -/

/-- Positions of a page of size code v. -/
def pageTokens (v : Nat) : Nat := 16 * 2 ^ v

/-- Bits of an element, and elements of a page before those of a layer, head and side (0 keys, 1 values). -/
def CacheDesc.bits (c : CacheDesc) : Nat := if c.fmt = 0 then 8 else 4

/-- Positions that share one block scale in FMT 0. -/
def blockPos (n : Nat) : Nat := min 32 n

/-- Scale bytes of one layer, head and side of a page of `n` positions. -/
def CacheDesc.sideScales (c : CacheDesc) (n : Nat) : Nat := if c.fmt = 0 then n / blockPos n else n * (c.d / 32)

/-- Offset of the block scales in a page of `n` positions. -/
def CacheDesc.scaleOff (c : CacheDesc) (n : Nat) : Nat := c.layers * c.heads * 2 * n * c.d * c.bits / 8

/-- Bytes of a page of `n` positions. -/
def CacheDesc.pageSize (c : CacheDesc) (n : Nat) : Nat :=
  roundUp (c.scaleOff n + c.layers * c.heads * 2 * c.sideScales n) 64

structure PageHead where
  tokens  : Nat
  pages   : Nat
  cap     : Nat
  entries : Nat
  lastUse : Nat
deriving DecidableEq, Repr

def headAddr (rec slot : Nat) : Nat := rec + 64 * slot

def headAt (s : State) (a : Nat) : PageHead :=
  let n := readLe s a 64
  ⟨bitsAt n 0 32, bitsAt n 32 16, bitsAt n 48 16, bitsAt n 64 48, bitsAt n 112 32⟩

/-- The reserved bits of a head are 0. -/
def headOk (s : State) (a : Nat) : Bool := readLe s a 64 >>> 144 == 0

def writeHead (s : State) (a : Nat) (h : PageHead) : State :=
  storeBytes s a (leBytes 64 (h.tokens % 2 ^ 32 + h.pages % 65536 * 2 ^ 32 + h.cap % 65536 * 2 ^ 48
    + h.entries % 2 ^ 48 * 2 ^ 64 + h.lastUse % 2 ^ 32 * 2 ^ 112))

structure PageEnt where
  addr  : Nat
  size  : Nat
  state : Nat
  pos   : Nat
deriving DecidableEq, Repr

def pageEntAt (s : State) (a : Nat) : PageEnt :=
  let n := readLe s a 16
  ⟨bitsAt n 0 48, bitsAt n 48 4, bitsAt n 52 2, bitsAt n 64 32⟩

def writePageEnt (s : State) (a : Nat) (e : PageEnt) : State :=
  storeBytes s a (leBytes 16 (e.addr % 2 ^ 48 + e.size % 16 * 2 ^ 48 + e.state % 4 * 2 ^ 52 + e.pos % 2 ^ 32 * 2 ^ 64))

def pageEnts (s : State) (h : PageHead) : List PageEnt := (List.range h.pages).map fun i => pageEntAt s (h.entries + 16 * i)

/-- The page in HBM that holds a position: the last that reaches it, since the doubling restarts at each shard (R128). -/
def pageOf (s : State) (h : PageHead) (k : Nat) : Option PageEnt :=
  (pageEnts s h).reverse.find? fun e => e.state == 0 && decide (e.pos ≤ k) && decide (k < e.pos + pageTokens e.size)

/-- Which rows of a page: layer, head, side. -/
structure CacheSel where
  layer : Nat
  head  : Nat
  side  : Nat
deriving DecidableEq, Repr

/-- Place of a layer, head and side among the spans of a page (R129). -/
def CacheDesc.span (c : CacheDesc) (q : CacheSel) : Nat := (q.layer * c.heads + q.head) * 2 + q.side

/-- Bit offset of an element in its page. -/
def CacheDesc.elemBit (c : CacheDesc) (q : CacheSel) (e : PageEnt) (k i : Nat) : Nat :=
  ((c.span q * pageTokens e.size + (k - e.pos)) * c.d + i) * c.bits

/-- Address of the block scale of an element. -/
def CacheDesc.scaleAddr (c : CacheDesc) (q : CacheSel) (e : PageEnt) (k i : Nat) : Nat :=
  let n := pageTokens e.size
  let inSide := if c.fmt = 0 then (k - e.pos) / blockPos n else (k - e.pos) * (c.d / 32) + i / 32
  e.addr + c.scaleOff n + c.span q * c.sideScales n + inSide

def CacheDesc.tid (c : CacheDesc) (side : Nat) : Nat := if side = 0 then c.kTid else c.vTid

/-- Format code of the elements: MXFP8 E4M3 or MXFP4. -/
def CacheDesc.elemFmt (c : CacheDesc) : Nat := if c.fmt = 0 then 5 else 9

/-- An element of the cache and whether its line is poisoned. A position that no HBM page holds reads a free value
(DESIGN CHOICE, log entry 1). -/
def cacheElem (s : State) (x : Nat) (c : CacheDesc) (h : PageHead) (q : CacheSel) (k i : Nat) : Fv × Bool :=
  match pageOf s h k with
  | none => (decodeElem (fmtInfo c.elemFmt) (Config.freeByte s.free (k * 256 + i)).toNat, false)
  | some e =>
    let f := fmtInfo c.elemFmt
    let off := c.elemBit q e k i
    let sc := c.scaleAddr q e k i
    (scaled f (tensor s x (c.tid q.side)).e (readByte s sc).toNat (decodeElem f (bitsIn s e.addr off c.bits)),
     bitsPoisoned s e.addr off c.bits || poisoned s sc)

/-! ## Rows of operands (R110) -/

/-- Column blocks that a head's features take. -/
def headBlocks (d : Nat) : Nat := ceilDiv d 128

/-- Token tiles of a block of `rows` rows. -/
def rowTiles (rows : Nat) : Nat := ceilDiv rows 128

/-- The tile of an operand that holds row r, feature i of head h. -/
def opTile (fmt d rows a h r i : Nat) : Nat :=
  a + ((h * headBlocks d + i / 128) * rowTiles rows + r / 128) * subtileBytes fmt 128

/-- Bytes of an operand of `n` heads. -/
def opBytes (fmt d rows n : Nat) : Nat := n * headBlocks d * rowTiles rows * subtileBytes fmt 128

/-- The layout of an operand of `n` heads. -/
def opLay (fmt d rows n : Nat) : SavedLay := tileLay fmt (n * headBlocks d * rowTiles rows)

/-- Bytes of an operand of a tensor at an address, the flags of a coded one included (R52); none in a reserved format. -/
def opLen (t : Tensor) (d rows a n : Nat) : Nat := sized t.fmt (savedBytes t a (opBytes t.fmt d rows n))

/-- Element (head, row, feature) of an operand. -/
def opElem (s : State) (t : Tensor) (d rows a h r i : Nat) : Fv × Bool :=
  tileElem s t (opTile t.fmt d rows a h r i) 128 (r % 128) (i % 128)

/-- A row of an operand of `n` heads; a coded one is restored on the way in (R52). -/
def opRow (s : State) (t : Tensor) (d rows n a h r : Nat) : List (Fv × Bool) :=
  let v := savedView s t (opLay t.fmt d rows n) a
  (List.range d).map fun i => opElem v t d rows a h r i

/-- Write rows of an operand: those of `live`, D features each; nothing else of its tiles changes (R38, R88, R110), but that
the slabs of a coded one are coded anew (R52). -/
def opOut (s : State) (t : Tensor) (key : Word) (d rows a n : Nat) (live : Nat → Bool) (val : Nat → Nat → Nat → Fv × Bool) : Out :=
  let v := savedView s t (opLay t.fmt d rows n) a
  savedOut s t (opLay t.fmt d rows n) a (Out.concat ((List.range n).flatMap fun h => (List.range (headBlocks d)).flatMap fun b =>
    (List.range (rowTiles rows)).map fun tt =>
      let a := opTile t.fmt d rows a h (128 * tt) (128 * b)
      outTile t key a (min 128 (rows - 128 * tt)) 128
        (fun i j => !live (128 * tt + i) || decide (d ≤ 128 * b + j)) (oldCode v t.fmt a)
        (fun i j => (128 * tt + i) * (n * d) + h * d + 128 * b + j)
        fun i j => val h (128 * tt + i) (128 * b + j)))

/-! ## Appending (R126) -/

/-- One row to append: a position and its D values. -/
structure NewRow where
  pos : Nat
  vs  : List (Fv × Bool)
deriving DecidableEq, Repr

/-- The code of an element and its counts, under a block scale that is given. -/
def appendElem (t : Tensor) (x : Int) (v : Fv × Bool) : Nat × Stats :=
  let r := convBlock t 0 (some x) [⟨v.1, v.2, 0⟩]
  (r.1.getD 0 0, r.2.2)

/-- X of a block that an append sets: floor(log2 a) - 8 + h (R126). -/
def setScale (t : Tensor) (headroom : Nat) (vs : List (Fv × Bool)) : Int :=
  match topLog (vs.map fun v => scaleDown t.e v.1) with
  | none => -127
  | some l => max (-127) (min 127 (l - 8 + (headroom : Int)))

/-- FMT 0: the rows of one block of one side. A scale code of 0 is unset: a page comes to a sequence with every byte 0. -/
def appendBlock (s : State) (t : Tensor) (c : CacheDesc) (q : CacheSel) (e : PageEnt) (rows : List NewRow) : Out :=
  match rows with
  | [] => Out.empty
  | r :: _ =>
    let sc := c.scaleAddr q e r.pos 0
    let old := (readByte s sc).toNat
    let all := rows.flatMap (·.vs)
    let x : Int := if old = 0 then setScale t c.headroom all else (old : Int) - 127
    let bad := all.any (·.2)
    let body := rows.map fun r =>
      let cv := r.vs.map (appendElem t x)
      let b := outBytes (e.addr + c.elemBit q e r.pos 0 / 8) (packBits 8 (cv.map Prod.fst)) (r.vs.any (·.2))
      { b with stats := cv.foldl (fun st p => st.join p.2) Stats.empty }
    (Out.concat body).join (if old = 0 then outBytes sc [BitVec.ofNat 8 (x + 127).toNat] bad else Out.empty)

/-- FMT 1: one row, MXFP4 blocks over 32 elements of D. -/
def appendRow (t : Tensor) (c : CacheDesc) (q : CacheSel) (e : PageEnt) (r : NewRow) : Out :=
  let bs := (chunks 32 r.vs).map fun b => convBlock t 0 none (b.map fun v => ⟨v.1, v.2, 0⟩)
  let bad := r.vs.any (·.2)
  let body := outBytes (e.addr + c.elemBit q e r.pos 0 / 8) (packBits 4 (bs.flatMap fun b => b.1)) bad
  let sc := outBytes (c.scaleAddr q e r.pos 0) (bs.map fun b => BitVec.ofNat 8 b.2.1) bad
  let st := bs.foldl (fun st b => st.join b.2.2) Stats.empty
  (body.join sc).join ⟨[], [], st⟩

/-- Group rows by page and, in FMT 0, by block. -/
def blockKey (s : State) (h : PageHead) (k : Nat) : Option (PageEnt × Nat) :=
  (pageOf s h k).map fun e => (e, (k - e.pos) / blockPos (pageTokens e.size))

/-- Append rows of one sequence to one layer, head and side; positions of other packages, or that no page holds,
are skipped (R126, R128). -/
def appendSide (s : State) (x : Nat) (c : CacheDesc) (h : PageHead) (q : CacheSel) (rows : List NewRow) : Out :=
  let t := { tensor s x (c.tid q.side) with fmt := c.elemFmt }
  let rows := rows.filter fun r => c.mine r.pos && (pageOf s h r.pos).isSome
  if c.fmt = 0 then
    let keys := rows.foldl (fun ks r =>
      match blockKey s h r.pos with
      | some k => if ks.contains k then ks else ks ++ [k]
      | none => ks) []
    Out.concat (keys.map fun k => appendBlock s t c q k.1 (rows.filter fun r => blockKey s h r.pos == some k))
  else
    Out.concat (rows.map fun r => match pageOf s h r.pos with | some e => appendRow t c q e r | none => Out.empty)

end Sys2Proof.Machine
end

