-- ==== Sys2Proof/Machine/Attn.lean ====
section
/-! DEFINITION. The ATTN commands: FWD, BWD, BWD_P, APPEND and COMBINE (R107 to R124, R126, R137). -/

namespace Sys2Proof.Machine

/-! ## The descriptor (R111, R112) -/

def atSaveP (d : Desc) : Bool := bitOf d.w2 4
def atPartial (d : Desc) : Bool := bitOf d.w2 5
def atHeadsCode (d : Desc) : Nat := fld d.w2 7 2
def atHeads (d : Desc) : Nat := 2 ^ atHeadsCode d
def atGroupCode (d : Desc) : Nat := fld d.w2 9 3
def atG (d : Desc) : Nat := 2 ^ atGroupCode d
def atFirst (d : Desc) : Nat := fld d.w2 12 10
def atLayer (d : Desc) : Nat := fld d.w2 22 10
def atQTid (d : Desc) : Nat := fld d.w3 0 12
def atOTid (d : Desc) : Nat := fld d.w3 12 12
def atAuxTid (d : Desc) : Nat := fld d.w3 24 12
def atGradTid (d : Desc) : Nat := fld d.w3 36 12
def atTokBase (d : Desc) : Nat := fld d.w4 0 24
def atTokCount (d : Desc) : Nat := fld d.w4 24 24
def atNpart (d : Desc) : Nat := fld d.w4 48 6
def atQ (d : Desc) : Nat := fld d.w5 0 48
def atOpb (d : Desc) : Nat := fld d.w6 0 48
def atCache (d : Desc) : Nat := fld d.w7 0 48

/-- Entry i of the operand block. -/
def opbAt (s : State) (d : Desc) (i : Nat) : Nat := readLe s (atOpb d + 8 * i) 6

/-- Entries that an operation uses (R112). -/
def opbUsed (op : RingOp) (d : Desc) : List Nat :=
  match op with
  | .fwd => if atSaveP d then [0, 1, 2] else [0, 1]
  | .bwd => [0, 1, 2, 3, 4, 5]
  | .bwdP => [0, 1, 2, 3, 4, 5, 6]
  | .append => [0, 1]
  | _ => [0, 1, 2, 3]

/-- Unused entries are zero, and used ones hold an address alone. -/
def opbOk (s : State) (op : RingOp) (d : Desc) : Bool :=
  (List.range 8).all fun i =>
    let w := readLe s (atOpb d + 8 * i) 8
    if (opbUsed op d).contains i then decide (w < 2 ^ 48) else w == 0

/-! ## Sequences and chunks (R109, R114, R119) -/

/-- Query rows of the command. -/
def atRows (d : Desc) : Nat := atTokCount d * atG d

/-- The live entry's tokens inside the command, relative to TOK_BASE: first and one past the last. -/
def seqSpan (d : Desc) (e : RagEntry) : Nat × Nat :=
  (max e.start (atTokBase d) - atTokBase d, min (e.start + e.len) (atTokBase d + atTokCount d) - atTokBase d)

/-- The sequences that the command covers, in table order. -/
def atSeqs (s : State) (x : Nat) (d : Desc) : List RagEntry :=
  (liveEntries s x).filter fun e => decide ((seqSpan d e).1 < (seqSpan d e).2)

/-- A sequence's deadline, or the command's (R118). -/
def seqDeadline (d : Desc) (e : RagEntry) : Nat := if e.deadline = 0 then d.deadline else e.deadline

/-- One sequence goes no later than another; no deadline is last. -/
def seqBefore (d : Desc) (a b : RagEntry) : Bool :=
  let x := seqDeadline d a
  let y := seqDeadline d b
  y == 0 || (x != 0 && (x == y || earlier48 x y true))

/-- The sequences in the order in which they are taken (R114). -/
def atOrder (s : State) (x : Nat) (d : Desc) : List RagEntry := sortBy (seqBefore d) (atSeqs s x d)

/-- Row r of the operand belongs to an admitted sequence. -/
def rowLive (seqs : List RagEntry) (d : Desc) (g r : Nat) : Bool :=
  seqs.any fun e => decide ((seqSpan d e).1 ≤ r / g) && decide (r / g < (seqSpan d e).2)

/-- A chunk: its sequence, head, first row of the operand and number of rows. -/
structure Chunk where
  e    : RagEntry
  head : Nat
  row  : Nat
  n    : Nat
deriving DecidableEq, Repr

/-- R_max (R109). -/
def rMax (c : CacheDesc) (back : Bool) : Nat :=
  if back then (if c.dim = 2 then 128 else 256) else (if c.dim = 2 then 256 else 512)

def seqChunks (d : Desc) (c : CacheDesc) (back : Bool) (e : RagEntry) : List Chunk :=
  let lo := (seqSpan d e).1 * atG d
  let n := (seqSpan d e).2 * atG d - lo
  (List.range (atHeads d)).flatMap fun h => (List.range (ceilDiv n (rMax c back))).map fun i =>
    ⟨e, h, lo + i * rMax c back, min (rMax c back) (n - i * rMax c back)⟩

/-- Chunks in the order of the passes. -/
def atChunks (s : State) (x : Nat) (d : Desc) (c : CacheDesc) (back : Bool) : List Chunk :=
  (atOrder s x d).flatMap (seqChunks d c back)

/-! ## Masks and bias (R120, R121) -/

/-- Position of a row's token in its sequence. -/
def rowPos (d : Desc) (e : RagEntry) (r : Nat) : Nat := e.cachePos + (atTokBase d + r / atG d) - e.start

def maskAdmits (e : RagEntry) (q k : Nat) : Bool :=
  match e.mask with
  | 0 => decide (k ≤ q)
  | 1 => true
  | 2 => decide (k ≤ q) || decide (k < e.maskArg)
  | _ => decide (q < k + e.maskArg) && decide (k ≤ q)

/-- The row sees a key: it exists, lies in this package, and the mask admits it (R120, R128). -/
def sees (c : CacheDesc) (e : RagEntry) (q k : Nat) : Bool :=
  decide (k < e.cachePos + e.len) && c.mine k && maskAdmits e q k

/-- Key blocks that hold a key visible to some row of a chunk (R114). -/
def chunkBlocks (d : Desc) (c : CacheDesc) (ch : Chunk) : List Nat :=
  (List.range (ceilDiv (ch.e.cachePos + ch.e.len) 128)).filter fun j =>
    (List.range ch.n).any fun i => (List.range 128).any fun k => sees c ch.e (rowPos d ch.e (ch.row + i)) (128 * j + k)

/-- The bucket of a distance (R121). -/
def bucket (dist : Nat) : Nat :=
  if dist < 1024 then dist
  else
    let n := Nat.log2 dist
    1024 + 128 * (n - 10) + (dist >>> (n - 7)) % 128

/-- The bias of a query and a key, and its poison. -/
def biasAt (s : State) (d : Desc) (c : CacheDesc) (h q k : Nat) : Fv × Bool :=
  if c.bias = 0 then (.zero, false)
  else
    let a := c.bias + (atFirst d + h) * 16384 + 4 * bucket (max q k - min q k)
    (ofBits32 (readLe s a 4), poisoned s a)

/-! ## Passes (R109, R115, R122) -/

/-- The list cut or filled with zeros to n values. -/
def padTo (n : Nat) (vs : List Fv) : List Fv := (List.range n).map fun i => vs.getD i .zero

/-- One product over the input tiles that `vs` and `ws` fill, each `w` inputs wide, folded in the drain (R34, R36). -/
def attnSum (afmt wfmt w : Nat) (vs ws : List Fv) : Fv :=
  let tiles := ceilDiv vs.length w
  drainFold ((List.range tiles).flatMap fun t =>
    let cut (l : List Fv) : List Fv := padTo w ((l.drop (t * w)).take w)
    let as := (cut vs).map (operandOf afmt false)
    let bs := (cut ws).map (operandOf wfmt false)
    (List.range (sliceCount wfmt false)).flatMap fun j => (List.range (sliceCount afmt false)).map fun i =>
      passSum 2 i j as bs)

/-- SCALE, or 1/√D rounded to FP32 (R115). -/
def attnScale (c : CacheDesc) : Fv := if c.scale = 0 then frsqrt (.fin false c.d 0) else ofBits32 c.scale

/-- A key or value row of a sequence. A key block is 128 positions (R114); those past the sequence's end or of other packages'
shards, which no row sees, feed zeros to the passes (DESIGN CHOICE, log entry 135). -/
def cacheRow (s : State) (x : Nat) (d : Desc) (c : CacheDesc) (e : RagEntry) (h side k : Nat) : List (Fv × Bool) :=
  if k < e.cachePos + e.len && c.mine k then
    let hd := headAt s (headAddr e.pageRec c.slot)
    (List.range c.d).map fun i => cacheElem s x c hd ⟨atLayer d, atFirst d + h, side⟩ k i
  else List.replicate c.d (.zero, false)

/-- The rows of one key block. -/
def blockRows (s : State) (x : Nat) (d : Desc) (c : CacheDesc) (ch : Chunk) (side j : Nat) : List (List (Fv × Bool)) :=
  (List.range 128).map fun k => cacheRow s x d c ch.e ch.head side (128 * j + k)

def anyBad (rows : List (List (Fv × Bool))) : Bool := rows.any fun r => r.any (·.2)

/-- A masked score: none where the row does not see the key; one rounding of s × scale + bias. -/
def score (s : State) (d : Desc) (c : CacheDesc) (ch : Chunk) (afmt w r k : Nat) (q key : List Fv) : Option (Fv × Bool) :=
  let p := rowPos d ch.e r
  if sees c ch.e p k then
    let b := biasAt s d c ch.head p k
    some (fsum [exactMul (attnSum afmt c.elemFmt w q key) (attnScale c), b.1], b.2)
  else none

/-- E4M3 code of a probability times 2^8, and the value of a code. -/
def probCode (v : Fv) : Nat := (convElem (fmtInfo 3) false .rne v (v.scale 8)).1

def probValue (code : Nat) : Fv := decodeElem (fmtInfo 3) code

/-- Statistics and partials are FP32 under no tensor id (R112). -/
def f32Tensor : Tensor := ⟨0, 0, 1, 0, true, 0, false, 0, false, false⟩

/-! ## Forward (R114, R115, R117, R124) -/

/-- The running state of a row, and what it gave block by block. -/
structure FwdRow where
  m   : Fv
  l   : Fv
  acc : List Fv
  bad : Bool
  log : List (List Nat × Fv)
deriving DecidableEq, Repr

/-- One key block for one row. -/
def fwdBlock (s : State) (d : Desc) (c : CacheDesc) (ch : Chunk) (afmt r j : Nat) (q : List Fv)
    (keys vals : List (List (Fv × Bool))) (t : FwdRow) : FwdRow :=
  let w := if c.dim = 0 then 64 else 128
  let ss := (List.range 128).map fun k => score s d c ch afmt w r (128 * j + k) q ((keys.getD k []).map (·.1))
  let m := fmax t.m (reduceMax (ss.map fun o => match o with | some v => v.1 | none => .inf true))
  let alpha := if m = .inf true then Fv.one else fexp (fsub t.m m)
  let codes := ss.map fun o => match o with | some v => probCode (fexp (fsub v.1 m)) | none => 0
  let ps := codes.map probValue
  let l := fadd (fmul t.l alpha) (reduceSum (ps.map (Fv.scale (-8))))
  let acc := (List.range c.d).map fun i =>
    let sum := attnSum 3 c.elemFmt 128 ps (vals.map fun v => (v.getD i (.zero, false)).1)
    fsum [exactMul (t.acc.getD i .zero) alpha, sum.scale (-8)]
  { m := m, l := l, acc := acc
    bad := t.bad || anyBad keys || anyBad vals || ss.any fun o => match o with | some v => v.2 | none => false
    log := t.log ++ [(codes, m)] }

/-- One row through the blocks of its chunk. -/
def fwdRow (s : State) (x : Nat) (d : Desc) (c : CacheDesc) (ch : Chunk) (r : Nat) : FwdRow :=
  let t := tensorAt s x (atQTid d) (atQ d)
  let q := opRow s t c.d (atRows d) (atHeads d) (atQ d) ch.head r
  (chunkBlocks d c ch).foldl (fun f j =>
    fwdBlock s d c ch t.fmt r j (q.map (·.1)) (blockRows s x d c ch 0 j) (blockRows s x d c ch 1 j) f)
    ⟨.inf true, .zero, List.replicate c.d .zero, q.any (·.2), []⟩

/-- The output and LSE of a row: the empty-row rule where l is not above 0. -/
def fwdOut (f : FwdRow) : List Fv × Fv :=
  if flt .zero f.l then
    let q := frecip f.l
    (f.acc.map fun a => fmul a q, fadd f.m (fln f.l))
  else (f.acc.map fun _ => .zero, .inf true)

/-- Bytes of one block of the probability store (R124). -/
def storeBlock (n : Nat) : Nat := roundUp (132 * n) 64

/-- Offset of each chunk in the probability store, and the store's length. -/
def storeOffsets (d : Desc) (c : CacheDesc) : Nat → List Chunk → List (Chunk × Nat)
  | _, [] => []
  | a, ch :: chs => (ch, a) :: storeOffsets d c (a + (chunkBlocks d c ch).length * storeBlock ch.n) chs

def storeLength (d : Desc) (c : CacheDesc) (chs : List Chunk) : Nat :=
  chs.foldl (fun a ch => a + (chunkBlocks d c ch).length * storeBlock ch.n) 0

/-- ATTN marks no NONFIN: R94 names MMA and VEC alone. -/
def quiet (o : Out) : Out := { o with stats := { o.stats with wrote := false } }

/-- A row's place in the results of chunks that hold it. -/
def findRow {α : Type} (rs : List (Nat × Nat × α)) (h r : Nat) : Option α :=
  (rs.find? fun p => p.1 == h && p.2.1 == r).map fun p => p.2.2

/-- Land the results of one tensor and of statistics. -/
def landAttn (s : State) (o : OutCmd) (t : Option Tensor) (a b : Out) : State × Bool × Bool :=
  let r := match t with
    | some t => landTensor s o.ctx o.d.tag (evalPhase o.d) t (quiet a)
    | none => landOut s o.ctx o.d.tag (evalPhase o.d) (quiet a)
  let q := landOut r.1 o.ctx o.d.tag (evalPhase o.d) (quiet b)
  (q.1, r.2.1 || q.2.1, r.2.2 || q.2.2)

/-- The array that executes an ATTN command. -/
def touchArray (s : State) (d : Desc) : State :=
  match arrOf s d.region d.cluster with
  | some p => arrTouch s p
  | none => s

def runFwd (s : State) (o : OutCmd) : State :=
  let d := o.d
  let x := o.ctx
  let c := cacheAt s (atCache d)
  let seqs := atSeqs s x d
  if seqs.isEmpty then complete s o stOk 0
  else
    let chs := atChunks s x d c false
    let rs := chs.flatMap fun ch => (List.range ch.n).map fun i =>
      (ch.head, ch.row + i, fwdRow s x d c ch (ch.row + i))
    let at' (h r : Nat) : FwdRow := (findRow rs h r).getD ⟨.zero, .zero, [], false, []⟩
    let live := rowLive seqs d (atG d)
    let a0 := opbAt s d 0
    let t := tensorAt s x (atOTid d) a0
    let main := if atPartial d then
        opOut s f32Tensor 0 c.d (atRows d) a0 (atHeads d) live
          fun h r i => ((at' h r).acc.getD i .zero, (at' h r).bad)
      else opOut s t (srKey s x (atOTid d)) c.d (atRows d) a0 (atHeads d) live
          fun h r i => ((fwdOut (at' h r)).1.getD i .zero, (at' h r).bad)
    let w := if atPartial d then 8 else 4
    let stats := Out.concat (rs.map fun p =>
      let a := opbAt s d 1 + w * (p.1 * atRows d + p.2.1)
      if atPartial d then outF32 a [(p.2.2.m, p.2.2.bad), (p.2.2.l, p.2.2.bad)]
      else outF32 a [((fwdOut p.2.2).2, p.2.2.bad)])
    let store := if atSaveP d then
        Out.concat ((storeOffsets d c (opbAt s d 2) chs).flatMap fun q =>
          (List.range (chunkBlocks d c q.1).length).map fun b =>
            let rows := (List.range q.1.n).map fun i => at' q.1.head (q.1.row + i)
            let ent (f : FwdRow) : List Nat × Fv := f.log.getD b ([], .zero)
            let img := (rows.flatMap fun f => (ent f).1.map (BitVec.ofNat 8)) ++
              rows.flatMap fun f => leBytes 4 (bits32 (ent f).2)
            outBytes (q.2 + b * storeBlock q.1.n)
              (img ++ List.replicate (storeBlock q.1.n - img.length) 0) (rows.any (·.bad)))
      else Out.empty
    let r := landAttn s o (if atPartial d then none else some t)
      (if atPartial d then { main with stats := Stats.empty } else main) (stats.join store)
    complete (touchArray r.1 d) o (workStatus r.2.1 r.2.2) 0

/-! ## COMBINE (R117) -/

/-- Bytes of one partial set. -/
def partialBytes (c : CacheDesc) (d : Desc) : Nat := opBytes 0 c.d (atRows d) (atHeads d)

def pairSetBytes (d : Desc) : Nat := 8 * atHeads d * atRows d

/-- exp(m_p - m), or 1 when m = -inf, as in R114 (DEDUCED, log entry 29). -/
def mergeFactor (m mp : Fv) : Fv := if m = .inf true then .one else fexp (fsub mp m)

def sumInOrder : List Fv → Fv
  | [] => .zero
  | v :: vs => vs.foldl fadd v

/-- The (m, l) pair of a set for a row. -/
def partPair (s : State) (d : Desc) (p h r : Nat) : Fv × Fv :=
  let a := opbAt s d 1 + p * pairSetBytes d + 8 * (h * atRows d + r)
  (ofBits32 (readLe s a 4), ofBits32 (readLe s (a + 4) 4))

/-- One merged row: outputs, LSE, poison. -/
def combineRow (s : State) (c : CacheDesc) (d : Desc) (h r : Nat) : List Fv × Fv × Bool :=
  let ps := List.range (atNpart d)
  let ml := ps.map fun p => partPair s d p h r
  let m := match ml with | [] => Fv.inf true | q :: qs => qs.foldl (fun m q => fmax m q.1) q.1
  let fs := ml.map fun q => mergeFactor m q.1
  let l := sumInOrder ((ml.zip fs).map fun q => fmul q.1.2 q.2)
  let row (p : Nat) := opRow s f32Tensor c.d (atRows d) (atHeads d) (opbAt s d 0 + p * partialBytes c d) h r
  let bad := ps.any fun p => (row p).any (·.2)
    || anyPoison s (opbAt s d 1 + p * pairSetBytes d + 8 * (h * atRows d + r)) 8
  if l.isZero then (List.replicate c.d .zero, .inf true, bad)
  else
    let q := frecip l
    ((List.range c.d).map fun i =>
      fmul (sumInOrder ((ps.zip fs).map fun pf => fmul ((row pf.1).getD i (.zero, false)).1 pf.2)) q,
     fadd m (fln l), bad)

def runCombine (s : State) (o : OutCmd) : State :=
  let d := o.d
  let x := o.ctx
  let c := cacheAt s (atCache d)
  let seqs := atSeqs s x d
  if seqs.isEmpty then complete s o stOk 0
  else
    let live := rowLive seqs d (atG d)
    let rs := (List.range (atHeads d)).flatMap fun h => ((List.range (atRows d)).filter live).map fun r =>
      (h, r, combineRow s c d h r)
    let at' (h r : Nat) := (findRow rs h r).getD ([], .zero, false)
    let t := tensorAt s x (atOTid d) (opbAt s d 2)
    let main := opOut s t (srKey s x (atOTid d)) c.d (atRows d) (opbAt s d 2) (atHeads d) live
      fun h r i => ((at' h r).1.getD i .zero, (at' h r).2.2)
    let stats := Out.concat (rs.map fun p =>
      outF32 (opbAt s d 3 + 4 * (p.1 * atRows d + p.2.1)) [(p.2.2.2.1, p.2.2.2.2)])
    let r := landAttn s o (some t) main stats
    complete r.1 o (workStatus r.2.1 r.2.2) 0

/-! ## APPEND (R126) -/

def runAppend (s : State) (o : OutCmd) : State :=
  let d := o.d
  let x := o.ctx
  let c := cacheAt s (atCache d)
  let seqs := atSeqs s x d
  if seqs.isEmpty then complete s o stOk 0
  else
    let side (k : Nat) : Out := Out.concat (seqs.flatMap fun e =>
      let hd := headAt s (headAddr e.pageRec c.slot)
      (List.range (atHeads d)).map fun h =>
        let rows := (List.range ((seqSpan d e).2 - (seqSpan d e).1)).map fun i =>
          let r := (seqSpan d e).1 + i
          (⟨e.cachePos + (atTokBase d + r) - e.start, opRow s (tensorAt s x (atAuxTid d) (opbAt s d k)) c.d (atTokCount d) (atHeads d) (opbAt s d k) h r⟩ : NewRow)
        appendSide s x c hd ⟨atLayer d, atFirst d + h, k⟩ rows)
    let rk := landTensor s x d.tag (evalPhase d) (tensor s x c.kTid) (quiet (side 0))
    let rv := landTensor rk.1 x d.tag (evalPhase d) (tensor s x c.vTid) (quiet (side 1))
    complete rv.1 o (workStatus (rk.2.1 || rv.2.1) (rk.2.2 || rv.2.2)) 0

/-! ## Backward (R122 to R124) -/

/-- What a chunk's rows need: queries, dO, Δ, LSE, poison. -/
structure BwdRow where
  q     : List Fv
  dO    : List Fv
  delta : Fv
  lse   : Fv
  bad   : Bool
deriving DecidableEq, Repr

def bwdRow (s : State) (x : Nat) (d : Desc) (c : CacheDesc) (h r : Nat) : BwdRow :=
  let rows := atRows d
  let row (tid a : Nat) := opRow s (tensorAt s x tid a) c.d rows (atHeads d) a h r
  let q := row (atQTid d) (atQ d)
  let ov := row (atOTid d) (opbAt s d 0)
  let dO := row (atAuxTid d) (opbAt s d 2)
  let la := opbAt s d 1 + 4 * (h * rows + r)
  { q := q.map (·.1), dO := dO.map (·.1)
    delta := reduceSum ((dO.zip ov).map fun p => fmul (round32 p.1.1) (round32 p.2.1))
    lse := ofBits32 (readLe s la 4)
    bad := q.any (·.2) || ov.any (·.2) || dO.any (·.2) || poisoned s la }

/-- One row against one block: E4M3 codes of p, converted ds, poison. -/
structure BwdCell where
  p   : List Nat
  ds  : List Fv
  bad : Bool
deriving DecidableEq, Repr

/-- Where the store holds a row's probabilities and its maximum for key block j: the store is laid out by the
chunks of the forward pass. Inside a block R124 gives the probabilities and then the maxima; that the probabilities go row by
row, 128 key codes each, and both in row order, is the model's (DESIGN CHOICE, log entry 135). -/
def storedAt (d : Desc) (c : CacheDesc) (store : List (Chunk × Nat)) (h r j : Nat) : Nat × Nat :=
  match store.find? fun p => p.1.head == h && decide (p.1.row ≤ r) && decide (r < p.1.row + p.1.n) with
  | none => (0, 0)
  | some p =>
    let b := p.2 + (chunkBlocks d c p.1).idxOf j * storeBlock p.1.n
    (b + 128 * (r - p.1.row), b + 128 * p.1.n + 4 * (r - p.1.row))

/-- dp is held as BF16 (R122). -/
def asBf16 (v : Fv) : Fv := decodeElem (fmtInfo 1) (convElem (fmtInfo 1) false .rne v v).1

/-- ds as MXFP8 E4M3 with e = 0 and blocks of 32 keys (R122). -/
def asMx8 (vs : List Fv) : List Fv :=
  (chunks 32 vs).flatMap fun b =>
    let r := convBlock { f32Tensor with fmt := 5, nonsat := false } 0 none (b.map fun v => ⟨v, false, 0⟩)
    r.1.map fun code => scaled (fmtInfo 5) 0 r.2.1 (decodeElem (fmtInfo 5) code)

/-- The cell of row i of a chunk and key block j. -/
def bwdCell (s : State) (x : Nat) (d : Desc) (c : CacheDesc) (ch : Chunk) (stored : Option (List (Chunk × Nat))) (i j : Nat)
    (t : BwdRow) (keys vals : List (List (Fv × Bool))) : BwdCell :=
  let qf := (tensorAt s x (atQTid d) (atQ d)).fmt
  let gf := (tensorAt s x (atAuxTid d) (opbAt s d 2)).fmt
  let ks := (List.range 128).map fun k =>
    let key := ((keys.getD k []).map (·.1))
    let val := ((vals.getD k []).map (·.1))
    let here := sees c ch.e (rowPos d ch.e (ch.row + i)) (128 * j + k)
    let p : Fv × Bool := match stored with
      | some st =>
        let a := storedAt d c st ch.head (ch.row + i) j
        let v := probValue (readByte s (a.1 + k)).toNat
        (if here then fmul (v.scale (-8)) (fexp (fsub (ofBits32 (readLe s a.2 4)) t.lse)) else .zero, false)
      | none =>
        match score s d c ch qf 128 (ch.row + i) (128 * j + k) t.q key with
        | some v => (fexp (fsub v.1 t.lse), v.2)
        | none => (.zero, false)
    let dp := asBf16 (attnSum gf c.elemFmt 128 t.dO val)
    (p.1, fmul (fmul p.1 (fsub dp t.delta)) (attnScale c), p.2)
  let storeBad := match stored with
    | some st =>
      let a := storedAt d c st ch.head (ch.row + i) j
      anyPoison s a.1 128 || anyPoison s a.2 4
    | none => false
  { p := ks.map fun v => probCode v.1
    ds := asMx8 (ks.map fun v => v.2.1)
    bad := t.bad || anyBad keys || anyBad vals || storeBad || ks.any fun v => v.2.2 }

/-- Rows of the dK and dV accumulators: positions of the covered sequences, in table order (R122, DEDUCED, log entry 30). -/
def gradRows (seqs : List RagEntry) : Nat := seqs.foldl (fun n e => n + e.cachePos + e.len) 0

/-- First accumulator row of a sequence. -/
def gradRow0 (e : RagEntry) : List RagEntry → Nat
  | [] => 0
  | f :: fs => if f.start = e.start then 0 else f.cachePos + f.len + gradRow0 e fs

/-- A weight-gradient sum over a chunk's rows: passes of 128 rows (R122). -/
def gradSum (af wf : Nat) (as ws : List Fv) : Fv := attnSum af wf 128 as ws

/-- The contributions of one block of a chunk to one accumulator, landed at once: whether a poisoned result was written, and
exhaustion. -/
def addGrad (s : State) (x : Nat) (d : Desc) (c : CacheDesc) (seqs : List RagEntry) (ch : Chunk) (base j : Nat)
    (val : Nat → Nat → Fv) (bad : Bool) : State × Bool × Bool :=
  let t := tensor s x (atGradTid d)
  let w := if t.fmt = 0 then 4 else 2
  let n := gradRows seqs
  let out := Out.concat ((List.range 128).flatMap fun k =>
    let pos := 128 * j + k
    if pos < ch.e.cachePos + ch.e.len && c.mine pos then
      (List.range c.d).map fun i =>
        let r := gradRow0 ch.e seqs + pos
        let a := opTile t.fmt c.d n base ch.head r i + (r % 128 * 128 + i % 128) * w
        accumulate s t (srKey s x (atGradTid d)) (if t.fmt = 0 then 1 else 2) ((a - base) / 2) a (val k i, bad)
    else [])
  if t.fmt = 0 then landOut s x d.tag (evalPhase d) (quiet out)
  else landTensor s x d.tag (evalPhase d) t (quiet out)

/-- One chunk of the backward: dK and dV contributions land; answers dQ's rows with their poison, whether a poisoned
accumulator was written, and exhaustion. -/
def bwdChunk (s0 : State) (x : Nat) (d : Desc) (c : CacheDesc) (seqs : List RagEntry) (ch : Chunk)
    (stored : Option (List (Chunk × Nat))) (s : State) : State × List (Nat × Nat × (List Fv × Bool)) × Bool × Bool :=
  let rows := (List.range ch.n).map fun i => bwdRow s0 x d c ch.head (ch.row + i)
  let blank : BwdRow := ⟨[], [], .zero, .zero, false⟩
  let blocks := chunkBlocks d c ch
  let qf := (tensorAt s0 x (atQTid d) (atQ d)).fmt
  let gf := (tensorAt s0 x (atAuxTid d) (opbAt s0 d 2)).fmt
  let parts := (List.range blocks.length).map fun b =>
    let j := blocks.getD b 0
    let keys := blockRows s0 x d c ch 0 j
    let vals := blockRows s0 x d c ch 1 j
    let cells := (List.range ch.n).map fun i =>
      bwdCell s0 x d c ch stored i j (rows.getD i blank) keys vals
    (j, keys, cells)
  let landed := parts.foldl (fun (st : State × Bool × Bool) p =>
    let cells := p.2.2
    let bad := cells.any (·.bad)
    let dv (k i : Nat) : Fv := (gradSum 3 gf (cells.map fun q => probValue (q.p.getD k 0))
      (rows.map fun r => r.dO.getD i .zero)).scale (-8)
    let dk (k i : Nat) : Fv := gradSum 5 qf (cells.map fun q => q.ds.getD k .zero) (rows.map fun r => r.q.getD i .zero)
    let a := addGrad st.1 x d c seqs ch (opbAt s0 d 5) p.1 dv bad
    let b := addGrad a.1 x d c seqs ch (opbAt s0 d 4) p.1 dk bad
    (b.1, st.2.1 || a.2.1 || b.2.1, st.2.2 || a.2.2 || b.2.2)) (s, false, false)
  let dq := (List.range ch.n).map fun i =>
    let vs := (List.range c.d).map fun f => drainFold (parts.map fun p =>
      attnSum 5 c.elemFmt 128 ((p.2.2.getD i ⟨[], [], false⟩).ds) (p.2.1.map fun key => (key.getD f (.zero, false)).1))
    (ch.head, ch.row + i, (vs, (rows.getD i blank).bad || parts.any fun p => (p.2.2.getD i ⟨[], [], false⟩).bad))
  (landed.1, dq, landed.2)

/-- BWD, and BWD_P which reads the probability store (R124). -/
def runBwd (fromStore : Bool) (s : State) (o : OutCmd) : State :=
  let d := o.d
  let x := o.ctx
  let c := cacheAt s (atCache d)
  let seqs := atSeqs s x d
  if seqs.isEmpty then complete s o stOk 0
  else
    let stored := if fromStore then some (storeOffsets d c (opbAt s d 6) (atChunks s x d c false)) else none
    let r := (atChunks s x d c true).foldl (fun (st : State × List (Nat × Nat × (List Fv × Bool)) × Bool × Bool) ch =>
      let q := bwdChunk s x d c seqs ch stored st.1
      (q.1, st.2.1 ++ q.2.1, st.2.2.1 || q.2.2.1, st.2.2.2 || q.2.2.2)) (s, [], false, false)
    let at' (h n : Nat) := (findRow r.2.1 h n).getD ([], false)
    let t := tensorAt s x (atOTid d) (opbAt s d 3)
    let main := opOut r.1 t (srKey s x (atOTid d)) c.d (atRows d) (opbAt s d 3) (atHeads d)
      (rowLive seqs d (atG d)) fun h n i => ((at' h n).1.getD i .zero, (at' h n).2)
    let q := landTensor r.1 x d.tag (evalPhase d) t (quiet main)
    let bad := q.2.1 || r.2.2.1 || r.2.1.any fun p => p.2.2.2
    complete (touchArray q.1 d) o (workStatus bad (r.2.2.2 || q.2.2)) 0

/-! ## Checks (R137) -/

/-- Tensor ids that an operation reads and writes. -/
def atTids (s : State) (x : Nat) (op : RingOp) (d : Desc) : List Nat :=
  match op with
  | .fwd => tidRead s x (atQTid d) ++ if atPartial d then [] else tidWrite s x (atOTid d)
  | .append => tidRead s x (atAuxTid d)
  | .attnCombine => tidWrite s x (atOTid d)
  | _ => tidRead s x (atQTid d) ++ tidWrite s x (atOTid d) ++ tidRead s x (atAuxTid d) ++ tidWrite s x (atGradTid d)
      ++ whenV (decide (2 ≤ (tensor s x (atGradTid d)).fmt)) stBadDesc

/-- The violations that the descriptor and the entries show by themselves. -/
def atStatic (s : State) (x : Nat) (op : RingOp) (d : Desc) : List Nat :=
  whenV (((atSaveP d || atPartial d) && op != .fwd) || (atSaveP d && atPartial d)
      || (op == .attnCombine && atNpart d == 0)) stBadDesc
    ++ whenV (atHeadsCode d == 3 || decide (4 < atGroupCode d)) stUnsupported
    ++ atTids s x op d

/-- The extents of the operands and results, and which must lie in region SRAM alone. -/
def atExts (s : State) (x : Nat) (op : RingOp) (d : Desc) (c : CacheDesc) : List Ext × List Ext :=
  let n := atHeads d
  let rows := atRows d
  let len (tid a rows : Nat) : Nat := opLen (tensorAt s x tid a) c.d rows a n
  let q := ext false (atQ d) (len (atQTid d) (atQ d) rows)
  let e (w : Bool) (i len : Nat) : Ext := ext w (opbAt s d i) len
  let t (w : Bool) (i tid rows : Nat) : Ext := e w i (len tid (opbAt s d i) rows)
  match op with
  | .fwd =>
    ([q, if atPartial d then e true 0 (partialBytes c d) else t true 0 (atOTid d) rows,
      e true 1 ((if atPartial d then 8 else 4) * n * rows)]
      ++ (if atSaveP d then [e true 2 (storeLength d c (atChunks s x d c false))] else []), [])
  | .append => ([t false 0 (atAuxTid d) (atTokCount d), t false 1 (atAuxTid d) (atTokCount d)], [])
  | .attnCombine =>
    ([e false 0 (atNpart d * partialBytes c d), e false 1 (atNpart d * pairSetBytes d),
      t true 2 (atOTid d) rows, e true 3 (4 * n * rows)], [])
  | _ =>
    let g := opBytes (tensor s x (atGradTid d)).fmt c.d (gradRows (atSeqs s x d)) n
    ([q, t false 0 (atOTid d) rows, e false 1 (4 * n * rows), t false 2 (atAuxTid d) rows, t true 3 (atOTid d) rows]
      ++ (if op == .bwdP then [e false 6 (storeLength d c (atChunks s x d c false))] else []),
     [e true 4 g, e true 5 g])

/-- Bias tables of the command's heads. -/
def biasExt (d : Desc) (c : CacheDesc) : List Ext :=
  if c.bias = 0 then [] else [ext false (c.bias + atFirst d * 16384) (16384 * atHeads d)]

/-- What R137 refuses in a cache descriptor and the command's place in it: a reserved HEADS code names no heads. APPEND converts
into K_TID and V_TID, which SR does not belong to (R39). -/
def atCacheViolations (s : State) (x : Nat) (op : RingOp) (d : Desc) (c : CacheDesc) : List Nat :=
  cacheViolations s x c
    ++ whenV ((atHeadsCode d != 3 && decide (c.heads < atFirst d + atHeads d)) || decide (c.layers ≤ atLayer d)) stBadDesc
    ++ (if op == .append then tidWrite s x c.kTid ++ tidWrite s x c.vTid else [])

/-- The checks of an ATTN command (R137). What the cache descriptor and the operand block show is judged of each that can be
read, and goes before any extent. The queries lie where R112 puts the operands of the block, in the executing cluster's
scratch or its region's SRAM, else BOUNDS; and so does a cache descriptor that is not in HBM (R125; DESIGN CHOICE, log
entry 135). -/
def planAttn (op : RingOp) (s : State) (x : Nat) (d : Desc) : Plan :=
  let none' := (atSeqs s x d).isEmpty
  let ca := ext false (atCache d) 64
  let ob := ext false (atOpb d) 64
  let seesCache := inHbm (resolve s (atCache d)) && !extentOutside s x ca
  let seesBlock := inClusterStores s d ob && !extentOutside s x ob
  let c := cacheAt s (atCache d)
  let st := atStatic s x op d ++ (if seesCache then atCacheViolations s x op d c else [])
    ++ whenV (seesBlock && !opbOk s op d) stBadDesc
  if none' || !st.isEmpty then planV st
  else if !seesCache || !seesBlock then planV [stBounds]
  else
    let es := atExts s x op d c
    ⟨whenV (es.1.any (fun e => !inClusterStores s d e) || es.2.any fun e => !e.empty && !inRegionOf s d e) stBounds,
     [ca, ob] ++ es.1 ++ es.2 ++ (if op == .append || op == .attnCombine then [] else biasExt d c)⟩

end Sys2Proof.Machine
end

