-- ==== Sys2Proof/Machine/Move.lean ====
section
/-! DEFINITION. The MOVE commands (R177 to R180). -/

namespace Sys2Proof.Machine

def moveSrc (d : Desc) : Nat := fld d.w3 0 48
def moveDst (d : Desc) : Nat := fld d.w4 0 48
def movePages (d : Desc) : Nat := fld d.w4 0 32
def movePlanes (d : Desc) : Nat := fld d.w2 4 3

/-! ## Checks -/

/-- COPY: both records, one format, one count of units, no overlap (R176, R178). -/
def planCopy (s : State) (x : Nat) (d : Desc) : Plan :=
  let a := planStream s x (moveSrc d) false
  let b := planStream s x (moveDst d) true
  match a.2, b.2 with
  | some t, some u =>
    let meet := ((t.extent false).resolved s).meets ((u.extent true).resolved s)
    (a.1.join b.1).join (planV (whenV (t.fmt != u.fmt || t.total != u.total || meet) stBadDesc))
  | _, _ => a.1.join b.1

/-- ZERO (R177, R178). -/
def planZero (s : State) (x : Nat) (d : Desc) : Plan :=
  (planStream s x (moveDst d) true).1.join (planV (whenV (d.w3 != 0) stBadDesc))

/-- Extents that R151 exempts for a reason other than PIN: rings and ember objects; pools and the scale table are
closed to every stream. -/
def exemptExtents (s : State) : List Ext :=
  (List.range 64).flatMap fun x =>
    if ctxEnabled s x then
      ext false (rf s (.ctxCxScale x) 0 48) 131072
        :: ext false (ringBase s (.ctxCxEq x)) (if reg s (.ctxCxEq x) = 0 then 0 else ringSize s (.ctxCxEq x) * 32)
        :: ((List.range 16).flatMap fun n => if ringConfigured s x n then
              [ext false (ringBase s (.ctxCxSq x n)) (ringSize s (.ctxCxSq x n) * 64),
               ext false (ringBase s (.ctxCxCq x n)) (ringSize s (.ctxCxCq x n) * 16)] else [])
        ++ (ctx s x).embers.map fun o => ext false o.addr (o.slabs * slabBytes)
    else []

/-- The pages of a placement operation. -/
def placementPages (d : Desc) : List Nat := (List.range (movePages d)).map fun i => moveSrc d / pageBytes + i

/-- A placement operation: whole pages of the HBM or DDR range (R177, R179). PIN may back pages; nothing else moves
data. A page in the moving state is exempt (R151), but RELEASE waits for its move. -/
def planPlacement (s : State) (d : Desc) (pin release : Bool) : Plan :=
  let a := moveSrc d
  let n := movePages d
  let e := { ext pin a (n * pageBytes) with runs := if pin then [] else [(a, 0)] }
  let r := e.resolved s
  let moving := !release && (placementPages d).any fun p => (tierAt s p).state == 1
  ⟨whenV (a % pageBytes != 0) stBadDesc
    ++ whenV (n != 0 && (!inPaged a || moving || (exemptExtents s).any r.meets || (readOnlyExtents s).any r.meets)) stBounds,
   [e]⟩

/-- PLANES: as the others, and PLANES_V at most 2 (R179). -/
def planPlanes (s : State) (d : Desc) : Plan :=
  (planPlacement s d false false).join (planV (whenV (decide (2 < movePlanes d)) stBadDesc))

/-! ## Effects -/

/-- A byte of a source, from its home or, in another package's window, from the data a peer returned. -/
def sourceByte (s : State) (got : List Host.Cell) (a : Nat) : Byte :=
  if isRemote s a then smGet 0 got a else readByte s a

/-- The line of a source is poisoned, at its home or as a peer returned it (R185, R270). -/
def sourcePoisoned (s : State) (bad : List Nat) (a : Nat) : Bool :=
  if isRemote s a then bad.contains (a / 64) else poisoned s a

/-- The cells of some units of a COPY in stream order, and the destination lines that receive poisoned units (R178, R185). -/
def copyCells (s : State) (o : OutCmd) (w : Nat) (pairs : List (Nat × Nat)) : List Host.Cell × List Nat :=
  (pairs.flatMap fun p => (List.range w).map fun i => (p.2 + i, sourceByte s o.got (p.1 + i)),
   dedup ((pairs.filter fun p => sourcePoisoned s o.gotBad p.1).map fun p => p.2 / 64))

/-- Destination slabs of a MOVE: 64 KiB units of destination bytes in stream order (R187, R312). -/
def movedSlabs (t : Strm) : Nat := ceilDiv (t.total * unitBytes t.fmt) slabBytes

/-- The lines that a COPY must read from other packages. -/
def remoteLines (s : State) (t : Strm) : List Nat :=
  dedup ((t.addrs.filter fun a => isRemote s a).map fun a => a / 64 * 64)

/-- 64 KiB units that have landed, and whether a poisoned line has. -/
def landedUnits (o : OutCmd) : Nat × Bool := match o.st with | .moving k b => (k, b) | _ => (0, false)

/-- Move units `lo` to `hi - 1` of a MOVE. The write that finds an exhausted frame ends it (R403): answers the state, whether a
poisoned line was written, and the first unit not written then. -/
def moveUnits (s : State) (o : OutCmd) (w : Nat) (cells : List (Nat × Nat) → List Host.Cell × List Nat)
    (pairs : List (Nat × Nat)) (lo hi : Nat) : State × Bool × Option Nat :=
  let part := (pairs.take hi).drop lo
  let stop := (List.range part.length).find? fun i =>
    let a := (part.getD i (0, 0)).2
    (List.range w).any fun k => !isRemote s (a + k) && exhausted s (a + k)
  let cb := cells (match stop with | some i => part.take i | none => part)
  ((storeOut s o.ctx o.d.tag cb.1 cb.2).1, !cb.2.isEmpty, stop.map (lo + ·))

/-- A MOVE goes on, to its end or as far as it comes before something else happens to it (R180, R187). Its DETAIL counts the
64 KiB units whose every write has been accepted (R312). -/
def moveOn (s : State) (o : OutCmd) (w : Nat) (cells : List (Nat × Nat) → List Host.Cell × List Nat)
    (pairs : List (Nat × Nat)) (slabs : Nat) : State :=
  let from' := landedUnits o
  let per := slabBytes / w
  let cut := s.halt.filter fun k => decide (from'.1 ≤ k) && decide (k < slabs)
  let r := moveUnits { s with halt := none } o w cells pairs (from'.1 * per) (match cut with | some k => k * per | none => pairs.length)
  let bad := from'.2 || r.2.1
  let s := if r.2.1 then mark r.1 o.ctx markPoison o.d.tag else r.1
  match r.2.2, cut with
  | some i, _ => complete s o stKeyExhausted (i / per)
  | none, some k => putOut s { o with st := .moving k bad }
  | none, none => complete s o (workStatus bad false) slabs

/-- COPY moves its units once every byte is at hand (R178, R267). -/
def copyNow (s : State) (o : OutCmd) : State :=
  match (planStream s o.ctx (moveSrc o.d) false).2, (planStream s o.ctx (moveDst o.d) true).2 with
  | some t, some u => moveOn s o (unitBytes t.fmt) (copyCells s o (unitBytes t.fmt)) (t.addrs.zip u.addrs) (movedSlabs u)
  | _, _ => complete s o stBadDesc 0

/-- COPY: a source in another package's window is read over the links first (R267). -/
def runCopy (s : State) (o : OutCmd) : State :=
  let lines := match (planStream s o.ctx (moveSrc o.d) false).2 with
    | some t => remoteLines s t
    | none => []
  if lines.isEmpty then copyNow s o
  else lines.foldl (fun s a => sendRead s o.ctx o.ident a) (putOut s { o with st := .peerRead })

/-- ZERO writes zeros over every unit (R178). -/
def runZero (s : State) (o : OutCmd) : State :=
  match (planStream s o.ctx (moveDst o.d) true).2 with
  | some u =>
    let w := unitBytes u.fmt
    moveOn s o w (fun ps => (ps.flatMap fun p => (List.range w).map fun i => (p.2 + i, (0 : Byte)), []))
      (u.addrs.map fun a => (a, a)) (movedSlabs u)
  | none => complete s o stBadDesc 0

/-- PIN (R179): backed already by the checks, the pages gain PIN. -/
def runPin (s : State) (o : OutCmd) : State :=
  complete ((placementPages o.d).foldl (fun s p => setTier s p { tierAt s p with pin := true }) s) o stOk 0

/-- UNPIN (R179): nothing on an unbacked page. -/
def runUnpin (s : State) (o : OutCmd) : State :=
  complete ((placementPages o.d).foldl (fun s p =>
    let e := tierAt s p
    if e.backed then setTier s p { e with pin := false } else s) s) o stOk 0

/-- PLANES (R179): the setting stays with the page's entry, and a DDR page is coded anew. -/
def runPlanes (s : State) (o : OutCmd) : State :=
  let v := movePlanes o.d
  complete ((placementPages o.d).foldl (fun s p =>
    let e := tierAt s p
    setTier s p { e with planes := v, coded := if e.backed && e.ddr then recode s p v else e.coded }) s) o stOk 0

/-- RELEASE (R179): the page is unbacked, once settled when it is moving. -/
def runMoveRelease (s : State) (o : OutCmd) : State :=
  complete ((placementPages o.d).foldl (fun s p =>
    let e := tierAt s p
    if e.backed && e.state == 1 then setTier s p { e with release := true, pin := false } else unbackPage s p) s) o stOk 0

end Sys2Proof.Machine
end

