-- ==== Sys2Proof/Machine/Prefetch.lean ====
section
/-! DEFINITION. Exchanges of pages between tiers, and prefetch scripts (R146, R150, R151, R163 to R165). -/

namespace Sys2Proof.Machine

/-! ## Exchanges (R146, R150, R151) -/

/-- The page is exempt from placement (R151); registered images and loaded packages are pinned (R304, R397), and archive
images are never placed (R145). -/
def pageExempt (s : State) (p : Nat) : Bool :=
  let e := tierAt s p
  let here := ext false (p * pageBytes) pageBytes
  e.pin || e.state != 0 || e.snap || archived s (p * pageBytes) pageBytes || (exemptExtents s ++ readOnlyExtents s).any fun x => here.meets (x.resolved s)

/-- The pages of a context that placement may move, in one tier. -/
def movable (s : State) (x : Nat) (ddr : Bool) : List Nat :=
  ((s.tier.filter fun p => p.2.backed && p.2.owner == x && p.2.ddr == ddr).map Prod.fst).filter fun p => !pageExempt s p

/-- Two pages begin to exchange frames (R146, R150). -/
def startExchange (s : State) (p q : Nat) : State :=
  let s := setTier s p { tierAt s p with state := 1, partner := some q, moved := 0 }
  setTier s q { tierAt s q with state := 1, partner := some p, moved := 0 }

/-- The coldest of some pages; ties go to the lower address. -/
def coldest (s : State) : List Nat → Option Nat
  | [] => none
  | p :: ps =>
    match coldest s ps with
    | none => some p
    | some q => if (tierAt s q).heat < (tierAt s p).heat then some q else some p

/-- The hottest of some pages; ties go to the lower address. -/
def hottest (s : State) : List Nat → Option Nat
  | [] => none
  | p :: ps =>
    match hottest s ps with
    | none => some p
    | some q => if (tierAt s p).heat < (tierAt s q).heat then some q else some p

/-- Raise a page at once: it exchanges with the coldest HBM page of the context that `keep` does not hold back (R163). -/
def raisePage (s : State) (x p : Nat) (keep : Nat → Bool) : State :=
  let e := tierAt s p
  if e.backed && e.ddr && e.owner == x && !pageExempt s p then
    match coldest s ((movable s x false).filter fun q => !keep q) with
    | some q => startExchange s p q
    | none => s
  else s

/-! ## Scripts (R163) -/

structure ScriptEntry where
  src   : Nat
  slabs : Nat
  dst   : Nat
  kind  : Nat
  chain : Bool
  ok    : Bool
deriving DecidableEq, Repr

def scriptAddr (s : State) (x : Nat) : Nat := rf s (.tierCxScript x) 0 48

/-- The script's header: COUNT and WRAP. -/
def scriptCount (s : State) (x : Nat) : Nat := if scriptAddr s x = 0 then 0 else bitsAt (readLe s (scriptAddr s x) 64) 0 16

def scriptWrap (s : State) (x : Nat) : Bool := (readLe s (scriptAddr s x) 64).testBit 16

/-- Entry i; free-running when the script wraps. -/
def scriptEntry (s : State) (x i : Nat) : ScriptEntry :=
  let n := readLe s (scriptAddr s x + 64 + 32 * (i % scriptCount s x)) 32
  { src := bitsAt n 0 48, slabs := bitsAt n 48 16, dst := bitsAt n 64 48, kind := bitsAt n 112 2, chain := n.testBit 114
    ok := bitsAt n 115 141 == 0 && bitsAt n 112 2 != 3 && bitsAt n 0 16 == 0 }

/-- There is an entry i. -/
def scriptHas (s : State) (x i : Nat) : Bool := decide (i < scriptCount s x) || (scriptWrap s x && scriptCount s x != 0)

/-- One past the last entry of the layer that begins at entry i. -/
def layerEnd (s : State) (x : Nat) : Nat → Nat → Nat
  | 0, i => i
  | k + 1, i => if !scriptHas s x i then i else if (scriptEntry s x i).chain then layerEnd s x k (i + 1) else i + 1

/-- One past the last entry of `n` layers from entry i. -/
def layersEnd (s : State) (x : Nat) : Nat → Nat → Nat
  | 0, i => i
  | n + 1, i => layersEnd s x n (layerEnd s x (scriptCount s x) i)

def lookahead (s : State) (x : Nat) : Nat := max 1 (rf s (.tierCxScript x) 48 4)

/-- Extents of an entry: its source, and for STAGE its destination. -/
def ScriptEntry.srcExt (e : ScriptEntry) : Ext := ext false e.src (e.slabs * slabBytes)

def ScriptEntry.dstExt (e : ScriptEntry) : Ext := ext true e.dst (if e.kind = 0 then e.slabs * slabBytes else 0)

/-- The entry may be performed: its fields are legal, its source in the HBM, DDR or host range, and its extents inside the
context's bounds (R163; DEDUCED, log entry 31). -/
def entryRuns (s : State) (x : Nat) (e : ScriptEntry) : Bool :=
  let src := rngOf (resolve s e.src)
  e.ok && e.slabs != 0 && (src == some .hbm || src == some .ddr || src == some .host) && !extentOutside s x e.srcExt
    && (e.kind != 0 || (e.dst % slabBytes == 0 && rngOf (resolve s e.dst) == some .regionSram && !extentOutside s x e.dstExt))

/-- A STAGE waits while its DST overlaps that of an entry the cursor has not passed (R164). -/
def stageWaits (s : State) (x i : Nat) : Bool :=
  let e := scriptEntry s x i
  let c := (ctx s x).cursor
  e.kind == 0 && (List.range (i - c)).any fun k => ((scriptEntry s x (c + k)).dstExt.resolved s).meets (e.dstExt.resolved s)

/-- Pages that entries from the cursor up to entry `stop` name, which a raise does not send down (R163). -/
def scriptKeeps (s : State) (x stop p : Nat) : Bool :=
  let c := (ctx s x).cursor
  let here := ext false (p * pageBytes) pageBytes
  (List.range (stop - c)).any fun k => ((scriptEntry s x (c + k)).srcExt.resolved s).meets here

/-- The slabs of a STAGE become not ready (R165). -/
def issueStage (s : State) (x i : Nat) (e : ScriptEntry) : State :=
  let slabs := (List.range e.slabs).map fun k => (⟨resolve s e.dst + k * slabBytes, e.src + k * slabBytes, i, false⟩ : StageSlab)
  modCtx s x fun c => { c with stage := (c.stage.filter fun t => !slabs.any fun u => u.dst == t.dst) ++ slabs }

/-- Issue one entry (R163). -/
def issueEntry (s : State) (x i : Nat) : State :=
  let e := scriptEntry s x i
  if !entryRuns s x e then s
  else match e.kind with
    | 0 => issueStage s x i e
    | 1 => (pagesOf s e.src (e.slabs * slabBytes)).foldl (fun s p => raisePage s x p (scriptKeeps s x (i + 1))) s
    | _ => wantEmber s x e.src ((e.dst - 0x40000000) / 0x2000000 % 32)

/-- Issue entries in order up to a point; `n` bounds the work. -/
def issueScript (x : Nat) : Nat → Nat → State → State
  | 0, _, s => s
  | n + 1, stop, s =>
    let i := (ctx s x).issued
    if stop ≤ i || !scriptHas s x i || stageWaits s x i then s
    else issueScript x n stop (modCtx (issueEntry s x i) x fun c => { c with issued := i + 1 })

/-- Keep the cursor's layer and the next LOOKAHEAD layers issued (R164). -/
def runScript (s : State) (x : Nat) : State :=
  let c := ctx s x
  let stop := layersEnd s x (lookahead s x + 1) c.cursor
  issueScript x (stop - c.issued) stop s

/-- TIER_CX_SCRIPT is written: the cursor starts at entry 0 (R164). -/
def startScript (s : State) (x : Nat) : State :=
  runScript (modCtx s x fun c => { c with cursor := 0, issued := 0, stage := [] }) x

/-- A layer mark: the cursor passes one layer (R164). -/
def layerMark (s : State) (x : Nat) : State :=
  runScript (modCtx s x fun c => { c with cursor := layerEnd s x (scriptCount s x) c.cursor }) x

/-- Staging slabs not ready that some extent touches, whichever context's script stages them (R165). -/
def stageHeld (s : State) (es : List Ext) : List StageSlab :=
  s.ctxs.flatMap fun c => c.2.stage.filter fun t => es.any fun e => (ext false t.dst slabBytes).meets (e.resolved s)

end Sys2Proof.Machine
end

