-- ==== Sys2Proof/Machine/Admit.lean ====
section
/-! DEFINITION. Admission, spill and bring-back of key-value pages (R125, R127, R128, R130 to R135, R251). -/

namespace Sys2Proof.Machine

/-! ## The command (R130) -/

def admTable (d : Desc) : Nat := fld d.w2 0 48

/-- The caches it names: slot and descriptor address. -/
def admCaches (d : Desc) : List (Nat × Nat) :=
  ((List.range 4).map fun k => (k, fld ([d.w3, d.w4, d.w5, d.w6].getD k 0) 0 48)).filter fun p => p.2 != 0

/-- A cache as its descriptor lays it out. -/
def poolFrom (s : State) (k a : Nat) : CachePool :=
  let c := cacheAt s a
  ⟨k, a, c.hbm, c.hbmLen, c.ddr, c.ddrLen, []⟩

/-- Two views of one cache, whatever records are live in it. -/
def CachePool.same (p q : CachePool) : Bool := { p with records := [] } == { q with records := [] }

/-- The cache that an ADMIT names, with its live records when an earlier ADMIT has named it. -/
def poolOf (s : State) (x k a : Nat) : CachePool :=
  ((ctx s x).pools.find? (poolFrom s k a).same).getD (poolFrom s k a)

def poolKnown (s : State) (x : Nat) (p : CachePool) : Bool := (ctx s x).pools.any p.same

def CachePool.exts (p : CachePool) : List Ext := [ext true p.hbm p.hbmLen, ext true p.ddr p.ddrLen]

/-- A pool lies outside the context's bounds, or, when it is new, on an extent closed to the context. -/
def poolOutside (s : State) (x : Nat) (p : CachePool) : Bool :=
  p.exts.any fun e => !e.empty && (!populated s e || !inWindow s x e || (!poolKnown s x p && extentOutside s x e))

def poolPages (s : State) (p : CachePool) : List Nat := dedup (p.exts.flatMap fun e => pagesOf s e.lo.toNat e.len)

/-- The extent of a table with the entries that its header counts. -/
def tableExt (s : State) (a : Nat) : Ext := ext true a (ragBytes (ragCount s a))

/-- The checks at acceptance (R130, R137): pools are backed as written extents are (R148). A cache descriptor lies in HBM (R125),
else BOUNDS (DESIGN CHOICE, log entry 135). -/
def planAdmit (s : State) (x : Nat) (d : Desc) : Plan :=
  let cs := admCaches d
  let reach := cs.filter fun p => !extentOutside s x (ext false p.2 64)
  let staged := s.outs.any fun o => o.ctx == x && o.st == .staged
  let pools := reach.map fun p => poolOf s x p.1 p.2
  let viol := whenV (staged || reach.any fun p => (cacheAt s p.2).slot != p.1) stBadDesc
    ++ whenV (cs.any fun p => !inHbm (resolve s p.2)) stBounds
    ++ (reach.flatMap fun p => cacheViolations s x (cacheAt s p.2))
    ++ whenV (reach.any fun p => rngOf (cacheAt s p.2).hbm != some .hbm || rngOf (cacheAt s p.2).ddr != some .ddr) stBadDesc
    ++ whenV (pools.any (poolOutside s x)) stBounds
  let viol := viol ++ whenV (viol.isEmpty && (backPages s x (dedup (pools.flatMap (poolPages s)))).isNone) stQuota
  let table := if extentOutside s x (ext false (admTable d) 64) then ext true (admTable d) 64 else tableExt s (admTable d)
  ⟨viol, table :: cs.map fun p => ext true p.2 64⟩

/-- Pin the pages of a pool (R151). -/
def pinPages (s : State) (ps : List Nat) : State :=
  ps.foldl (fun s p => setTier s p { tierAt s p with pin := true }) s

/-- The first ADMIT that names a cache backs and pins its pools (R148, R151). -/
def addPool (s : State) (x : Nat) (p : CachePool) : State :=
  if poolKnown s x p then s
  else
    let ps := poolPages s p
    let s := pinPages ((backPages s x ps).getD s) ps
    modCtx s x fun c => { c with pools := c.pools ++ [p] }

/-- ADMIT is staged (R130). -/
def runAdmit (s : State) (o : OutCmd) : State :=
  let s := ((admCaches o.d).map fun p => poolFrom s p.1 p.2).foldl (fun s p => addPool s o.ctx p) s
  putOut s { o with st := .staged }

/-! ## Pages that a sequence needs (R128) -/

/-- The pages of one shard from a position on: position and size code. -/
def shardPages (c : CacheDesc) : Nat → Nat → Nat → Nat → List (Nat × Nat)
  | 0, _, _, _ => []
  | f + 1, i, pos, stop =>
    if stop ≤ pos then []
    else
      let v := min (c.minPg + i) c.maxPg
      (pos, v) :: shardPages c f (i + 1) (pos + pageTokens v) stop

/-- The pages that this package holds for a sequence of `n` positions, in order. -/
def pageSlots (c : CacheDesc) (n : Nat) : List (Nat × Nat) :=
  let w := 2 ^ c.shard
  (List.range (ceilDiv n w)).flatMap fun q =>
    if q % c.pkgs = c.pkg then shardPages c (w / 16 + 1) 0 (q * w) (min n ((q + 1) * w)) else []

/-! ## The allocator -/

/-- Allocated extents of a pool, by address. -/
def poolUsed (s : State) (p : CachePool) (ddr : Bool) : List (Nat × Nat) :=
  let c := cacheAt s p.desc
  sortBy (fun a b => decide (a.1 ≤ b.1))
    (p.records.flatMap fun r =>
      ((pageEnts s (headAt s r)).filter fun e => (e.state == 1) == ddr).map fun e => (e.addr, c.pageSize (pageTokens e.size)))

/-- The lowest place of `n` bytes that no allocated extent touches. -/
def firstFit (n hi : Nat) : Nat → List (Nat × Nat) → Option Nat
  | lo, [] => if lo + n ≤ hi then some lo else none
  | lo, (a, l) :: us => if lo + n ≤ a then some lo else firstFit n hi (max lo (a + l)) us

/-- A page of a pool, after the pool's first 64 KiB (R125). -/
def allocPage (s : State) (p : CachePool) (ddr : Bool) (n : Nat) : Option Nat :=
  let base := if ddr then p.ddr else p.hbm
  firstFit n (base + if ddr then p.ddrLen else p.hbmLen) (base + slabBytes) (poolUsed s p ddr)

/-- Places for several pages, one after another as `allocPage` finds them. -/
def placesFor (base hi : Nat) : List Nat → List (Nat × Nat) → Bool
  | [], _ => true
  | n :: ns, us => match firstFit n hi base us with
    | none => false
    | some a => placesFor base hi ns (insertBy (fun u v => decide (u.1 ≤ v.1)) (a, n) us)

/-- The HBM pool can hold pages of these sizes beside those it holds. -/
def hbmHolds (s : State) (p : CachePool) (sizes : List Nat) : Bool :=
  placesFor (p.hbm + slabBytes) (p.hbm + p.hbmLen) sizes (poolUsed s p false)

/-- Free bytes of the HBM pool. -/
def hbmFree (s : State) (p : CachePool) : Nat :=
  p.hbmLen - slabBytes - (poolUsed s p false).foldl (fun n u => n + u.2) 0

/-- HBM_FREE is written into the descriptor (R125). -/
def writeFree (s : State) (p : CachePool) : State := storeBytes s (p.desc + 56) (leBytes 8 (hbmFree s p))

/-- The pool as it stands now. -/
def poolNow (s : State) (x : Nat) (p : CachePool) : CachePool := ((ctx s x).pools.find? p.same).getD p

/-- The allocator's state in a pool's first 64 KiB: how many page records are live and the addresses of as many as it holds
(R125; the layout is the model's, DESIGN CHOICE, log entry 136). -/
def allocImage (rs : List Nat) : List Byte :=
  (leBytes 4 rs.length ++ rs.flatMap (leBytes 6)).take slabBytes

/-- The live page records of a cache, in State and in its pools. -/
def setRecords (s : State) (x : Nat) (p : CachePool) (rs : List Nat) : State :=
  let s := modCtx s x fun c => { c with pools := c.pools.map fun q => if q.same p then { q with records := rs } else q }
  [(p.hbm, p.hbmLen), (p.ddr, p.ddrLen)].foldl (fun s q =>
    if q.2 = 0 then s else storeBytes (zeroExtent s q.1 slabBytes) q.1 (allocImage rs)) s

/-- Move a page's bytes, poison marks with them; none when a frame is exhausted. -/
def movePage (s : State) (src dst n : Nat) : Option State :=
  let bad := ((List.range (n / 64)).filter fun i => poisoned s (src + 64 * i)).map fun i => dst / 64 + i
  let r := storeCells (touchExtent s src n) ((List.range n).map fun i => (dst + i, readByte s (src + i))) bad
  if r.2 then none else some r.1

def entAddr (h : PageHead) (i : Nat) : Nat := h.entries + 16 * i

/-! ## Spill and bring-back (R133, R134) -/

/-- A candidate for spill: head, index of its entry, absent from the NEXT table, LAST_USE, POS. -/
structure SpillCand where
  head   : Nat
  index  : Nat
  absent : Bool
  used   : Nat
  pos    : Nat
deriving DecidableEq, Repr

/-- The order of R133. -/
def SpillCand.before (a b : SpillCand) : Bool :=
  if a.absent != b.absent then a.absent
  else if a.used != b.used then decide (a.used < b.used)
  else decide (a.pos ≤ b.pos)

/-- Candidates of a cache: pages in HBM of live sequences outside the table `keep`, in order. -/
def spillCands (s : State) (p : CachePool) (keep next : List Nat) : List SpillCand :=
  sortBy SpillCand.before ((p.records.filter fun r => !keep.contains r).flatMap fun r =>
    let h := headAt s r
    ((List.range h.pages).filter fun i => (pageEntAt s (entAddr h i)).state == 0).map fun i =>
      ⟨r, i, !next.contains r, h.lastUse, (pageEntAt s (entAddr h i)).pos⟩)

/-- Spill one page; a failed spill leaves it in HBM. -/
def spillPage (s : State) (x : Nat) (p : CachePool) (k : SpillCand) : State :=
  let p := poolNow s x p
  let a := entAddr (headAt s k.head) k.index
  let e := pageEntAt s a
  let n := (cacheAt s p.desc).pageSize (pageTokens e.size)
  match (allocPage s p true n).bind fun dst => (movePage s e.addr dst n).map fun s => (dst, s) with
  | none => s
  | some (dst, s) => bump (writePageEnt s a { e with addr := dst, state := 1 }) .attSpillCnt

/-- Spill candidates in order until the HBM pool has what is needed. -/
def spillUntil (x : Nat) (p : CachePool) (enough : State → CachePool → Bool) : List SpillCand → State → State
  | [], s => s
  | k :: ks, s => if enough s (poolNow s x p) then s else spillUntil x p enough ks (spillPage s x p k)

/-- Bring one spilled page back; none when it finds no room. -/
def bringPage (s : State) (x : Nat) (p : CachePool) (a : Nat) : Option State :=
  let e := pageEntAt s a
  let n := (cacheAt s p.desc).pageSize (pageTokens e.size)
  (allocPage s (poolNow s x p) false n).bind fun dst =>
    (movePage s e.addr dst n).map fun s => writePageEnt s a { e with addr := dst, state := 0 }

/-- Heads of a table's entries in a cache. -/
def tableHeads (es : List RagEntry) (slot : Nat) : List Nat := es.map fun e => headAddr e.pageRec slot

/-- The table that a table's NEXT names; none when it is not known. One that lies outside the context's bounds counts as not
known (DESIGN CHOICE, log entry 135). -/
def nextEntries (s : State) (x a : Nat) : List RagEntry :=
  let n := ragNext s a
  if n = 0 || extentOutside s x (ext false n 64) || extentOutside s x (tableExt s n) then [] else ragEntries s n

/-! ## The checks at the boundary (R118, R127, R131, R251) -/

/-- TOKENS of a sequence once step 1 has run. -/
def tokensAfter (s : State) (x : Nat) (p : CachePool) (rec : Nat) : Nat :=
  match (liveEntries s x).find? fun e => e.pageRec == rec && p.records.contains (headAddr rec p.slot) with
  | some e => e.cachePos + e.len
  | none => (headAt s (headAddr rec p.slot)).tokens

/-- A record's faults in one cache. R127 gives CAP no outcome of its own: a capacity below the pages that the entry needs is a fault
of the record, BAD_DESC (DESIGN CHOICE, log entry 135). -/
def recordFault (s : State) (x : Nat) (p : CachePool) (e : RagEntry) : Bool :=
  let a := headAddr e.pageRec p.slot
  let h := headAt s a
  let live := p.records.contains a
  !headOk s a || decide (h.cap < h.pages)
    || (if e.join then live || h.tokens != 0 || h.pages != 0 || e.cachePos != 0
        else !live || e.cachePos != tokensAfter s x p e.pageRec)
    || decide (h.cap < (pageSlots (cacheAt s p.desc) (e.cachePos + e.len)).length)

/-- The adapter of an entry is not LIVE in the context (R251). -/
def adapterFault (s : State) (x : Nat) (e : RagEntry) : Bool :=
  e.adpV && !((adp s e.adapter).state == .live && (adp s e.adapter).owner == x)

/-- Ascending START, no overlap, within TOKENS. -/
def entriesSorted (tokens : Nat) : List RagEntry → Bool
  | [] => true
  | e :: es => decide (e.start + e.len ≤ tokens)
      && (match es with | [] => true | f :: _ => decide (e.start + e.len ≤ f.start)) && entriesSorted tokens es

/-- The caches of a staged ADMIT as they stand. -/
def admPools (s : State) (x : Nat) (d : Desc) : List CachePool := (admCaches d).map fun p => poolOf s x p.1 p.2

/-- The first fault of the table and its records; none when the admission may be performed. -/
def admitFault (s : State) (x : Nat) (d : Desc) : Option Nat :=
  let a := admTable d
  let ps := admPools s x d
  if extentOutside s x (ext true a 64) then some stBounds
  else if !ragHeaderOk s a || decide (4096 < ragCount s a) then some stBadDesc
  else if extentOutside s x (tableExt s a) then some stBounds
  else
    let es := ragEntries s a
    let recs := es.map (·.pageRec)
    let heads := es.flatMap fun e => ps.map fun p => ext true (headAddr e.pageRec p.slot) 64
    if (es.any fun e => e.reserved || (e.leave && e.len != 0)) || !entriesSorted (ragTokens s a) es
        || dedup recs != recs || es.any (adapterFault s x) then some stBadDesc
    else if heads.any (extentOutside s x) then some stBounds
    else if es.any (fun e => ps.any fun p => recordFault s x p e) then some stBadDesc
    else
      let arrays := es.flatMap fun e => ps.map fun p =>
        let h := headAt s (headAddr e.pageRec p.slot)
        ext true h.entries (16 * h.cap)
      planFails s x ⟨[], tableExt s a :: heads ++ arrays⟩

/-! ## Performing the admission (R131) -/

/-- Step 1: TOKENS of the outgoing table. -/
def settleTokens (s : State) (x : Nat) (p : CachePool) : State :=
  (liveEntries s x).foldl (fun s e =>
    let a := headAddr e.pageRec p.slot
    if p.records.contains a then writeHead s a { headAt s a with tokens := e.cachePos + e.len } else s) s

/-- Step 2: pages of the LEAVE entries are free, and their records leave the cache. -/
def freeLeaves (s : State) (x : Nat) (p : CachePool) (es : List RagEntry) : State :=
  let p := poolNow s x p
  let gone := tableHeads (es.filter (·.leave)) p.slot
  let s := (p.records.filter gone.contains).foldl (fun s a => writeHead s a { headAt s a with pages := 0 }) s
  setRecords s x p (p.records.filter fun a => !gone.contains a)

/-- Sizes of the pages of HBM that serving an entry takes from a cache, in the order of step 4. -/
def entryNeeds (s : State) (p : CachePool) (e : RagEntry) : List Nat :=
  let c := cacheAt s p.desc
  let h := headAt s (headAddr e.pageRec p.slot)
  let held := if p.records.contains (headAddr e.pageRec p.slot) then pageEnts s h else []
  let back := (held.filter fun e => e.state == 1).map (·.size)
  let fresh := ((pageSlots c (e.cachePos + e.len)).drop held.length).map Prod.snd
  (back ++ fresh).map fun v => c.pageSize (pageTokens v)

/-- Step 3: spill until the pool can hold what step 4 needs; `order` lists the entries as step 4 takes them. -/
def spillFor (s : State) (x : Nat) (p : CachePool) (es order next : List RagEntry) : State :=
  let p := poolNow s x p
  if bitOf s.attCtl 1 then
    let sizes := (order.filter fun e => !e.leave).flatMap (entryNeeds s p)
    spillUntil x p (fun s q => hbmHolds s q sizes) (spillCands s p (tableHeads es p.slot) (tableHeads next p.slot)) s
  else s

/-- How serving an entry ends. -/
inductive Served where
  | fits (s : State)
  | defers
  | fails (page : Nat)

/-- Bring back the spilled pages of a sequence; a page of `lost` cannot be read back (R132). -/
def bringAll (x : Nat) (p : CachePool) (lost : List Nat) : List Nat → State → Served
  | [], s => .fits s
  | a :: as, s =>
    let e := pageEntAt s a
    if e.state != 1 then bringAll x p lost as s
    else if lost.contains e.addr then .fails e.addr
    else match bringPage s x p a with
      | none => .defers
      | some s => bringAll x p lost as (bump s .attLateCnt)

/-- Give a page's bytes to a sequence as zeros, so that every scale is unset and every element under it zero (R126; DESIGN
CHOICE, log entry 136). -/
def clearPage (s : State) (a n : Nat) : State :=
  (List.range (ceilDiv (a + n) slabBytes - a / slabBytes)).foldl (fun s k => slabWritten s (a / slabBytes + k)) (zeroExtent s a n)

/-- Allocate the pages that a sequence does not have yet. -/
def growPages (x : Nat) (p : CachePool) (head : Nat) : List (Nat × Nat) → State → Served
  | [], s => .fits s
  | (pos, v) :: ps, s =>
    let n := (cacheAt s p.desc).pageSize (pageTokens v)
    match allocPage s (poolNow s x p) false n with
    | none => .defers
    | some a =>
      let h := headAt s head
      let s := clearPage s a n
      growPages x p head ps (writeHead (writePageEnt s (entAddr h h.pages) ⟨a, v, 0, pos⟩) head { h with pages := h.pages + 1 })

/-- Serve an entry in one cache: LAST_USE is timebase bits [51:20]. A join beyond the 65,536 live sequences of R125 is deferred
(DESIGN CHOICE, log entry 135). -/
def serveIn (s : State) (x : Nat) (lost : List Nat) (e : RagEntry) (p : CachePool) : Served :=
  let a := headAddr e.pageRec p.slot
  let q := poolNow s x p
  if e.join && decide (65536 ≤ q.records.length) then .defers
  else
    let s := if e.join then setRecords s x p (q.records ++ [a]) else s
    let h := headAt s a
    match bringAll x p lost ((List.range h.pages).map (entAddr h)) s with
    | .defers => .defers
    | .fails b => .fails b
    | .fits s =>
      match growPages x p a ((pageSlots (cacheAt s p.desc) (e.cachePos + e.len)).drop h.pages) s with
      | .fits s => .fits (writeHead s a { headAt s a with lastUse := bitsAt (now s) 20 32 })
      | r => r

/-- Serve an entry in every cache of the ADMIT, or in none. -/
def serveAll (x : Nat) (lost : List Nat) (e : RagEntry) : List CachePool → State → Served
  | [], s => .fits s
  | p :: ps, s =>
    match serveIn s x lost e p with
    | .fits s => serveAll x lost e ps s
    | r => r

/-- DEFERRED and FAILED of a table entry. -/
def setFlags (s : State) (table i : Nat) (deferred failed : Bool) : State :=
  let a := ragEntryAddr table i + 18
  let b := (readByte s a).toNat
  storeBytes s a [BitVec.ofNat 8 (setBit (setBit b 5 deferred) 6 failed)]

/-- Step 4 for one entry; counts the deferred and the failed. -/
def serveEntry (x table : Nat) (lost : List Nat) (ps : List CachePool) (r : State × Nat × Nat) (i : Nat) : State × Nat × Nat :=
  let e := ragEntry r.1 table i
  if e.leave then (setFlags r.1 table i false false, r.2)
  else match serveAll x lost e ps r.1 with
    | .fits s => (setFlags s table i false false, r.2)
    | .defers => (setFlags r.1 table i true false, r.2.1 + 1, r.2.2)
    | .fails a => (setFlags (tierFailed r.1 x (tierSource r.1 a) a (tierSource r.1 a) 0) table i false true, r.2.1, r.2.2 + 1)

/-- The order of step 4: deadline, continuing sequences before joins, table order. -/
def serveOrder (d : Desc) (es : List RagEntry) : List Nat :=
  let at' (i : Nat) : RagEntry := es.getD i (ragEntryOf 0)
  let before (i j : Nat) : Bool :=
    if seqBefore d (at' i) (at' j) && seqBefore d (at' j) (at' i) then !(at' i).join || (at' j).join
    else seqBefore d (at' i) (at' j)
  sortBy before (List.range es.length)

/-- Prefetch of one adapter (R251): its pages rise, and its pass image is asked for when it is a registered ember object. -/
def prefetchAdapter (s : State) (x k : Nat) : State :=
  let a := adp s k
  let pages := dedup ([adpState s a, adpPass s a].flatMap fun e => pagesOf s e.lo.toNat e.len)
  wantEmber (pages.foldl (fun s p => raisePage s x p (scriptKeeps s x (ctx s x).issued)) s) x a.passAddr a.ember

/-- The adapters that a table's entries name, in ascending sequence deadline, each once. -/
def tableAdapters (d : Desc) (es : List RagEntry) : List Nat :=
  dedup ((sortBy (seqBefore d) (es.filter (·.adpV))).map (·.adapter))

/-- The staged ADMIT is performed at a step boundary; `lost` lists spilled pages that DDR does not return (R131). -/
def performAdmit (s : State) (o : OutCmd) (lost : List Nat) : State :=
  let x := o.ctx
  match admitFault s x o.d with
  | some st => complete s o st 0
  | none =>
    let a := admTable o.d
    let ps := admPools s x o.d
    let arrays := (ragEntries s a).flatMap fun e => ps.flatMap fun p =>
      let h := headAt s (headAddr e.pageRec p.slot)
      [ext true (headAddr e.pageRec p.slot) 64, ext true h.entries (16 * h.cap)]
    let s := backPlan s x ⟨[], tableExt s a :: arrays⟩
    let es := ragEntries s a
    let next := nextEntries s x a
    let s := ps.foldl (fun s p => settleTokens s x p) s
    let s := ps.foldl (fun s p => freeLeaves s x p es) s
    let order := (serveOrder o.d es).map fun i => es.getD i (ragEntryOf 0)
    let s := ps.foldl (fun s p => spillFor s x p es order next) s
    let r := (serveOrder o.d es).foldl (serveEntry x a lost ps) (s, 0, 0)
    let s := ps.foldl (fun s p => writeFree s (poolNow s x p)) r.1
    let s := modCtx s x fun c => { c with ragged := some a }
    let s := (tableAdapters o.d es).foldl (fun s k => prefetchAdapter s x k) s
    complete s o (if r.2.2 ≠ 0 then stTierFail else if r.2.1 ≠ 0 then stDeferred else stOk) (r.2.1 + r.2.2 * 65536)

/-! ## Between boundaries (R133, R134) -/

/-- Entries of the current table and of the table that it names as NEXT. -/
def currentTables (s : State) (x : Nat) : List RagEntry × List RagEntry :=
  match (ctx s x).ragged with
  | none => ([], [])
  | some a => (liveEntries s x, nextEntries s x a)

/-- Background spill of one cache: below LOW_WATER / 256 of the HBM pool, candidates go down. -/
def backgroundSpillPool (s : State) (x : Nat) (p : CachePool) : State :=
  let need := fld s.attSpill 0 8 * p.hbmLen / 256
  if bitOf s.attCtl 1 && decide (hbmFree s p < need) then
    let t := currentTables s x
    let s := spillUntil x p (fun s q => decide (need ≤ hbmFree s q)) (spillCands s p (tableHeads t.1 p.slot) (tableHeads t.2 p.slot)) s
    writeFree s (poolNow s x p)
  else s

def backgroundSpillNow (s : State) (x : Nat) : State := (ctx s x).pools.foldl (fun s p => backgroundSpillPool s x p) s

/-- Bring spilled pages back in order while the pool has room, spilling pages of sequences in neither table for them. -/
def bringInOrder (x : Nat) (p : CachePool) (keep : List Nat) : List Nat → State → State
  | [], s => s
  | a :: as, s =>
    let n := (cacheAt s p.desc).pageSize (pageTokens (pageEntAt s a).size)
    let q := poolNow s x p
    let s := if bitOf s.attCtl 1 then spillUntil x p (fun s q => hbmHolds s q [n]) (spillCands s q keep keep) s else s
    match bringPage s x p a with
    | none => s
    | some s => bringInOrder x p keep as s

/-- The spilled pages of a cache that the NEXT table's sequences hold, by sequence deadline (R134). -/
def spilledNext (s : State) (x : Nat) (p : CachePool) : List Nat :=
  let none' := descOf []
  (sortBy (seqBefore none') (currentTables s x).2).flatMap fun e =>
    let r := headAddr e.pageRec p.slot
    if p.records.contains r then
      let h := headAt s r
      ((List.range h.pages).map (entAddr h)).filter fun a => (pageEntAt s a).state == 1
    else []

def bringBackPool (s : State) (x : Nat) (p : CachePool) : State :=
  let t := currentTables s x
  let s := bringInOrder x p (tableHeads (t.1 ++ t.2) p.slot) (spilledNext s x p) s
  writeFree s (poolNow s x p)

def bringBackNow (s : State) (x : Nat) (undecodable : List Nat) : State :=
  if bitOf s.attCtl 2 then
    (ctx s x).pools.foldl (fun s p => bringBackPool s x p) (undecodable.foldl (fun s a => slabUndecodable s (some x) a) s)
  else s

end Sys2Proof.Machine
end

