-- ==== Sys2Proof/Machine/Vec.lean ====
section
/-! DEFINITION. The vector commands that read and write tensors: elementwise, norms, row operations, reductions
(R102 to R106, R228). -/

namespace Sys2Proof.Machine

/-! ## The descriptor (R102) -/

def vecATid (d : Desc) : Nat := fld d.w2 12 12
def vecBTid (d : Desc) : Nat := fld d.w2 24 12
def vecDTid (d : Desc) : Nat := fld d.w2 36 12
def vecRows (d : Desc) : Nat := fld d.w3 0 16
def vecCols (d : Desc) : Nat := fld d.w3 16 16
def vecImm0 (d : Desc) : Fv := ofBits32 (fld d.w3 32 32)
def vecImm1 (d : Desc) : Fv := ofBits32 (fld d.w4 0 32)
def vecA (d : Desc) : Nat := fld d.w5 0 48
def vecB (d : Desc) : Nat := fld d.w6 0 48
def vecD (d : Desc) : Nat := fld d.w7 0 48

/-- The shape of operand B, by operation: rows and columns; none where B is unused or a parameter block (R103). -/
def vecBShape (op : RingOp) (r c : Nat) : Option (Nat × Nat) :=
  match op with
  | .add | .mul | .axpby | .reluBwd | .geluBwd | .siluBwd => some (r, c)
  | .rmsnorm => some (1, c)
  | .layernorm => some (2, c)
  | .expSub | .rowdiv => some (r, 1)
  | _ => none

/-- The shape of result D; none for a scalar (R103). -/
def vecDShape (op : RingOp) (r c : Nat) : Option (Nat × Nat) :=
  match op with
  | .transpose => some (c, r)
  | .rowmax | .rowsum => some (r, 1)
  | .sum | .sumsq | .amax => none
  | _ => some (r, c)

/-- Row statistics: FP32 values per row (R102, R103). -/
def vecStats : RingOp → Nat
  | .rmsnorm => 1
  | .layernorm => 2
  | _ => 0

/-! ## Checks (R102, R103, R106) -/

/-- An extent outside the executing cluster's scratch and its region's SRAM. -/
def vecStray (s : State) (d : Desc) (es : List Ext) : Bool := es.any fun e => !inClusterStores s d e

/-- Bytes of a row-major operand under a tensor id: its block scales, and the flags of a coded one (R52, R102). -/
def vecBytes (s : State) (x tid a r c : Nat) : Nat :=
  let t := tensorAt s x tid a
  sized t.fmt (savedBytes t a (rowBytes t.fmt a r c))

/-- Where D's extent ends, and its row statistics begin (R102). -/
def vecDBytes (s : State) (x : Nat) (op : RingOp) (d : Desc) : Nat :=
  match vecDShape op (vecRows d) (vecCols d) with
  | some (r, c) => vecBytes s x (vecDTid d) (vecD d) r c
  | none => 4

def vecStatAddr (s : State) (x : Nat) (op : RingOp) (d : Desc) : Nat := roundUp (vecD d + vecDBytes s x op d) 64

/-- The extents that the descriptor names. -/
def vecExts (s : State) (x : Nat) (op : RingOp) (d : Desc) : List Ext :=
  let r := vecRows d
  let c := vecCols d
  ext false (vecA d) (vecBytes s x (vecATid d) (vecA d) r c)
    :: (match vecBShape op r c with
        | some (br, bc) => [ext false (vecB d) (vecBytes s x (vecBTid d) (vecB d) br bc)]
        | none => [])
    ++ [ext true (vecD d) (vecDBytes s x op d), ext true (vecStatAddr s x op d) (4 * vecStats op * r)]

/-- A written extent meets a read one. -/
def selfOverlap (s : State) (es : List Ext) : Bool :=
  let rs := es.map (Ext.resolved s)
  rs.any fun r => r.write && rs.any fun a => !a.write && r.meets a

/-- The violations of the descriptor and its entries. -/
def vecStatic (s : State) (x : Nat) (op : RingOp) (d : Desc) : List Nat :=
  tidRead s x (vecATid d)
    ++ (if (vecBShape op 0 0).isSome then tidRead s x (vecBTid d) else [])
    ++ (if (vecDShape op 0 0).isSome then tidWrite s x (vecDTid d) else [])
    ++ whenV (op == .transpose && (vecRows d % 128 != 0 || vecCols d % 128 != 0)) stBadDesc

/-- A row or column count of 0 (R106). -/
def vecZero (d : Desc) : Bool := vecRows d == 0 || vecCols d == 0

/-- VEC's checks. An UNSUPPORTED or a stray extent hides no BAD_DESC of another (R10); a command without work is judged by its
descriptor and its entries alone (R106). -/
def planVec (op : RingOp) (s : State) (x : Nat) (d : Desc) : Plan :=
  let st := vecStatic s x op d
  if st.contains stBadDesc || vecZero d then planV st
  else
    let es := vecExts s x op d
    ⟨st ++ whenV (selfOverlap s es) stBadDesc ++ whenV (vecStray s d es) stBounds, es⟩

/-! ## Values (R103, R104) -/

/-- The elementwise operations, on FP32 values. -/
def elementwise (op : RingOp) (i0 i1 a b : Fv) : Fv :=
  match op with
  | .add => fadd a b
  | .mul => fmul a b
  | .axpby => fadd (fmul i0 a) (fmul i1 b)
  | .scale => fmul i0 a
  | .relu => fRelu a
  | .gelu => fGelu a
  | .silu => fSilu a
  | .reluBwd => if flt .zero a then b else .zero
  | .geluBwd => fmul (fGeluD a) b
  | .siluBwd => fmul (fSiluD a) b
  | .expSub => fexp (fmul (fsub a b) i0)
  | .rowdiv => fmul a (frecip b)
  | _ => a

/-- RMSNORM's row statistic (R104). -/
def rmsStat (eps : Fv) (vs : List Fv) : Fv := frsqrt (fadd (fMean (vs.map fun v => fmul v v)) eps)

/-- LAYERNORM's mean and reciprocal root (R104). -/
def lnStat (eps : Fv) (vs : List Fv) : Fv × Fv :=
  let mu := fMean vs
  (mu, frsqrt (fadd (fMean (vs.map fun v => fmul (fsub v mu) (fsub v mu))) eps))

/-- The largest magnitude among finite values, +0 when there is none (R103). -/
def fAmax (vs : List Fv) : Fv := vs.foldl (fun m v => if v.isFinite && flt m v.abs then v.abs else m) .zero

/-- An element of a VEC operand widened to FP32 (R102); a coded one is restored (R52). -/
def vecElem (s : State) (x tid a rows cols i j : Nat) : Fv × Bool :=
  let t := tensorAt s x tid a
  let e := rowElem (savedView s t (rowLay t.fmt a rows cols) a) t a rows cols i j
  (round32 e.1, e.2)

/-- A row-major result under a tensor id, a kept one coded (R52, R102). -/
def outVec (s : State) (x tid a rows cols : Nat) (index : Nat → Nat → Nat) (val : Nat → Nat → Fv × Bool) : Out :=
  let t := tensorAt s x tid a
  savedOut s t (rowLay t.fmt a rows cols) a (outRows t (srKey s x tid) a rows cols index val)

/-- A row of operand A. -/
def vecRowA (s : State) (x : Nat) (d : Desc) (i : Nat) : List (Fv × Bool) :=
  (List.range (vecCols d)).map fun j => vecElem s x (vecATid d) (vecA d) (vecRows d) (vecCols d) i j

/-- FP32 values under no tensor id; a non-finite one counts as written (R94). -/
def outStats (a : Nat) (vs : List (Fv × Bool)) : Out :=
  let o := outF32 a vs
  { o with stats := { Stats.empty with wrote := vs.any fun v => !v.1.isFinite } }

/-! ## Results -/

/-- The element (i, j) of D and its poison. -/
def vecValue (s : State) (x : Nat) (op : RingOp) (d : Desc) (i j : Nat) : Fv × Bool :=
  let r := vecRows d
  let c := vecCols d
  let a (i j : Nat) := vecElem s x (vecATid d) (vecA d) r c i j
  let row := vecRowA s x d i
  let bad := row.any (·.2)
  match op with
  | .transpose => a j i
  | .rowmax => (reduceMax (row.map (·.1)), bad)
  | .rowsum => (reduceSum (row.map (·.1)), bad)
  | .rmsnorm =>
    let g := vecElem s x (vecBTid d) (vecB d) 1 c 0 j
    let gbad := (List.range c).any fun k => (vecElem s x (vecBTid d) (vecB d) 1 c 0 k).2
    (fmul (fmul (a i j).1 (rmsStat (vecImm0 d) (row.map (·.1)))) g.1, bad || gbad)
  | .layernorm =>
    let g := vecElem s x (vecBTid d) (vecB d) 2 c 0 j
    let b := vecElem s x (vecBTid d) (vecB d) 2 c 1 j
    let gbad := (List.range (2 * c)).any fun k => (vecElem s x (vecBTid d) (vecB d) 2 c (k / c) (k % c)).2
    let st := lnStat (vecImm0 d) (row.map (·.1))
    (fadd (fmul (fmul (fsub (a i j).1 st.1) st.2) g.1) b.1, bad || gbad)
  | _ =>
    match vecBShape op r c with
    | none => (elementwise op (vecImm0 d) (vecImm1 d) (a i j).1 .zero, (a i j).2)
    | some (br, bc) =>
      let b := vecElem s x (vecBTid d) (vecB d) br bc i (if bc = 1 then 0 else j)
      (elementwise op (vecImm0 d) (vecImm1 d) (a i j).1 b.1, (a i j).2 || b.2)

/-- The scalar results (R103). -/
def vecScalar (s : State) (x : Nat) (op : RingOp) (d : Desc) : Fv × Bool :=
  let es := (List.range (vecRows d)).flatMap fun i => vecRowA s x d i
  let vs := es.map (·.1)
  let v := match op with
    | .sum => reduceSum vs
    | .sumsq => reduceSum (vs.map fun v => fmul v v)
    | _ => fAmax vs
  (v, es.any (·.2))

/-- The row statistics of RMSNORM and LAYERNORM (R102, R103). -/
def vecRowStats (s : State) (x : Nat) (op : RingOp) (d : Desc) : List (Fv × Bool) :=
  (List.range (vecRows d)).flatMap fun i =>
    let row := vecRowA s x d i
    let bad := row.any (·.2)
    match op with
    | .rmsnorm => [(rmsStat (vecImm0 d) (row.map (·.1)), bad)]
    | .layernorm =>
      let st := lnStat (vecImm0 d) (row.map (·.1))
      [(st.1, bad), (st.2, bad)]
    | _ => []

/-- VEC, its checks passed. -/
def runVec (op : RingOp) (s : State) (o : OutCmd) : State :=
  let d := o.d
  let x := o.ctx
  if vecZero d then complete s o stOk 0
  else match vecDShape op (vecRows d) (vecCols d) with
    | none =>
      let r := landOut s x d.tag (evalPhase d) (outStats (vecD d) [vecScalar s x op d])
      complete r.1 o (workStatus r.2.1 r.2.2) 0
    | some (rows, cols) =>
      let body := outVec s x (vecDTid d) (vecD d) rows cols (fun i j => i * vecCols d + j) (vecValue s x op d)
      let stats := outStats (vecStatAddr s x op d) (vecRowStats s x op d)
      let r := landTensor s x d.tag (evalPhase d) (tensorAt s x (vecDTid d) (vecD d)) body
      let q := landOut r.1 x d.tag (evalPhase d) stats
      complete q.1 o (workStatus (r.2.1 || q.2.1) (r.2.2 || q.2.2)) 0

/-! ## Norm backward (R228) -/

/-- The 64-byte parameter block. -/
def normBlock (s : State) (d : Desc) : List Word := (List.range 8).map fun i => readWord s (vecB d + 8 * i)

/-- Bytes of the row statistics that the forward command wrote. -/
def normStatBytes (ln : Bool) (rows : Nat) : Nat := (if ln then 8 else 4) * rows

/-- Every reserved bit of the block is 0, and DBIAS_ADDR is for LAYERNORM only. -/
def normBlockOk (ln : Bool) (b : List Word) : Bool :=
  fld (b.getD 0 0) 60 4 == 0 && ([1, 2, 3, 4].all fun i => fld (b.getD i 0) 48 16 == 0)
    && ([5, 6, 7].all fun i => b.getD i 0 == 0) && (ln || b.getD 4 0 == 0)

/-- The extents that the block names. -/
def normExts (s : State) (x : Nat) (ln : Bool) (d : Desc) (b : List Word) : List Ext :=
  let r := vecRows d
  let c := vecCols d
  let xa := fld (b.getD 0 0) 0 48
  let ga := fld (b.getD 1 0) 0 48
  let acc (i : Nat) : Ext := let a := fld (b.getD i 0) 0 48; ext true a (if a = 0 then 0 else 4 * c)
  [ext false xa (vecBytes s x (fld (b.getD 0 0) 48 12) xa r c),
   ext false ga (vecBytes s x (vecBTid d) ga (if ln then 2 else 1) c),
   ext false (fld (b.getD 2 0) 0 48) (normStatBytes ln r), acc 3, acc 4]

/-- The checks of a norm backward. Its parameter block is judged where it can be read, and its operands are judged whatever
their block shows (R10). -/
def planNormBwd (ln : Bool) (s : State) (x : Nat) (d : Desc) : Plan :=
  let pb := ext false (vecB d) 64
  let inside := inClusterStores s d pb && !extentOutside s x pb
  let b := normBlock s d
  let st := tidRead s x (vecATid d) ++ tidRead s x (vecBTid d) ++ tidWrite s x (vecDTid d)
    ++ (if inside then whenV (!normBlockOk ln b) stBadDesc ++ tidRead s x (fld (b.getD 0 0) 48 12) else [])
  if st.contains stBadDesc || vecZero d then planV st
  else
    let r := vecRows d
    let c := vecCols d
    let own := [ext false (vecA d) (vecBytes s x (vecATid d) (vecA d) r c),
                ext true (vecD d) (vecBytes s x (vecDTid d) (vecD d) r c), pb]
    let named := if inside then normExts s x ln d b else []
    let es := own ++ named
    ⟨st ++ whenV (selfOverlap s es) stBadDesc
      ++ whenV (vecStray s d es || (named.drop 3).any fun e => !e.empty && !inRegionOf s d e) stBounds, es⟩

/-- What one row needs: x̂, dŷ × gain, the saved root, and its poison. -/
structure NormRow where
  dy  : List Fv
  xh  : List Fv
  dxh : List Fv
  r   : Fv
  bad : Bool
deriving DecidableEq, Repr

def normRow (s : State) (x : Nat) (ln : Bool) (d : Desc) (b : List Word) (i : Nat) : NormRow :=
  let rows := vecRows d
  let c := vecCols d
  let xtid := fld (b.getD 0 0) 48 12
  let xa := fld (b.getD 0 0) 0 48
  let ga := fld (b.getD 1 0) 0 48
  let sa := fld (b.getD 2 0) 0 48 + i * (if ln then 8 else 4)
  let mu := if ln then ofBits32 (readLe s sa 4) else .zero
  let r := ofBits32 (readLe s (if ln then sa + 4 else sa) 4)
  let dys := vecRowA s x d i
  let xs := (List.range c).map fun j => vecElem s x xtid xa rows c i j
  let gs := (List.range c).map fun j => vecElem s x (vecBTid d) ga (if ln then 2 else 1) c 0 j
  let dy := dys.map (·.1)
  { dy := dy
    xh := xs.map fun v => fmul (fsub v.1 mu) r
    dxh := (dy.zip gs).map fun p => fmul p.1 p.2.1
    r := r
    bad := dys.any (·.2) || xs.any (·.2) || gs.any (·.2) || anyPoison s sa (if ln then 8 else 4) }

/-- A row of dX (R228). -/
def normDx (ln : Bool) (n : NormRow) : List Fv :=
  let m2 := fMean ((n.dxh.zip n.xh).map fun p => fmul p.1 p.2)
  let m1 := fMean n.dxh
  (n.dxh.zip n.xh).map fun p =>
    let base := if ln then fsub p.1 m1 else p.1
    fmul n.r (fsub base (fmul p.2 m2))

/-- Column sums added to an FP32 accumulator (R167, R228). -/
def accColumns (s : State) (a c : Nat) (bad : Bool) (sums : Nat → Fv) : Out :=
  if a = 0 then Out.empty
  else outStats a ((List.range c).map fun j =>
    (fadd (ofBits32 (readLe s (a + 4 * j) 4)) (sums j), bad || poisoned s (a + 4 * j)))

def runNormBwd (ln : Bool) (s : State) (o : OutCmd) : State :=
  let d := o.d
  let x := o.ctx
  if vecZero d then complete s o stOk 0
  else
    let b := normBlock s d
    let ns := (List.range (vecRows d)).map (normRow s x ln d b)
    let dx := ns.map (normDx ln)
    let blank : NormRow := ⟨[], [], [], .zero, false⟩
    let body := outVec s x (vecDTid d) (vecD d) (vecRows d) (vecCols d) (fun i j => i * vecCols d + j) fun i j => ((dx.getD i []).getD j .zero, (ns.getD i blank).bad)
    let bad := ns.any (·.bad)
    let gain := accColumns s (fld (b.getD 3 0) 0 48) (vecCols d) bad fun j =>
      reduceSum (ns.map fun n => fmul (n.dy.getD j .zero) (n.xh.getD j .zero))
    let bias := accColumns s (fld (b.getD 4 0) 0 48) (vecCols d) bad fun j =>
      reduceSum (ns.map fun n => n.dy.getD j .zero)
    let r := landTensor s x d.tag (evalPhase d) (tensorAt s x (vecDTid d) (vecD d)) body
    let q := landOut r.1 x d.tag (evalPhase d) (gain.join bias)
    complete q.1 o (workStatus (r.2.1 || q.2.1) (r.2.2 || q.2.2)) 0

end Sys2Proof.Machine
end

