-- ==== Sys2Proof/Machine/Optim.lean ====
section
/-! DEFINITION. Deferred commands: SCALE_SET and the optimizer operations, at acceptance and at the commit, and
the scale table at a boundary (R45 to R49, R217, R218, R221, R225 to R227, R252). -/

namespace Sys2Proof.Machine

/-! ## The journal (R217) -/

def journalAddr (s : State) (x : Nat) : Nat := rf s (.ctxCxJournal x) 0 48

def journalLen (s : State) (x : Nat) : Nat := rf s (.ctxCxJournal x) 48 16 + 1

/-- CTX_CX_JRNL_STAT.USED counts the entries held. -/
def refreshUsed (s : State) (x : Nat) : State := setRf s (.ctxCxJrnlStat x) 0 17 (ctx s x).journal.length

/-- The 64 bytes of a descriptor. -/
def descBytes (d : Desc) : List Byte := d.words.flatMap fun w => leBytes 8 w.toNat

/-- Append an entry: none when the journal is full or its page cannot be backed. The entry's 256 bytes hold the
descriptor and, from byte 64, the block or image (DEDUCED, log entry 28). -/
def journalAdd (s : State) (x : Nat) (d : Desc) (block : List Byte) (e : JEntry) : Option State :=
  let used := (ctx s x).journal.length
  if journalLen s x ≤ used then none
  else
    let a := journalAddr s x + 256 * used
    (backPages s x (pagesOf s a 256)).map fun s =>
      let body := descBytes d ++ block
      let s := storeBytes s a (body ++ List.replicate (256 - body.length) 0)
      refreshUsed (modCtx s x fun c => { c with journal := c.journal ++ [e] }) x

/-- A deferred command is accepted: journalled and OK, or QUOTA (R217). -/
def acceptDeferred (s : State) (o : OutCmd) (block : List Byte) (poison : Bool) (e : JEntry) : State :=
  let a := journalAddr s o.ctx + 256 * (ctx s o.ctx).journal.length
  match journalAdd s o.ctx o.d block e with
  | some s => complete (if poison then poisonExtent s (a + 64) block.length else s) o (workStatus poison false) 0
  | none => complete s o stQuota 0

/-- A line of the journal's entry i is poisoned (R221). -/
def journalBad (s : State) (x i : Nat) : Bool := anyPoison s (journalAddr s x + 256 * i) 256

/-! ## SCALE_SET (R45, R46, R103) -/

def planScaleSet (s : State) (x : Nat) (d : Desc) : Plan :=
  let e := ext false (vecA d) 32
  if vecZero d then planV []
  else if !inClusterStores s d e || extentOutside s x e then planV [stBounds]
  else
    ⟨entryViolations (readLe s (vecA d) 32), [e]⟩

def runScaleSet (s : State) (o : OutCmd) : State :=
  let image := readBytes s (vecA o.d) 32
  if vecZero o.d then complete s o stOk 0
  else acceptDeferred s o image (anyPoison s (vecA o.d) 32) (.scaleSet (vecDTid o.d) image)

/-! ## The optimizer block (R226) -/

def optBlock (s : State) (a : Nat) : List Byte := readBytes s a 128

def optWord (b : List Byte) (i : Nat) : Nat := leNat ((b.drop (8 * i)).take 8)

def optMaster (b : List Byte) : Nat := bitsAt (optWord b 0) 0 48
def optM1 (b : List Byte) : Nat := bitsAt (optWord b 1) 0 48
def optM2 (b : List Byte) : Nat := bitsAt (optWord b 2) 0 48
def optWork (b : List Byte) : Nat := bitsAt (optWord b 3) 0 48
def optPass (b : List Byte) : Nat := bitsAt (optWord b 4) 0 48
/-- Tensor ids of MASTER, M1, M2, WORK and PASS, by place. -/
def optTid (b : List Byte) (i : Nat) : Nat := bitsAt (optWord b 5) (12 * i) 12
def optLr (b : List Byte) : Fv := ofBits32 (bitsAt (optWord b 6) 0 32)
def optWd (b : List Byte) : Fv := ofBits32 (bitsAt (optWord b 6) 32 32)
def optB1 (b : List Byte) : Fv := ofBits32 (bitsAt (optWord b 7) 0 32)
def optB2 (b : List Byte) : Fv := ofBits32 (bitsAt (optWord b 7) 32 32)
def optEps (b : List Byte) : Fv := ofBits32 (bitsAt (optWord b 8) 0 32)
def optGmul (b : List Byte) : Fv := ofBits32 (bitsAt (optWord b 8) 32 32)
def optGmulAddr (b : List Byte) : Nat := bitsAt (optWord b 9) 0 48

/-- Reserved bits of the block are 0. -/
def optReservedOk (b : List Byte) : Bool :=
  ([0, 1, 2, 3, 4, 9].all fun i => bitsAt (optWord b i) 48 16 == 0) && bitsAt (optWord b 5) 60 4 == 0
    && [10, 11, 12, 13, 14, 15].all fun i => optWord b i == 0

/-- Finite parameters, betas in [0, 1), EPS above 0 where R226 asks it. -/
def optParamsOk (sgd : Bool) (b : List Byte) : Bool :=
  let inUnit (v : Fv) : Bool := !flt v .zero && flt v .one
  ([optLr b, optWd b, optB1 b, optB2 b, optEps b, optGmul b].all Fv.isFinite) && inUnit (optB1 b) && inUnit (optB2 b)
    && (sgd || flt .zero (optEps b))

/-- A state tensor in its role: address, tensor id, class, formats, whether the block uses it. -/
structure OptRole where
  addr : Nat
  tid  : Nat
  cls  : Nat
  fmts : List Nat
  used : Bool
deriving DecidableEq, Repr

def optRoles (sgd : Bool) (b : List Byte) : List OptRole :=
  [⟨optMaster b, optTid b 0, 3, [0], true⟩, ⟨optM1 b, optTid b 1, 3, [0, 1], true⟩,
   ⟨optM2 b, optTid b 2, 3, [0, 1], !sgd⟩, ⟨optWork b, optTid b 3, 0, List.range 12, optWork b != 0⟩,
   ⟨optPass b, optTid b 4, 0, List.range 12, optPass b != 0⟩]

/-- Violations of one role (R226). -/
def roleViolations (s : State) (x : Nat) (r : OptRole) : List Nat :=
  if r.used then
    let t := tensor s x r.tid
    tidWrite s x r.tid ++ whenV (t.cls != r.cls || (decide (t.fmt < 12) && !r.fmts.contains t.fmt)) stBadDesc
  else whenV (r.tid != 0) stBadDesc

/-- Some two extents of a list share a byte. -/
def anyOverlap (es : List Ext) : Bool :=
  (List.range es.length).any fun i => (es.drop (i + 1)).any fun b => (es.getD i ⟨0, -1, 0, false, []⟩).meets b

/-- R252: an entry whose master meets a LIVE adapter's master; its moments are BF16, as the adapter's parts are (R238). -/
def optAdapterOk (s : State) (x : Nat) (b : List Byte) (bytes : Nat) : Bool :=
  let master := ext true (optMaster b) bytes
  s.adapters.all fun p =>
    let a := p.2
    let np := adapterParams s a.owner (adpLayout s a)
    let whole := ext true a.stAddr (4 * np)
    if a.state == .live && master.meets whole then
      let i := (optMaster b - a.stAddr) / 4
      decide (whole.lo ≤ master.lo) && decide (master.hi ≤ whole.hi) && (optMaster b - a.stAddr) % 4 == 0
        && optM1 b == a.stAddr + 4 * np + 2 * i && optM2 b == a.stAddr + 6 * np + 2 * i
        && (tensor s x (optTid b 1)).fmt == 1 && (tensor s x (optTid b 2)).fmt == 1
        && optWork b == 0 && optPass b == 0 && decide (a.version < 2 ^ 48 - 1)
    else true

def planOpt (op : RingOp) (s : State) (x : Nat) (d : Desc) : Plan :=
  let sgd := op == .sgdMom
  let fixed := whenV (vecDTid d != 0 || vecD d != 0 || fld d.w3 32 32 != 0 || fld d.w4 0 32 != 0) stBadDesc
    ++ tidRead s x (vecATid d) ++ whenV ((tensor s x (vecATid d)).cls != 2) stBadDesc
  let pb := ext false (vecB d) 128
  if extentOutside s x pb then planV (fixed ++ whenV (!vecZero d) stBounds)
  else
    let b := optBlock s (vecB d)
    let roles := optRoles sgd b
    let st := fixed ++ whenV (!optReservedOk b || (optM2 b == 0) != sgd || !optParamsOk sgd b) stBadDesc
      ++ roles.flatMap (roleViolations s x)
    if !st.isEmpty then planV st
    else if vecZero d then planV []
    else
      let homes := (roles.filter (·.used)).map fun r => ext true r.addr (rowBytes (tensor s x r.tid).fmt r.addr (vecRows d) (vecCols d))
      let gm := if optGmulAddr b = 0 then [] else [ext false (optGmulAddr b) 4]
      let es := ext false (vecA d) (vecBytes s x (vecATid d) (vecA d) (vecRows d) (vecCols d)) :: homes ++ gm
      ⟨whenV (anyOverlap (es.map (Ext.resolved s)) || !optAdapterOk s x b (4 * vecRows d * vecCols d)) stBadDesc, pb :: es⟩

def runOpt (op : RingOp) (s : State) (o : OutCmd) : State :=
  if vecZero o.d then complete s o stOk 0
  else
    let b := optBlock s (vecB o.d)
    acceptDeferred s o b (anyPoison s (vecB o.d) 128) (.opt op o.d b)

/-! ## The commit of an optimizer entry (R221, R227) -/

/-- What one element becomes. -/
structure OptElem where
  w   : Fv
  m   : Fv
  v   : Fv
  bad : Bool
deriving DecidableEq, Repr

/-- What is formed once per command: the multiplier, 1 - β, and the reciprocals of c1 and c2. -/
structure OptOnce where
  gmul : Fv
  om1  : Fv
  om2  : Fv
  c1   : Fv
  c2   : Fv
  bad  : Bool
deriving DecidableEq, Repr

def optOnce (s : State) (b : List Byte) (step : Word) : OptOnce :=
  let ga := optGmulAddr b
  let t := round32 (.fin false (step.toNat + 1) 0)
  let c (beta : Fv) : Fv := fsub .one (fexp (fmul t (fln beta)))
  { gmul := if ga = 0 then optGmul b else ofBits32 (readLe s ga 4)
    om1 := fsub .one (optB1 b), om2 := fsub .one (optB2 b), c1 := c (optB1 b), c2 := c (optB2 b)
    bad := ga != 0 && anyPoison s ga 4 }

/-- R227 for one element. -/
def optStep (op : RingOp) (b : List Byte) (k : OptOnce) (grad w m v : Fv) : Fv × Fv × Fv :=
  let g := fmul grad k.gmul
  match op with
  | .sgdMom =>
    let g := fadd g (fmul (optWd b) w)
    let m := fadd (fmul (optB1 b) m) g
    (fsub w (fmul (optLr b) m), m, v)
  | _ =>
    let g := if op == .adam then fadd g (fmul (optWd b) w) else g
    let m := fadd (fmul (optB1 b) m) (fmul k.om1 g)
    let v := fadd (fmul (optB2 b) v) (fmul (fmul k.om2 g) g)
    let r := fdiv v k.c2
    let q := if r.isZero then Fv.zero else fmul r (frsqrt r)
    let u := fdiv (fdiv m k.c1) (fadd q (optEps b))
    let u := if op == .adamw then fadd u (fmul (optWd b) w) else u
    (fsub w (fmul (optLr b) u), m, v)

/-- The commit writes no non-finite value (R221): an overflow goes to the largest finite value of the destination,
a NaN, which the rule does not reach, takes a free finite value (DESIGN CHOICE, log entry 1). -/
def commitValue (mx : Bool) (draw i : Nat) (neg : Bool) : Fv → Fv
  | .inf n => if mx then .fin n 0xFFFFFF 104 else .fin n 1 200
  | .nan => ofBits32 ((Config.freeFp draw i).toNat % 2 ^ 30 + (if neg then 2 ^ 31 else 0))
  | v => v

/-- The amax of a conversion is at most the largest finite FP32 value, as FP32 holds it. -/
def clampAmax (o : Out) : Out :=
  let a := o.stats.amax.map fun v => if flt (.fin false 0xFFFFFF 104) v then .fin false 0xFFFFFF 104 else v
  { o with stats := { o.stats with amax := a } }

/-- Write one home of an entry; conversions count under the entry's phase (R47, R48, R229) and saturate whatever NONSAT says. -/
def commitHome (s : State) (x tid a rows cols : Nat) (eval : Bool) (val : Nat → Fv × Bool) : State × Bool :=
  let t := { tensor s x tid with nonsat := false }
  let mx := (fmtInfo t.fmt).mx
  let o := outRows t (srKey s x tid) a rows cols (fun i j => i * cols + j) fun i j =>
    let v := val (i * cols + j)
    (commitValue mx s.free (i * cols + j) false v.1, v.2)
  let o := clampAmax o
  let r := storeCells s o.cells o.bad
  (countStats r.1 x t eval o.stats, r.2)

/-- Perform an optimizer entry; `jbad` says that its lines in the journal are poisoned. Answers the state, whether a result was
poisoned, whether a frame was exhausted. -/
def commitOpt (s : State) (x : Nat) (op : RingOp) (d : Desc) (b : List Byte) (jbad : Bool) : State × Bool × Bool :=
  let rows := vecRows d
  let cols := vecCols d
  let sgd := op == .sgdMom
  let k := optOnce s b (reg s (.ctxCxStep x))
  let el (tid a i : Nat) : Fv × Bool := vecElem s x tid a rows cols (i / cols) (i % cols)
  let elems := (List.range (rows * cols)).map fun i =>
    let g := el (vecATid d) (vecA d) i
    let w := el (optTid b 0) (optMaster b) i
    let m := el (optTid b 1) (optM1 b) i
    let v := if sgd then (Fv.zero, false) else el (optTid b 2) (optM2 b) i
    let r := optStep op b k g.1 w.1 m.1 v.1
    (⟨r.1, r.2.1, r.2.2, jbad || k.bad || g.2 || w.2 || m.2 || v.2⟩ : OptElem)
  let at' (i : Nat) : OptElem := elems.getD i ⟨.zero, .zero, .zero, false⟩
  let put (p : State × Bool) (r : OptRole) (f : OptElem → Fv) : State × Bool :=
    if r.used then
      let q := commitHome p.1 x r.tid r.addr rows cols (evalPhase d) fun i => (f (at' i), (at' i).bad)
      (q.1, p.2 || q.2)
    else p
  match optRoles sgd b with
  | [r0, r1, r2, r3, r4] =>
    let p := put (put (put (put (put (s, false) r0 (·.w)) r1 (·.m)) r2 (·.v)) r3 (·.w)) r4 (·.w)
    ({ p.1 with free := p.1.free + 1 }, elems.any (·.bad), p.2)
  | _ => (s, false, false)

/-! ## The scale table at a boundary (R46, R47, R49, R221, R477) -/

/-- Replace a field of an entry in memory. -/
def setEntry (s : State) (x tid lo len v : Nat) : State :=
  storeBytes s (entryAddr s x tid) (leBytes 32 (putBits (entryBits s x tid) lo len v))

/-- The entries of a context's scale table whose AMAX_PEND is not zero: memory lists the bytes that are not. -/
def pendingAmax (s : State) (x : Nat) : List Nat :=
  let base := resolve s (entryAddr s x 0)
  dedup (s.mem.filterMap fun c =>
    let k := c.1 - base
    if base ≤ c.1 ∧ k < 131072 ∧ 8 ≤ k % 32 ∧ k % 32 < 12 then some (k / 32) else none)

/-- Clear AMAX_PEND of every entry of the table (R47 step 5, R221, R372). -/
def clearAmax (s : State) (x : Nat) : State :=
  modCtx ((pendingAmax s x).foldl (fun s t => setEntry s x t 64 32 0) s) x fun c => { c with raised := [] }

/-- The smallest k with a ≤ m × 2^k, for positive finite values. -/
def ceilRatio : Fv → Fv → Int
  | .fin _ a e, .fin _ m f =>
    let k : Int := ((Nat.log2 a : Int) + e) - ((Nat.log2 m : Int) + f)
    if magLe a e m (f + k) then k else k + 1
  | _, _ => 0

/-- Write into an extent that the device itself addresses; nothing where its page cannot be backed (R148). -/
def deviceWrite (s : State) (x a : Nat) (bytes : List Byte) : State :=
  match backPages s x (pagesOf s a bytes.length) with
  | some s => storeBytes s a bytes
  | none => s

/-- R49: the margin that AUTO_MARGIN asks for. Where evaluations alone raised the entry, TOTAL is 0, of which R49 gives no share:
it is taken as 0 (DESIGN CHOICE, log entry 139). -/
def autoMargin (s : State) (x tid : Nat) : State :=
  let n := entryBits s x tid
  let c := smGet (0, 0) (ctx s x).since tid
  let share := c.2 * 1000000 / c.1
  if n.testBit 27 && expertOn s .ctx && decide (bitsAt n 96 20 ≤ share) && decide (bitsAt n 24 3 < 7) then
    setEntry s x tid 24 3 (bitsAt n 24 3 + 1)
  else s

/-- R47 steps 2 to 4 for one entry whose HIST_BASE is nonzero (R477). What it derives from a poisoned line is poisoned, which
the flag says (R221). -/
def historyStep (s : State) (x tid : Nat) : State × Bool :=
  let n := entryBits s x tid
  let base := bitsAt n 128 48
  let len := bitsAt n 32 10 + 1
  let pos := bitsAt n 42 10 % len
  let own := anyPoison s (entryAddr s x tid) 32
  if base = 0 then (s, own)
  else
    let s := deviceWrite s x (base + 4 * pos) (leBytes 4 (bitsAt n 64 32))
    let s := if own then poisonExtent s (base + 4 * pos) 4 else s
    let s := setEntry s x tid 42 10 ((pos + 1) % len)
    let count := min len (smGet 0 (ctx s x).hist tid + 1)
    let s := modCtx s x fun c => { c with hist := smSet 0 c.hist tid count }
    let slots := (List.range count).map fun i => base + 4 * ((pos + len - i) % len)
    let bad := own || slots.any fun a => anyPoison s a 4
    let s := if bad then poisonExtent s (entryAddr s x tid) 32 else s
    let a := fAmax (slots.map fun a => ofBits32 (readLe s a 4))
    if a.isZero then (s, bad)
    else
      let e := ceilRatio a (fmtMax (fmtInfo (bitsAt n 0 4))) + (bitsAt n 24 3 : Nat)
      (setEntry s x tid 16 8 (unsigned (max (-127) (min 127 e)) 8), bad)

/-- R47 and R49 at a commit: entries raised by a conversion, then every AMAX_PEND cleared. The flag says that a poisoned line was
read. -/
def commitScales (s : State) (x : Nat) : State × Bool :=
  let tids := ((ctx s x).raised.filter (·.2)).map Prod.fst
  let r := tids.foldl (fun r t =>
    if (entryBits r.1 x t).testBit 12 then r
    else
      let q := historyStep (autoMargin r.1 x t) x t
      (q.1, r.2 || q.2)) (s, false)
  (modCtx (clearAmax r.1 x) x fun c => { c with since := [] }, r.2)

/-- Bits of an entry that SCALE_SET writes: all but HIST_POS and AMAX_PEND (R44, R103). -/
def applyImage (s : State) (x tid : Nat) (image : List Byte) : State :=
  let old := entryBits s x tid
  let new := putBits (putBits (leNat image) 42 10 (bitsAt old 42 10)) 64 32 (bitsAt old 64 32)
  let restart := bitsAt old 0 4 != bitsAt new 0 4 || bitsAt old 32 10 != bitsAt new 32 10
    || bitsAt old 128 48 != bitsAt new 128 48
  let new := if restart then putBits new 42 10 0 else new
  let s := storeBytes s (entryAddr s x tid) (leBytes 32 new)
  if restart then modCtx s x fun c => { c with hist := smSet 0 c.hist tid 0 } else s

/-- An image lands; it is poisoned with its lines in the journal, and with the entry's own, whose RO fields stay (R221). -/
def landImage (s : State) (x tid : Nat) (image : List Byte) (jbad : Bool) : State × Bool :=
  let bad := jbad || anyPoison s (entryAddr s x tid) 32
  let s := applyImage s x tid image
  (if bad then poisonExtent s (entryAddr s x tid) 32 else s, bad)

/-- The adapters whose master an entry writes (R252). -/
def entryAdapters (s : State) (b : List Byte) (bytes : Nat) : List Nat :=
  let m := ext true (optMaster b) bytes
  (s.adapters.filter fun p => p.2.state == .live
    && m.meets (ext true p.2.stAddr (4 * adapterParams s p.2.owner (adpLayout s p.2)))).map Prod.fst

/-- Advance an adapter's version by 1; its pass image falls due (R252, R253). -/
def advanceVersion (s : State) (k : Nat) : State :=
  let a := adp s k
  let s := setAdp s k { a with version := a.version + 1, rebuildDue := true }
  showVersion s a.owner k (a.version + 1)

end Sys2Proof.Machine
end

