-- ==== Sys2Proof/Machine/Coll.lean ====
section
/-! DEFINITION. The COLL commands: dense operations, expert dispatch and combine, compressed exchange, and how members
match (R191 to R198, R272 to R284). -/

namespace Sys2Proof.Machine

/-! ## The parameter block (R279) -/

structure ExpertBlock where
  logits : Nat
  map    : Nat
  assign : Nat
  sum    : Nat
  base   : Nat
  count  : Nat
  e      : Nat
  k      : Nat
  cap    : Nat
  inOff  : Nat
  outOff : Nat
  ok     : Bool
deriving DecidableEq, Repr

def expertBlock (s : State) (a : Nat) : ExpertBlock :=
  let w (i : Nat) : Word := readWord s (a + 8 * i)
  { logits := fld (w 0) 0 48, map := fld (w 1) 0 48, assign := fld (w 2) 0 48, sum := fld (w 3) 0 48
    base := fld (w 4) 0 24, count := fld (w 4) 24 24, e := fld (w 5) 0 8, k := fld (w 5) 8 4, cap := fld (w 5) 12 10
    inOff := fld (w 6) 0 21, outOff := fld (w 7) 0 21
    ok := [0, 1, 2, 3, 4].all (fun i => fld (w i) 48 16 == 0) && fld (w 5) 22 42 == 0 && fld (w 6) 21 43 == 0
      && fld (w 7) 21 43 == 0 && decide (2 ≤ fld (w 5) 0 8) && decide (1 ≤ fld (w 5) 8 4) && decide (fld (w 5) 8 4 ≤ 8)
      && decide (1 ≤ fld (w 5) 12 10) && decide (fld (w 5) 12 10 ≤ 512) }

/-- An expert's place: region, quad, package (R191). -/
structure ExpertAt where
  region : Nat
  quad   : Nat
  pkg    : Nat
  spare  : Nat
deriving DecidableEq, Repr

def expertAt (s : State) (map i : Nat) : ExpertAt :=
  let n := readLe s (map + 2 * i) 2
  ⟨bitsAt n 0 5, bitsAt n 5 1, bitsAt n 6 6, bitsAt n 12 4⟩

def expertMap (s : State) (b : ExpertBlock) : List ExpertAt := (List.range b.e).map (expertAt s b.map)

/-- No two entries share a package, region and quad, and the reserved bits are 0. -/
def mapOk : List ExpertAt → Bool
  | [] => true
  | p :: ps => p.spare == 0 && !ps.contains p && mapOk ps

/-- The scratch address of member `m` of the quad that serves an expert. -/
def memberScratch (p : ExpertAt) (m : Nat) : Nat := (8 * p.region + 4 * p.quad + m) * 0x200000

/-- Token subtiles of `f` features, in a format. -/
def operandBytes (fmt f : Nat) : Nat := f / 128 * subtileBytes fmt 128

/-! ## Dense operations (R274) -/

/-- Units of an operand, in bytes, from the source's format. -/
def clSrcUnits (op : RingOp) (n count : Nat) : Nat :=
  match op with
  | .reduceScatter | .alltoall => n * count
  | _ => count

def clDstUnits (op : RingOp) (n count : Nat) : Nat :=
  match op with
  | .allgather | .alltoall => n * count
  | _ => count

/-- Copies move units as they are; reductions and COMPRESSED convert. -/
def clCopies (op : RingOp) : Bool := op == .allgather || op == .alltoall

def denseSrcBytes (op : RingOp) (fmt n count : Nat) : Nat := clSrcUnits op n count * unitBytes fmt

def denseDstBytes (op : RingOp) (fmt a n count : Nat) : Nat :=
  if clCopies op then clDstUnits op n count * unitBytes fmt else rowBytes fmt a 1 count

/-- The values of a source as its member reads them. -/
def srcValue (s : State) (x : Nat) (d : Desc) (i : Nat) : Fv × Bool :=
  let t := tensor s x (clSTid d)
  let r := rowElem s t (clSrc d) 1 (clSrcUnits .allreduce 1 (i + 1)) 0 i
  (round32 r.1, r.2)

/-- Bytes as they travel between members, and the 64-byte lines among them that are poisoned. -/
structure Lines where
  data : List Byte
  bad  : List Nat
deriving DecidableEq, Repr

/-- The 64-byte lines that bytes `off` to `off + len - 1` fall into. -/
def lineSpan (off len : Nat) : List Nat :=
  if len = 0 then [] else (List.range ((off + len - 1) / 64 - off / 64 + 1)).map (off / 64 + ·)

def Lines.poisoned (l : Lines) (off len : Nat) : Bool := (lineSpan off len).any l.bad.contains

/-- FP32 images of values, 4 bytes each (DESIGN CHOICE, log entry 14). -/
def valueLines (vs : List (Fv × Bool)) : Lines :=
  ⟨vs.flatMap fun v => leBytes 4 (bits32 v.1),
   dedup (((List.range vs.length).filter fun i => (vs.getD i (.zero, false)).2).map fun i => 4 * i / 64)⟩

/-- Bytes of memory as they travel. -/
def memLines (s : State) (a len : Nat) : Lines :=
  ⟨readBytes s a len, (lineSpan 0 len).filter fun k => anyPoison s (a + 64 * k) (min 64 (len - 64 * k))⟩

/-- Lay bytes `off` to `off + len - 1` out at an address, those of a poisoned line as poisoned. -/
def outLines (a : Nat) (l : Lines) (off len : Nat) : Out :=
  Out.concat ((lineSpan off len).map fun k =>
    let lo := max off (64 * k)
    let hi := min (off + len) (64 * (k + 1))
    outBytes (a + (lo - off)) ((List.range (hi - lo)).map fun i => l.data.getD (lo + i) 0) (l.bad.contains k))

/-- Lay bytes of memory out at another address; what a poisoned line holds is poisoned (R185). -/
def outCopy (s : State) (src dst len : Nat) : Out :=
  Out.concat ((lineSpan src len).map fun k =>
    let lo := max src (64 * k)
    let hi := min (src + len) (64 * (k + 1))
    outBytes (dst + (lo - src)) (readBytes s lo (hi - lo)) (poisoned s lo))

def imageValue (data : List Byte) (i : Nat) : Fv := ofBits32 (leNat ((data.drop (4 * i)).take 4))

/-- REDOP: max and min propagate NaN. -/
def reduceOp (redop : Nat) (a b : Fv) : Fv :=
  match redop with
  | 1 => fmax a b
  | 2 => fmin a b
  | _ => fadd a b

/-- The ring of R274 over one element of block `j`: it starts at rank j + 1 and ends at rank j; a partial result that
leaves a member is rounded to BF16 under WIRE. -/
def ringReduce (redop : Nat) (wire : Bool) (n j : Nat) (val : Nat → Fv) : Fv :=
  let ranks := (List.range n).map fun i => (j + 1 + i) % n
  match ranks with
  | [] => .zero
  | r :: rs => rs.foldl (fun acc r => reduceOp redop (if wire then asBf16 acc else acc) (val r)) (val r)

/-- Units of an ALLREDUCE block: ⌈COUNT / n⌉ rounded up to whole lines. -/
def blockUnits (fmt n count : Nat) : Nat := roundUp (ceilDiv count n) (64 / unitBytes fmt)

/-- The elements of a reduction's destination that rank j forms and converts. A block of an MX destination that two ranks would
share is formed by the first (DESIGN CHOICE, log entry 14). -/
def blockSpan (op : RingOp) (sf df n count j : Nat) : Nat × Nat :=
  if op = .reduceScatter then (0, count)
  else
    let edge (k : Nat) : Nat :=
      let e := k * blockUnits sf n count
      min count (if (fmtInfo df).mx then roundUp e 32 else e)
    (edge j, edge (j + 1))

/-- The place in a source of element i of what rank j forms. -/
def srcPlace (op : RingOp) (count j i : Nat) : Nat := if op = .reduceScatter then j * count + i else i

/-- Element i of the reduction that this member forms from the contributions of all: its own values and what the others have
sent, whose first element is number `lo`. -/
def reduceElem (s : State) (x : Nat) (op : RingOp) (d : Desc) (parts : Nat → Lines) (lo i : Nat) : Fv × Bool :=
  let n := (clMembers s d).length
  let rank := clRank s d
  let start := if op = .reduceScatter then rank else i / max 1 (blockUnits (tensor s x (clSTid d)).fmt n (clCount d))
  let val (r : Nat) : Fv × Bool :=
    if r = rank then srcValue s x d (srcPlace op (clCount d) rank i)
    else (imageValue (parts r).data (i - lo), (parts r).poisoned (4 * (i - lo)) 4)
  (ringReduce (clRedop d) (clWire d) n start fun r => (val r).1, (List.range n).any fun r => (val r).2)

/-- The block that this member forms, converted into DST_TID (R38): element bytes, then block scales; and its counts. -/
def ownBlock (s : State) (x : Nat) (op : RingOp) (d : Desc) (parts : Nat → Lines) : Lines × Stats :=
  let t := tensor s x (clDTid d)
  let f := fmtInfo t.fmt
  let sp := blockSpan op (tensor s x (clSTid d)).fmt t.fmt (clMembers s d).length (clCount d) (clRank s d)
  let es := (List.range (sp.2 - sp.1)).map fun j =>
    let v := reduceElem s x op d parts sp.1 (sp.1 + j)
    (⟨v.1, v.2, sp.1 + j⟩ : Elem)
  let conv := (chunks 32 es).map fun b => (b, convBlock t (srKey s x (clDTid d)) none b)
  let body := packBits f.bits (conv.flatMap fun c => c.2.1)
  let scales := if f.mx then conv.map fun c => BitVec.ofNat 8 c.2.2.1 else []
  let badBody := ((List.range es.length).filter fun i => (es.getD i ⟨.zero, false, 0⟩).bad).flatMap fun i =>
    lineSpan (i * f.bits / 8) (((i + 1) * f.bits + 7) / 8 - i * f.bits / 8)
  let badScale := if f.mx then ((List.range conv.length).filter fun k => ((conv.getD k ([], [], 0, Stats.empty)).1.any (·.bad))).map fun k =>
      (body.length + k) / 64 else []
  (⟨body ++ scales, dedup (badBody ++ badScale)⟩, conv.foldl (fun st c => st.join c.2.2.2) Stats.empty)

/-- The destination of a reduction: the converted blocks of all ranks, with every owner's counts (R274, R275). A
REDUCE_SCATTER's holds this member's own block alone. -/
def reduceOut (s : State) (x : Nat) (op : RingOp) (d : Desc) (blocks : Nat → Lines × Stats) : Out :=
  let n := (clMembers s d).length
  let fmt := (tensor s x (clDTid d)).fmt
  let f := fmtInfo fmt
  let place (j : Nat) : Out :=
    let sp := blockSpan op (tensor s x (clSTid d)).fmt fmt n (clCount d) j
    let len := ceilDiv ((sp.2 - sp.1) * f.bits) 8
    let l := (blocks j).1
    let body := outLines (clDst d + sp.1 * f.bits / 8) l 0 len
    if f.mx then body.join (outLines (rowScales fmt (clDst d) 1 (clCount d) + sp.1 / 32) l len (ceilDiv (sp.2 - sp.1) 32)) else body
  let out := Out.concat ((if op = .reduceScatter then [clRank s d] else List.range n).map place)
  { out with stats := (List.range n).foldl (fun st j => st.join (blocks j).2) Stats.empty }

/-- A reduction of one member: its own values, converted. -/
def aloneOut (s : State) (x : Nat) (d : Desc) : Out :=
  outRows (tensor s x (clDTid d)) (srKey s x (clDTid d)) (clDst d) 1 (clCount d) (fun _ j => j) fun _ j => srcValue s x d j

/-- Bytes of a block of a gather. -/
def gatherBytes (s : State) (x : Nat) (d : Desc) : Nat := clCount d * unitBytes (tensor s x (clSTid d)).fmt

/-- Where this member's source holds the block for rank r. -/
def gatherFrom (s : State) (x : Nat) (op : RingOp) (d : Desc) (r : Nat) : Nat :=
  clSrc d + if op = .alltoall then r * gatherBytes s x d else 0

/-- The results of ALLGATHER and ALLTOALL: units as they are. -/
def gatherOut (s : State) (x : Nat) (op : RingOp) (d : Desc) (parts : Nat → Lines) : Out :=
  let w := gatherBytes s x d
  Out.concat ((List.range (clMembers s d).length).map fun r =>
    if r = clRank s d then outCopy s (gatherFrom s x op d r) (clDst d + r * w) w else outLines (clDst d + r * w) (parts r) 0 w)

/-! ## Compressed exchange (R281 to R283) -/

/-- A bittern record: its halves, ACTIVE, COUNT, and whether its reserved bits are 0. -/
structure Bittern where
  half0  : Nat
  half1  : Nat
  active : Bool
  count  : Nat
  ok     : Bool
deriving DecidableEq, Repr

def bitternAt (s : State) (a : Nat) : Bittern :=
  let n := readLe s a 64
  ⟨bitsAt n 0 48, bitsAt n 64 48, n.testBit 128, bitsAt n 160 32,
   bitsAt n 48 16 == 0 && bitsAt n 112 16 == 0 && bitsAt n 129 31 == 0 && bitsAt n 192 320 == 0⟩

def Bittern.current (b : Bittern) : Nat := if b.active then b.half1 else b.half0
def Bittern.other (b : Bittern) : Nat := if b.active then b.half0 else b.half1

def tileElems : Nat := 16384

/-- a = g + e of each element, with its poison. -/
def residualSum (s : State) (x : Nat) (d : Desc) (b : Bittern) (i : Nat) : Fv × Bool :=
  let g := srcValue s x d i
  let e := decodeElem (fmtInfo 1) (readLe s (b.current + 2 * i) 2)
  (fadd g.1 e, g.2 || poisoned s (b.current + 2 * i))

/-- |a| of `p` stands above |a| of `q`: NaN above every number, ties to the lower index. -/
def largerAt (p q : Nat × Fv) : Bool :=
  match p.2, q.2 with
  | .nan, .nan => decide (p.1 ≤ q.1)
  | .nan, _ => true
  | _, .nan => false
  | a, b => flt b.abs a.abs || (!flt a.abs b.abs && decide (p.1 ≤ q.1))

/-- The picked places of a tile, ascending. -/
def pickTop (kt : Nat) (vs : List Fv) : List Nat :=
  let best := (sortBy largerAt ((List.range vs.length).map fun i => (i, vs.getD i .zero))).take kt
  sortBy (fun a b => decide (a ≤ b)) (best.map Prod.fst)

/-- The sign bit of a value. -/
def signBit (v : Fv) : Bool := (bits32 v).testBit 31

/-- What a tile sends of each element: none where top-k picks nothing. -/
def tileSent (cmode : Nat) (vs : List Fv) : List (Option Fv) :=
  if cmode = 0 then
    let m := fMean (vs.map Fv.abs)
    vs.map fun v => some (if signBit v then m.neg else m)
  else
    let picked := pickTop (ceilDiv vs.length (2 ^ (cmode + 3))) vs
    (List.range vs.length).map fun i => if picked.contains i then some (asBf16 (vs.getD i .zero)) else none

/-- The block that a tile sends (R282). -/
def tileImage (cmode : Nat) (vs : List Fv) : List Byte :=
  if cmode = 0 then
    let m := fMean (vs.map Fv.abs)
    let body := leBytes 4 (bits32 m) ++ packBits 1 (vs.map fun v => if signBit v then 1 else 0)
    body ++ List.replicate (roundUp body.length 64 - body.length) 0
  else
    (pickTop (ceilDiv vs.length (2 ^ (cmode + 3))) vs).flatMap fun i =>
      leBytes 2 i ++ leBytes 2 (convElem (fmtInfo 1) false .rne (vs.getD i .zero) (vs.getD i .zero)).1

/-- Bytes of the block of a tile of `t` elements. -/
def tileBlockBytes (cmode t : Nat) : Nat := if cmode = 0 then roundUp (4 + ceilDiv t 8) 64 else 4 * ceilDiv t (2 ^ (cmode + 3))

/-- What a member's block gives an element of its tile. -/
def tileGives (cmode : Nat) (data : List Byte) (t i : Nat) : Option Fv :=
  if cmode = 0 then
    let m := imageValue data 0
    some (if bitsAt (leNat ((data.drop (4 + i / 8)).take 1)) (i % 8) 1 = 1 then m.neg else m)
  else
    ((List.range (ceilDiv t (2 ^ (cmode + 3)))).find? fun e => leNat ((data.drop (4 * e)).take 2) == i).map fun e =>
      decodeElem (fmtInfo 1) (leNat ((data.drop (4 * e + 2)).take 2))

/-- The elements of tile `k` of `count`. -/
def tileRange (count k : Nat) : List Nat := (List.range (min tileElems (count - k * tileElems))).map (k * tileElems + ·)

/-- Where tile k's block begins. -/
def tileBlockAt (cmode k : Nat) : Nat := k * tileBlockBytes cmode tileElems

/-- What a tile forms derives from a poisoned line. -/
def tileBad (s : State) (x : Nat) (d : Desc) (b : Bittern) (k : Nat) : Bool :=
  (tileRange (clCount d) k).any fun i => (residualSum s x d b i).2

/-- This member's blocks, tile after tile. -/
def compressedImage (s : State) (x : Nat) (d : Desc) (b : Bittern) : Lines :=
  let ks := List.range (ceilDiv (clCount d) tileElems)
  let image (k : Nat) : List Byte := tileImage (clCmode d) ((tileRange (clCount d) k).map fun i => (residualSum s x d b i).1)
  ⟨ks.flatMap image,
   dedup ((ks.filter (tileBad s x d b)).flatMap fun k => lineSpan (tileBlockAt (clCmode d) k) (image k).length)⟩

/-- Contributions of ranks 0 to n - 1 to an element, merged in order: +0 where there is none. -/
def mergeGives (gs : List (Option Fv)) : Fv :=
  match gs.filterMap id with
  | [] => .zero
  | v :: vs => vs.foldl fadd v

/-- The merged result and the new residual. -/
def compressedOut (s : State) (x : Nat) (d : Desc) (parts : Nat → Lines) : Out × Out :=
  let b := bitternAt s (clAux d)
  let n := (clMembers s d).length
  let own := compressedImage s x d b
  let given (r : Nat) : Lines := if r = clRank s d then own else parts r
  let tile (i : Nat) : Nat := i / tileElems
  let size (k : Nat) : Nat := min tileElems (clCount d - k * tileElems)
  let at' (k : Nat) : Nat := tileBlockAt (clCmode d) k
  let len (k : Nat) : Nat := tileBlockBytes (clCmode d) (size k)
  let merged (i : Nat) : Fv :=
    mergeGives ((List.range n).map fun r =>
      tileGives (clCmode d) (((given r).data.drop (at' (tile i))).take (len (tile i))) (size (tile i)) (i % tileElems))
  let bad (i : Nat) : Bool := (List.range n).any fun r => (given r).poisoned (at' (tile i)) (len (tile i))
  let res := outRows (tensor s x (clDTid d)) (srKey s x (clDTid d)) (clDst d) 1 (clCount d) (fun _ j => j) fun _ j => (merged j, bad j)
  let keep := (List.range (ceilDiv (clCount d) tileElems)).flatMap fun k =>
    let vs := (tileRange (clCount d) k).map fun i => (residualSum s x d b i).1
    let sent := tileSent (clCmode d) vs
    (List.range vs.length).map fun i =>
      let v := fsub (vs.getD i .zero) ((sent.getD i none).getD .zero)
      outBytes (b.other + 2 * (k * tileElems + i)) (leBytes 2 (convElem (fmtInfo 1) false .rne v v).1) (tileBad s x d b k)
  (res, Out.concat keep)

/-! ## Assignment (R192 to R194) -/

def logitAt (s : State) (b : ExpertBlock) (t e : Nat) : Fv := ofBits32 (readLe s (b.logits + 4 * (t * b.e + e)) 4)

/-- Some line of a token's logits is poisoned (R197). -/
def logitPoison (s : State) (b : ExpertBlock) (t : Nat) : Bool := anyPoison s (b.logits + 4 * t * b.e) (4 * b.e)

/-- The tokens that are assigned, in the order of R193; relative to TOK_BASE. -/
def realTokens (s : State) (x : Nat) (d : Desc) (b : ExpertBlock) : List Nat :=
  let live := (List.range b.count).filterMap fun t => (entryOfToken s x (b.base + t)).map fun e => (t, e)
  (sortBy (fun p q => seqBefore d p.2 q.2) live).map Prod.fst

/-- Experts in a token's order of preference: logit descending, NaN last, ties to the lower number. -/
def prefOrder (s : State) (b : ExpertBlock) (t : Nat) : List Nat :=
  let before (i j : Nat) : Bool :=
    match logitAt s b t i, logitAt s b t j with
    | .nan, .nan => decide (i ≤ j)
    | .nan, _ => false
    | _, .nan => true
    | a, c => flt c a || (!flt a c && decide (i ≤ j))
  sortBy before (List.range b.e)

/-- One assignment: token, rank, expert, slot among the sender's rows for it. -/
structure Assign where
  tok    : Nat
  rank   : Nat
  expert : Nat
  slot   : Nat
deriving DecidableEq, Repr

/-- Assign one rank of one token. -/
def assignOne (b : ExpertBlock) (pref : List Nat) (t r : Nat) (as : List Assign) : List Assign :=
  let load (e : Nat) : Nat := (as.filter fun a => a.expert == e).length
  match pref.find? fun e => !(as.any fun a => a.tok == t && a.expert == e) && decide (load e < b.cap) with
  | some e => as ++ [⟨t, r, e, load e⟩]
  | none => as

/-- Every assignment: every first choice before any second. -/
def assignAll (s : State) (x : Nat) (d : Desc) (b : ExpertBlock) : List Assign :=
  let ts := (realTokens s x d b).map fun t => (t, prefOrder s b t)
  (List.range b.k).foldl (fun as r => ts.foldl (fun as p => assignOne b p.2 p.1 r as) as) []

/-- The expert is not among the token's k most preferred. -/
def rerouted (s : State) (b : ExpertBlock) (a : Assign) : Bool := !((prefOrder s b a.tok).take b.k).contains a.expert

/-- The gates of a token, in rank order (R194, R197). -/
def gatesOf (ls : List Fv) : List Fv :=
  if ls.any fun l => !l.isFinite then ls.map fun _ => .nan
  else match ls with
    | [] => []
    | l :: rest =>
      let m := rest.foldl fmax l
      let es := ls.map fun v => fexp (fsub v m)
      let sum := match es with | [] => Fv.zero | e :: es => es.foldl fadd e
      es.map fun e => fdiv e sum

/-- CAP × (E − k + 1) ≥ N × k (R192). -/
def capacityOk (b : ExpertBlock) (n : Nat) : Bool := decide (((n * b.k : Nat) : Int) ≤ (b.cap : Int) * ((b.e : Int) - b.k + 1))

/-! ## DISPATCH (R195, R198, R280) -/

/-- Where a token row's block scales stand in the source. -/
def rowScaleAt (s : State) (x : Nat) (d : Desc) (b : ExpertBlock) (t : Nat) : Nat :=
  rowScales (tensor s x (clSTid d)).fmt (clSrc d) b.count (clCount d) + t * (clCount d / 32)

/-- A token row as it travels: its elements, then its block scales. -/
def rowPayload (s : State) (x : Nat) (d : Desc) (b : ExpertBlock) (t : Nat) : List Byte :=
  let f := (tensor s x (clSTid d)).fmt
  let w := clCount d * (fmtInfo f).bits / 8
  readBytes s (clSrc d + t * w) w ++ (if (fmtInfo f).mx then readBytes s (rowScaleAt s x d b t) (clCount d / 32) else [])

def rowPoison (s : State) (x : Nat) (d : Desc) (b : ExpertBlock) (t : Nat) : Bool :=
  let f := (tensor s x (clSTid d)).fmt
  let w := clCount d * (fmtInfo f).bits / 8
  anyPoison s (clSrc d + t * w) w || logitPoison s b t
    || ((fmtInfo f).mx && anyPoison s (rowScaleAt s x d b t) (clCount d / 32))

/-- Bytes of a row as it travels. -/
def payloadBytes (fmt f : Nat) : Nat := f * (fmtInfo fmt).bits / 8 + if (fmtInfo fmt).mx then f / 32 else 0

/-- The experts that a package serves, in ascending order. -/
def servedBy (s : State) (b : ExpertBlock) (pkg : Nat) : List Nat := (List.range b.e).filter fun e => (expertAt s b.map e).pkg == pkg

/-- A sender's rows for an expert, in assignment order. -/
def rowsFor (s : State) (x : Nat) (d : Desc) (b : ExpertBlock) (as : List Assign) (e : Nat) : List (List Byte × Bool) :=
  (as.filter fun a => a.expert == e).map fun a => (rowPayload s x d b a.tok, rowPoison s x d b a.tok)

/-- One expert's rows as a sender sends them: a line with their number, then each row in whole lines (DESIGN CHOICE, log entry 14). -/
def rowLines (rows : List (List Byte × Bool)) : List (List Byte × Bool) :=
  (leBytes 64 rows.length, false) :: rows.map fun r => (padLines r.1, r.2)

/-- Pieces of whole lines, joined. -/
def joinPieces (ps : List (List Byte × Bool)) : Lines :=
  ps.foldl (fun l p => ⟨l.data ++ p.1, l.bad ++ (if p.2 then lineSpan l.data.length p.1.length else [])⟩) ⟨[], []⟩

/-- What a member sends to a package for a DISPATCH: the rows for each expert that the package serves. -/
def dispatchImage (s : State) (x : Nat) (d : Desc) (b : ExpertBlock) (as : List Assign) (pkg : Nat) : Lines :=
  joinPieces ((servedBy s b pkg).flatMap fun e => rowLines (rowsFor s x d b as e))

/-- The rows for each of the served experts in what a member has sent; `w` bytes a row. -/
def imageRows (w : Nat) (l : Lines) : List Nat → Nat → List (Nat × List (List Byte × Bool))
  | [], _ => []
  | e :: es, off =>
    let n := leNat ((l.data.drop off).take 2)
    let size := roundUp w 64
    let row (i : Nat) : List Byte × Bool :=
      let a := off + 64 + i * size
      ((l.data.drop a).take w, l.poisoned a size)
    (e, (List.range n).map row) :: imageRows w l es (off + 64 + n * size)

/-- Write one row at a position of a member's activation operand (R88, R142). -/
def placeRow (fmt f a pos : Nat) (row : List Byte) (bad : Bool) : Out :=
  let w := 128 * (fmtInfo fmt).bits / 8
  let body := f * (fmtInfo fmt).bits / 8
  Out.concat ((List.range (f / 128)).map fun k =>
    let tile := a + 64 + k * subtileBytes fmt 128
    (outBytes (tile + pos * w) ((row.drop (k * w)).take w) bad).join
      (if (fmtInfo fmt).mx then outBytes (tile + subScaleOff fmt 128 + 4 * pos) ((row.drop (body + 4 * k)).take 4) bad
       else Out.empty))

/-- The lists of the experts that this package serves, with the headers of their members. -/
def placeExpert (fmt f : Nat) (b : ExpertBlock) (p : ExpertAt) (rows : List (List Byte × Bool)) : Out :=
  Out.concat ((List.range 4).map fun m =>
    let a := memberScratch p m + b.inOff
    let here := (rows.drop (128 * m)).take 128
    (outBytes a (leBytes 64 (ceilDiv here.length 2)) false).join
      (Out.concat ((List.range here.length).map fun i =>
        placeRow fmt f a i (here.getD i ([], false)).1 (here.getD i ([], false)).2)))

/-- One assignment entry. -/
def assignEntry (expert : Nat) (reroute : Bool) (slot : Nat) (gate : Fv) : List Byte :=
  leBytes 8 (expert + (if reroute then 256 else 0) + slot % 65536 * 65536 + bits32 gate * 2 ^ 32)

/-- Assignment entries of all tokens; `base e` is where this sender's rows begin in expert e's list. -/
def assignOut (s : State) (b : ExpertBlock) (as : List Assign) (base : Nat → Nat) : Out :=
  Out.concat ((List.range b.count).flatMap fun t =>
    let mine := sortBy (fun p q => decide (p.rank ≤ q.rank)) (as.filter fun a => a.tok == t)
    let gs := gatesOf (mine.map fun a => logitAt s b t a.expert)
    (List.range b.k).map fun r =>
      let bytes := match mine[r]? with
        | some a => assignEntry a.expert (rerouted s b a) (base a.expert + a.slot) (gs.getD r .zero)
        | none => assignEntry 0xFF false 0 .zero
      outBytes (b.assign + 8 * (t * b.k + r)) bytes (logitPoison s b t))

/-- The dispatch summary (R198). -/
def summaryOut (s : State) (b : ExpertBlock) (tokens : Nat) (as : List Assign) : Out :=
  let re := as.filter (rerouted s b)
  let head := outBytes b.sum (leBytes 64 (tokens + re.length * 2 ^ 32)) false
  head.join (outBytes (b.sum + 64) ((List.range b.e).flatMap fun e =>
    leBytes 4 ((as.filter fun a => a.expert == e).length + (re.filter fun a => a.expert == e).length * 65536)) false)

/-- The rows of rank r for an expert that this package serves: its own, or what has arrived. -/
def servedRows (s : State) (x : Nat) (d : Desc) (b : ExpertBlock) (as : List Assign) (parts : Nat → Lines) (r e : Nat) : List (List Byte × Bool) :=
  if r = clRank s d then rowsFor s x d b as e
  else
    let w := payloadBytes (tensor s x (clSTid d)).fmt (clCount d)
    ((imageRows w (parts r) (servedBy s b (ownPkg s)) 0).find? fun q => q.1 == e).elim [] Prod.snd

/-- Where rank r's rows begin in the list of an expert that this package serves: after those of the lower ranks (R280). -/
def servedBase (s : State) (x : Nat) (d : Desc) (b : ExpertBlock) (as : List Assign) (parts : Nat → Lines) (r e : Nat) : Nat :=
  (List.range r).foldl (fun n q => n + (servedRows s x d b as parts q e).length) 0

/-- The base positions that this package returns to rank r: 2 bytes for each expert that it serves (DESIGN CHOICE, log entry 14). -/
def basesFor (s : State) (x : Nat) (d : Desc) (parts : Nat → Lines) (r : Nat) : Lines :=
  let b := expertBlock s (clAux d)
  let as := assignAll s x d b
  ⟨(servedBy s b (ownPkg s)).flatMap fun e => leBytes 2 (servedBase s x d b as parts r e), []⟩

/-- Everything a DISPATCH writes, and how many of its assignments are rerouted. `parts` are the rows that have arrived,
`bases` the positions that the serving packages have returned. -/
def dispatchOut (s : State) (x : Nat) (d : Desc) (parts bases : Nat → Lines) : Out × Nat :=
  let b := expertBlock s (clAux d)
  let as := assignAll s x d b
  let fmt := (tensor s x (clSTid d)).fmt
  let ms := clMembers s d
  let base (e : Nat) : Nat :=
    let p := (expertAt s b.map e).pkg
    if p = ownPkg s then servedBase s x d b as parts (clRank s d) e
    else leNat (((bases (ms.idxOf p)).data.drop (2 * (servedBy s b p).idxOf e)).take 2)
  let placed := (servedBy s b (ownPkg s)).map fun e =>
    placeExpert fmt (clCount d) b (expertAt s b.map e) ((List.range ms.length).flatMap fun r => servedRows s x d b as parts r e)
  (Out.concat (placed ++ [assignOut s b as base, summaryOut s b (realTokens s x d b).length as]),
   (as.filter (rerouted s b)).length)

/-! ## COMBINE (R196, R280) -/

/-- One assignment entry as COMBINE reads it: expert, slot, gate; none where there is no expert. -/
def readAssign (s : State) (b : ExpertBlock) (t r : Nat) : Option (Nat × Nat × Fv) :=
  let n := readLe s (b.assign + 8 * (t * b.k + r)) 8
  if bitsAt n 0 8 = 0xFF || b.e ≤ bitsAt n 0 8 then none else some (bitsAt n 0 8, bitsAt n 16 16, ofBits32 (bitsAt n 32 32))

/-- The window that an expert's package is reached over; none for this package's own (R140, R280). -/
def expertWindow (s : State) (p : ExpertAt) : Nat := if p.pkg = ownPkg s then 0 else 0x400000000000 + p.pkg * 2 ^ 40

/-- The address of a member's output operand, in another package's window where the expert is there. -/
def outputAddr (s : State) (b : ExpertBlock) (p : ExpertAt) (slot : Nat) : Nat :=
  expertWindow s p + memberScratch p (slot / 128 % 4) + b.outOff

/-- An element of an expert's output. -/
def outputElem (s : State) (t : Tensor) (b : ExpertBlock) (p : ExpertAt) (slot j : Nat) : Fv × Bool :=
  tileElem s t (outputAddr s b p slot + j / 128 * subtileBytes t.fmt 128) 128 (slot % 128) (j % 128)

/-- The lines of other packages that a COMBINE reads. -/
def combineLines (s : State) (x : Nat) (d : Desc) : List Nat :=
  let b := expertBlock s (clAux d)
  let t := tensor s x (clSTid d)
  let w := 128 * (fmtInfo t.fmt).bits / 8
  dedup ((realTokens s x d b).flatMap fun k => (List.range b.k).flatMap fun r =>
    match readAssign s b k r with
    | none => []
    | some (e, slot, _) =>
      let p := expertAt s b.map e
      if p.pkg = ownPkg s then []
      else (List.range (clCount d / 128)).flatMap fun c =>
        let a := outputAddr s b p slot + c * subtileBytes t.fmt 128
        let body := (List.range w).map fun i => (a + slot % 128 * w + i) / 64 * 64
        let sc := if (fmtInfo t.fmt).mx then
            (List.range 128).map fun j => (a + subScaleOff t.fmt 128 + subScaleIdx t.band (slot % 128) j) / 64 * 64 else []
        body ++ sc)

/-- A combined row: gated outputs added in rank order. -/
def combineRowOf (s : State) (x : Nat) (d : Desc) (b : ExpertBlock) (k j : Nat) : Fv × Bool :=
  let t := tensor s x (clSTid d)
  let es := (List.range b.k).filterMap fun r => (readAssign s b k r).map fun a => (a, poisoned s (b.assign + 8 * (k * b.k + r)))
  let vs := es.map fun q =>
    let v := outputElem s t b (expertAt s b.map q.1.1) q.1.2.1 j
    (fmul q.1.2.2 v.1, v.2 || q.2)
  (match vs.map Prod.fst with | [] => .zero | v :: rest => rest.foldl fadd v, vs.any (·.2))

/-- Convert one row of a row-major tensor of `rows` rows. -/
def outRowAt (t : Tensor) (key : Word) (a rows cols i : Nat) (val : Nat → Fv × Bool) : Out :=
  let f := fmtInfo t.fmt
  let cv := (chunks 32 ((List.range cols).map fun j => (⟨(val j).1, (val j).2, i * cols + j⟩ : Elem))).map (convBlock t key none)
  let bad := (List.range cols).any fun j => (val j).2
  let body := outBytes (a + i * cols * f.bits / 8) (packBits f.bits (cv.flatMap fun c => c.1)) bad
  let sc := if f.mx then outBytes (rowScales t.fmt a rows cols + i * ceilDiv cols 32) (cv.map fun c => BitVec.ofNat 8 c.2.1) bad
    else Out.empty
  (body.join sc).join ⟨[], [], cv.foldl (fun st c => st.join c.2.2) Stats.empty⟩

/-- The combined rows of the real tokens; padding tokens receive none (R197). -/
def combineOut (s : State) (x : Nat) (d : Desc) : Out :=
  let b := expertBlock s (clAux d)
  let t := tensor s x (clDTid d)
  Out.concat ((realTokens s x d b).map fun k =>
    outRowAt t (srKey s x (clDTid d)) (clDst d) b.count (clCount d) k (combineRowOf s x d b k))

/-! ## Checks -/

/-- What the descriptor, the group and the scale table show by themselves. -/
def clStatic (s : State) (x : Nat) (op : RingOp) (d : Desc) : List Nat :=
  let reduces := op == .allreduce || op == .reduceScatter
  let sf := (tensor s x (clSTid d)).fmt
  let n := entryBits s x (clSTid d)
  whenV (!clLocal d && !grpOpen s x (clGroup d)) stBadDesc
    ++ whenV (!clLocal d && !peerConsent s) stBounds
    ++ whenV (clRedop d == 3) stUnsupported
    ++ tidRead s x (clSTid d)
    ++ (if clCopies op || op == .dispatch then tidRead s x (clDTid d) else tidWrite s x (clDTid d))
    ++ whenV (reduces && !([0, 1, 2].contains sf)) stBadDesc
    ++ whenV (clCopies op && sf != (tensor s x (clDTid d)).fmt) stBadDesc
    ++ whenV (op == .compressed && (!([0, 1].contains sf) || bitsAt n 9 3 != 2)) stBadDesc
    ++ whenV ((op == .dispatch || op == .collCombine) && clCount d % 128 != 0) stBadDesc

/-- Source and destination of a dense operation or of COMPRESSED. -/
def denseExts (s : State) (x : Nat) (op : RingOp) (d : Desc) : List Ext :=
  let n := (clMembers s d).length
  let sf := (tensor s x (clSTid d)).fmt
  let df := (tensor s x (clDTid d)).fmt
  [ext false (clSrc d) (sized sf (denseSrcBytes op sf n (clCount d))),
   ext true (clDst d) (sized df (denseDstBytes op df (clDst d) n (clCount d)))]

/-- Source and destination overlap other than as R274 allows. -/
def denseOverlap (s : State) (op : RingOp) (es : List Ext) : Bool :=
  match es with
  | [a, b] =>
    let p := a.resolved s
    let q := b.resolved s
    p.meets q && !(op == .allreduce && p.lo == q.lo && p.hi == q.hi)
  | _ => false

def planDense (s : State) (x : Nat) (op : RingOp) (d : Desc) : Plan :=
  let es := denseExts s x op d
  let u := max 1 (sized (tensor s x (clSTid d)).fmt (unitBytes (tensor s x (clSTid d)).fmt))
  let v := max 1 (sized (tensor s x (clDTid d)).fmt (unitBytes (tensor s x (clDTid d)).fmt))
  ⟨whenV (denseOverlap s op es || clSrc d % u != 0 || clDst d % v != 0) stBadDesc, es⟩

/-- The journal holds a flip of this record in this step (R283). -/
def flipHeld (s : State) (x a : Nat) : Bool := (ctx s x).journal.contains (.flip a)

def planCompressed (s : State) (x : Nat) (d : Desc) : Plan :=
  let r := ext false (clAux d) 64
  if extentOutside s x r then (planDense s x .compressed d).join (planV [stBounds])
  else
    let b := bitternAt s (clAux d)
    let n := 2 * clCount d
    let es := [r, ext false b.current n, ext true b.other n]
    let meets := anyOverlap ([ext true (clAux d) 64, ext false b.current n, ext true b.other n] ++ denseExts s x .allreduce d)
    (planDense s x .compressed d).join
      ⟨whenV (!b.ok || b.count != clCount d || flipHeld s x (clAux d) || meets) stBadDesc
        ++ whenV (decide (journalLen s x ≤ (ctx s x).journal.length)) stQuota, es⟩

/-- Extents of the serving members on this package, at an offset, `n` bytes each. -/
def servedExts (s : State) (b : ExpertBlock) (off n : Nat) : List Ext :=
  (expertMap s b).flatMap fun p => if p.pkg = ownPkg s then (List.range 4).map fun m => ext true (memberScratch p m + off) n else []

/-- The output operands that a COMBINE reads, those of other packages over their windows (R262, R280). -/
def outputExts (s : State) (b : ExpertBlock) (n : Nat) : List Ext :=
  (expertMap s b).flatMap fun p => (List.range 4).map fun m => ext false (expertWindow s p + memberScratch p m + b.outOff) n

def planExpert (s : State) (x : Nat) (op : RingOp) (d : Desc) : Plan :=
  if extentOutside s x (ext false (clAux d) 64) then planV [stBounds]
  else
    let b := expertBlock s (clAux d)
    let map := ext false b.map (2 * b.e)
    let ms := clMembers s d
    let sf := (tensor s x (clSTid d)).fmt
    let df := (tensor s x (clDTid d)).fmt
    let members := if extentOutside s x map then [] else expertMap s b
    let bad := !b.ok || !mapOk members || (members.any fun p => !ms.contains p.pkg)
      || (!clLocal d && decide (512 < ms.length * b.cap))
      || (op == .dispatch && !capacityOk b (realTokens s x d b).length)
    let es := if op = .dispatch then
        [ext false (clSrc d) (sized sf (rowBytes sf (clSrc d) b.count (clCount d))), ext false b.logits (4 * b.e * b.count),
         ext true b.assign (8 * b.k * b.count), ext true b.sum (64 + 4 * b.e)]
          ++ servedExts s b b.inOff (sized sf (64 + operandBytes sf (clCount d)))
      else
        [ext false b.assign (8 * b.k * b.count), ext true (clDst d) (sized df (rowBytes df (clDst d) b.count (clCount d)))]
          ++ outputExts s b (sized sf (operandBytes sf (clCount d)))
    ⟨whenV bad stBadDesc, [ext false (clAux d) 64, map] ++ (if bad then [] else es)⟩

def planColl (op : RingOp) (s : State) (x : Nat) (d : Desc) : Plan :=
  let st := clStatic s x op d
  if st.contains stBadDesc then planV st
  else
    (match op with
      | .dispatch | .collCombine => planExpert s x op d
      | .compressed => planCompressed s x d
      | _ => planDense s x op d).join (planV st)

/-! ## What members send (R274, R276, R280, R282; laid out as DESIGN CHOICE, log entry 14) -/

/-- The parameters on which members must agree (R276). -/
def collParams (s : State) (o : OutCmd) : CollParams :=
  let b := expertBlock s (clAux o.d)
  let expert := o.d.opCode == 4 || o.d.opCode == 5
  let n (k : Nat) : Nat := if expert then k else 0
  ⟨BitVec.ofNat 4 o.d.opCode, BitVec.ofNat 32 (clCount o.d), BitVec.ofNat 2 (clRedop o.d), clWire o.d,
   BitVec.ofNat 3 (clCmode o.d), BitVec.ofNat 8 (n b.e), BitVec.ofNat 4 (n b.k), BitVec.ofNat 10 (n b.cap)⟩

/-- A handshake's parameters as its first line carries them. -/
def paramBits (p : CollParams) : Nat :=
  p.op.toNat + p.count.toNat * 2 ^ 4 + p.redop.toNat * 2 ^ 36 + (if p.wire then 2 ^ 38 else 0) + p.cmode.toNat * 2 ^ 39
    + p.e.toNat * 2 ^ 42 + p.k.toNat * 2 ^ 50 + p.cap.toNat * 2 ^ 54

def Stats.counts (st : Stats) : CollCounts := ⟨st.total, st.sat, st.ufl, st.nonfin, st.amax.map fun v => BitVec.ofNat 32 (bits32 v), st.wrote⟩

def countsStats (c : CollCounts) : Stats := ⟨c.total, c.sat, c.ufl, c.nonfin, c.amax.map fun v => ofBits32 v.toNat, c.wrote⟩

/-- An owner's counts as the first line of its last frame carries them. -/
def countBits (c : CollCounts) : Nat :=
  c.total % 2 ^ 48 + c.sat % 2 ^ 48 * 2 ^ 48 + c.ufl % 2 ^ 48 * 2 ^ 96 + c.nonfin % 2 ^ 48 * 2 ^ 144
    + (match c.amax with | some a => 2 ^ 192 + a.toNat * 2 ^ 193 | none => 0) + (if c.wrote then 2 ^ 225 else 0)

/-- The frames of a message of lines to a package, one after another: each begins with a line of its own, which in the last
carries `last`. -/
def sendLines (s : State) (o : OutCmd) (pkg kind last : Nat) (l : Lines) : State :=
  let per := 64 * (maxLines s - 1)
  let frames := max 1 (ceilDiv l.data.length per)
  (List.range frames).foldl (fun s i =>
    let chunk := padLines ((l.data.drop (i * per)).take per)
    let mask := (List.range (maxLines s - 1)).foldl (fun m k => if l.bad.contains (i * (maxLines s - 1) + k) then m + 2 ^ (k + 1) else m) 0
    sendMessage s pkg 0 8 o.ctx o.d.tag mask
      (messageLine kind (clGroup o.d) o.seqNo (if i + 1 = frames then 1 + 2 * last else 0) ++ chunk)) s

/-- What this member contributes to rank r. -/
def contribution (s : State) (x : Nat) (op : RingOp) (d : Desc) (r : Nat) : Lines :=
  match op with
  | .allreduce | .reduceScatter =>
    let sp := blockSpan op (tensor s x (clSTid d)).fmt (tensor s x (clDTid d)).fmt (clMembers s d).length (clCount d) r
    valueLines ((List.range (sp.2 - sp.1)).map fun i => srcValue s x d (srcPlace op (clCount d) r (sp.1 + i)))
  | .allgather | .alltoall => memLines s (gatherFrom s x op d r) (gatherBytes s x d)
  | .dispatch =>
    let b := expertBlock s (clAux d)
    dispatchImage s x d b (assignAll s x d b) ((clMembers s d).getD r 0)
  | .compressed => compressedImage s x d (bitternAt s (clAux d))
  | _ => ⟨[], []⟩

/-- What this member returns to rank r once every contribution has arrived: its converted block with its counts, base
positions, or nothing. -/
def returned (s : State) (x : Nat) (op : RingOp) (d : Desc) (parts : Nat → Lines) (r : Nat) : Lines × Stats :=
  match op with
  | .allreduce => ownBlock s x op d parts
  | .reduceScatter =>
    let b := ownBlock s x op d parts
    (if r = clRank s d then b.1 else ⟨[], []⟩, b.2)
  | .dispatch => (basesFor s x d parts r, Stats.empty)
  | _ => (⟨[], []⟩, Stats.empty)

/-! ## What has arrived (R276) -/

/-- What a package has sent for a COLL, in the order of its arrival. -/
def bodiesFrom (s : State) (g n pkg : Nat) : List CollBody :=
  (s.collIn.filter fun p => p.1 == pkg && p.2.group.val == g && p.2.seqNo.toNat == n).map fun p => p.2.body

/-- Bytes of several frames, joined. -/
def joinFrames (fs : List (List Byte × List Nat)) : Lines :=
  fs.foldl (fun l p => ⟨l.data ++ p.1, l.bad ++ p.2.map (l.data.length / 64 + ·)⟩) ⟨[], []⟩

def shakeOf (bs : List CollBody) : Option CollParams := bs.findSome? fun b => match b with | .shake p => some p | _ => none

/-- A whole contribution. -/
def dataOf (bs : List CollBody) : Option Lines :=
  if bs.any fun b => match b with | .data _ _ last => last | _ => false then
    some (joinFrames (bs.filterMap fun b => match b with | .data d bad _ => some (d, bad) | _ => none))
  else none

/-- What a member has returned, whole, with its counts. -/
def blockOf (bs : List CollBody) : Option (Lines × Stats) :=
  (bs.findSome? fun b => match b with | .block _ _ (some c) => some c | _ => none).map fun c =>
    (joinFrames (bs.filterMap fun b => match b with | .block d bad _ => some (d, bad) | _ => none), countsStats c)

/-- Everything about a COLL of a group that has ended is forgotten; what is for one still to come stays. -/
def forgetPast (s : State) (g : Nat) : State :=
  let live (n : Nat) : Bool := decide (cnt32 n (smGet 0 s.grpSeq g) < 2 ^ 31)
    || s.outs.any fun o => clMatched o.d && clGroup o.d == g && o.seqNo == n
  { s with collIn := s.collIn.filter fun p => p.2.group.val != g || live p.2.seqNo.toNat }

/-! ## Effects -/

/-- Complete with the group sequence number as DETAIL (R312). -/
def endColl (s : State) (o : OutCmd) (st : Nat) : State := forgetPast (complete s o st o.seqNo) (clGroup o.d)

/-- DISPATCH and COMBINE belong to the teacher: they mark nothing, and their conversions count under eval (R189, DEDUCED, log
entry 144). -/
def collEval (d : Desc) : Bool := d.opCode == 4 || d.opCode == 5

/-- Results land, those for a peer window as posted writes, and the command completes. -/
def landColl (s : State) (o : OutCmd) (counted plain : Out) : State :=
  let eval := collEval o.d
  let a := storeOut s o.ctx o.d.tag counted.cells counted.bad
  let s := countStats (landMarks a.1 o.ctx o.d.tag eval counted) o.ctx (tensor s o.ctx (clDTid o.d)) eval counted.stats
  let b := storeOut s o.ctx o.d.tag plain.cells plain.bad
  endColl (landMarks b.1 o.ctx o.d.tag eval plain) o (workStatus (!counted.bad.isEmpty || !plain.bad.isEmpty) (a.2 || b.2))

/-- Memory as a COLL reads it: read data of peers stand at their window addresses. -/
def collView (s : State) (o : OutCmd) : State :=
  o.gotBad.foldl (fun s l => setPoison s (l * 64) true) (o.got.foldl (fun s c => pokeByte s c.1 c.2) s)

/-- COMBINE with every byte at hand. -/
def combineNow (s : State) (o : OutCmd) : State := landColl s o (combineOut (collView s o) o.ctx o.d) Out.empty

/-- COMBINE: outputs on other packages are read over their windows first (R280). -/
def startCombine (s : State) (o : OutCmd) : State :=
  let lines := combineLines s o.ctx o.d
  if lines.isEmpty then combineNow s o
  else lines.foldl (fun s a => sendRead s o.ctx o.ident a) (putOut s { o with st := .peerRead })

/-- Every contribution is at hand, and whatever the members have returned. -/
def finishColl (op : RingOp) (s : State) (o : OutCmd) (parts : Nat → Lines) (blocks : Nat → Lines × Stats) : State :=
  let v := collView s o
  match op with
  | .dispatch =>
    let r := dispatchOut v o.ctx o.d parts fun r => (blocks r).1
    landColl (bumpBy s (.telCxReroutes o.ctx) 0 48 r.2) o Out.empty r.1
  | .collCombine => startCombine s o
  | .compressed =>
    let r := compressedOut v o.ctx o.d parts
    landColl s o r.1 r.2
  | .allgather | .alltoall => landColl s o Out.empty (gatherOut v o.ctx op o.d parts)
  | _ => landColl s o (if (clMembers s o.d).length ≤ 1 then aloneOut v o.ctx o.d else reduceOut v o.ctx op o.d blocks) Out.empty

/-- A flip that a failed COMPRESSED had journalled is taken back (R284). -/
def dropFlip (s : State) (o : OutCmd) : State :=
  if RingOp.ofDesc o.d = some .compressed then
    refreshUsed (modCtx s o.ctx fun c => { c with journal := c.journal.filter (· != .flip (clAux o.d)) }) o.ctx
  else s

/-- What a COLL writes in device memory. -/
def collTargets (s : State) (o : OutCmd) : List Ext :=
  match RingOp.ofDesc o.d with
  | some op => (planColl op s o.ctx o.d).exts.filter fun e => e.write && !e.empty
  | none => []

/-- A collective fails during its exchange: its destination and an inactive half are undefined (R284, DESIGN CHOICE, log entry 1). -/
def collLost (s : State) (o : OutCmd) : State :=
  (collTargets s o).foldl (fun s e => freeExtent s e.lo.toNat e.len) (dropFlip s o)

/-- A COLL that has begun. -/
def collBegun (o : OutCmd) : Bool := match o.st with | .coll _ | .peerRead => true | _ => false

/-- A survivor of a failed collective: REMOTE_FAIL, and the context is remote-poisoned (R269, R284). Results of one that has begun
are undefined. -/
def collFailed (s : State) (o : OutCmd) : State :=
  endColl (setRemotePoisoned (clAbandon (if collBegun o then collLost s o else s) o) o.ctx true) o stRemoteFail

/-- The operation of a COLL. -/
def collOp (o : OutCmd) : RingOp := (RingOp.ofDesc o.d).getD .allreduce

/-- This member's own part of what members return, kept beside what the others send. -/
def keepOwn (s : State) (o : OutCmd) (b : Lines × Stats) : State :=
  { s with collIn := s.collIn ++ [(ownPkg s, ⟨Fin.ofNat 64 (clGroup o.d), BitVec.ofNat 32 o.seqNo, .block b.1.data b.1.bad (some b.2.counts)⟩)] }

/-- The next phase of an exchange, once what it waits for has arrived: a handshake at another number fails both sides, a
mismatch refuses every member (R276, R277); with all handshakes the contributions go out, with all contributions what each
member returns, and with all of that the results land. None while something is missing. -/
def collStep (s : State) (o : OutCmd) : Option State :=
  let g := clGroup o.d
  let op := collOp o
  let ms := clMembers s o.d
  let from' (p : Nat) : List CollBody := bodiesFrom s g o.seqNo p
  let all (f : List CollBody → Bool) : Bool := (clPeers s o.d).all fun p => f (from' p)
  let parts (r : Nat) : Lines := (dataOf (from' (ms.getD r 0))).getD ⟨[], []⟩
  let blocks (r : Nat) : Lines × Stats := (blockOf (from' (ms.getD r 0))).getD (⟨[], []⟩, Stats.empty)
  let v := collView s o
  match o.st with
  | .coll .shake =>
    let astray := (clPeers s o.d).any fun p => (shakeOf (from' p)).isNone && s.collIn.any fun q =>
      q.1 == p && q.2.group.val == g && (match q.2.body with | .shake _ => true | _ => false)
    let differs := (clPeers s o.d).any fun p => (shakeOf (from' p)).any (· != collParams s o)
    if astray then some (endColl (setRemotePoisoned (clAbandon (dropFlip s o) o) o.ctx true) o stRemoteFail)
    else if differs then some (endColl (clAbandon (dropFlip s o) o) o stBadDesc)
    else if !all fun bs => (shakeOf bs).isSome then none
    else if op = .collCombine then some (startCombine s o)
    else
      some (putOut ((clPeers s o.d).foldl (fun s p => sendLines s o p 1 0 (contribution v o.ctx op o.d (ms.idxOf p))) s)
        { o with st := .coll .data })
  | .coll .data =>
    if !all fun bs => (dataOf bs).isSome then none
    else if op = .allreduce || op = .reduceScatter || op = .dispatch then
      let s := (clPeers s o.d).foldl (fun s p =>
        let b := returned v o.ctx op o.d parts (ms.idxOf p)
        sendLines s o p 2 (countBits b.2.counts) b.1) s
      some (putOut (keepOwn s o (returned v o.ctx op o.d parts (clRank s o.d))) { o with st := .coll .blocks })
    else some (finishColl op s o parts blocks)
  | .coll .blocks => if all fun bs => (blockOf bs).isSome then some (finishColl op s o parts blocks) else none
  | _ => none

/-- Carry an exchange on as far as what has arrived allows. -/
def collGoes : Nat → State → Nat → State
  | 0, s, _ => s
  | k + 1, s, ident =>
    match findOut s ident with
    | none => s
    | some o => match collStep s o with
      | some s => collGoes k s ident
      | none => s

/-- The handshake goes out, unless a member has abandoned the exchange already (R276, R277). A COLL alone finishes at once. -/
def openColl (s : State) (o : OutCmd) : State :=
  let g := clGroup o.d
  let s := forgetPast s g
  if (clMembers s o.d).length ≤ 1 then finishColl (collOp o) s o (fun _ => ⟨[], []⟩) fun _ => (⟨[], []⟩, Stats.empty)
  else if s.abandoned.contains (g, o.seqNo) then
    collFailed { s with abandoned := s.abandoned.filter (· != (g, o.seqNo)) } o
  else
    collGoes 4 (putOut (tellMembers s o (messageLine 0 g o.seqNo (paramBits (collParams s o)))) { o with st := .coll .shake }) o.ident

/-- The lines of other packages that a COLL reads through their windows before it opens. -/
def collFetch (s : State) (o : OutCmd) : List Nat :=
  if collOp o = .collCombine then []
  else dedup ((((planColl (collOp o) s o.ctx o.d).exts.filter fun e => !e.write && !e.empty && isRemote s e.lo.toNat)).flatMap fun e =>
    (lineSpan e.lo.toNat e.len).map (64 * ·))

/-- COLL: the flip of a COMPRESSED is journalled (R283), bytes of peers are read, and the exchange opens. -/
def runColl (op : RingOp) (s : State) (o : OutCmd) : State :=
  match if op == .compressed then journalAdd s o.ctx o.d [] (.flip (clAux o.d)) else some s with
  | none => endColl (clAbandon s o) o stQuota
  | some s =>
    let lines := collFetch s o
    if lines.isEmpty then openColl s o
    else lines.foldl (fun s a => sendRead s o.ctx o.ident a) (putOut s { o with st := .peerRead })

/-- A COLL has all the bytes that it asked peers for. -/
def collFetched (s : State) (o : OutCmd) : State := if collOp o = .collCombine then combineNow s o else openColl s o

/-- The COLL of a group whose exchange runs. -/
def waitingColl (s : State) (g : Nat) : Option OutCmd :=
  s.outs.find? fun o => clGroup o.d == g && (match o.st with | .coll _ => true | _ => false)

/-- Something arrives from a member: it is kept, and the exchange that waits goes on (R276). -/
def collArrives (s : State) (pkg : Nat) (p : CollPart) : State :=
  let g := p.group.val
  let s := forgetPast { s with collIn := s.collIn ++ [(pkg, p)] } g
  match waitingColl s g with
  | some o => collGoes 4 s o.ident
  | none => s

end Sys2Proof.Machine
end

