-- ==== Sys2Proof/Machine/Snap.lean ====
section
/-! DEFINITION. Snapshots: what is captured, cuts, streams, and restoring (R364 to R374). -/

namespace Sys2Proof.Machine

/-! ## The descriptor (R370) -/

def snFull (d : Desc) : Bool := bitOf d.w2 4
def snPrev (d : Desc) : Bool := bitOf d.w2 5
def snSrc (d : Desc) : Nat := fld d.w2 6 6
def snGroupEn (d : Desc) : Bool := bitOf d.w2 12
def snGroup (d : Desc) : Nat := fld d.w2 13 6
def snKeepMaps (d : Desc) : Bool := bitOf d.w2 19
def snExpect (d : Desc) : Word := d.w3

/-! ## What is captured (R364) -/

def snapListAddr (s : State) (x : Nat) : Nat := rf s (.fltCxSnapList x) 0 48
def snapListCount (s : State) (x : Nat) : Nat := rf s (.fltCxSnapList x) 48 13

/-- Entries of the list: address and length in slabs. -/
def snapEntry (s : State) (x i : Nat) : Nat × Nat :=
  let n := readLe s (snapListAddr s x + 16 * i) 16
  (bitsAt n 0 48, bitsAt n 64 32)

def snapEntryOk (s : State) (x i : Nat) : Bool :=
  let n := readLe s (snapListAddr s x + 16 * i) 16
  let e := snapEntry s x i
  bitsAt n 48 16 == 0 && bitsAt n 96 32 == 0 && e.1 % slabBytes == 0 && e.2 != 0 && inPaged e.1
    && !extentOutside s x (ext false e.1 (e.2 * slabBytes))

def snapEntries (s : State) (x : Nat) : List (Nat × Nat) :=
  (List.range (snapListCount s x)).map fun i => ((snapEntry s x i).1, (snapEntry s x i).2 * slabBytes)

/-- The history arrays that the scale table names. -/
def historyArrays (s : State) (x : Nat) : List (Nat × Nat) :=
  (List.range 4096).filterMap fun t =>
    let a := readLe s (entryAddr s x t + 16) 6
    if a = 0 then none else some (a, 4 * (bitsAt (entryBits s x t) 32 10 + 1))

/-- The automatic items: scale table, history arrays, phase-map table, and the LIVE adapters' extents. -/
def snapItems (s : State) (x : Nat) : List (Nat × Nat) :=
  (rf s (.ctxCxScale x) 0 48, 131072) :: historyArrays s x
    ++ (if rf s (.ctxCxPmap x) 0 48 = 0 then [] else [(rf s (.ctxCxPmap x) 0 48, 256)])
    ++ (adaptersOf s x .live).flatMap fun p => [adpState s p.2, adpPass s p.2].map fun e => (e.lo.toNat, e.len)

def snapExtents (s : State) (x : Nat) : List (Nat × Nat) := snapEntries s x ++ snapItems s x

/-- The list is faulty (R364). -/
def snapListBad (s : State) (x : Nat) : Bool :=
  let n := snapListCount s x
  let list := ext false (snapListAddr s x) (16 * n)
  n != 0 && (decide (4096 < n) || extentOutside s x list || (List.range n).any fun i => !snapEntryOk s x i) ||
    (let es := (snapEntries s x).map fun e => ext true e.1 e.2
     let auto := (snapItems s x).map fun e => ext false e.1 e.2
     anyOverlap es || es.any fun e => auto.any e.meets)

/-- C: every item rounded up to whole slabs. -/
def capturedBytes (s : State) (x : Nat) : Nat := (snapExtents s x).foldl (fun n e => n + roundUp e.2 slabBytes) 0

/-- 2 MiB frames that the area must hold (R369). -/
def areaNeeded (s : State) (x : Nat) : Nat :=
  let c := capturedBytes s x
  ceilDiv (2 * c + 32 * ceilDiv c slabBytes + slabBytes) pageBytes

def areaTooSmall (s : State) (x : Nat) : Bool :=
  rf s (.fltCxSnapArea x) 0 48 == 0 || decide (rf s (.fltCxSnapSize x) 0 32 < areaNeeded s x)

/-! ## Cuts (R365, R366) -/

/-- The slabs of some extents. -/
def slabsOf (s : State) (es : List (Nat × Nat)) : List Nat :=
  dedup (es.flatMap fun e => if e.2 = 0 then [] else
    let a := resolve s e.1
    (List.range ((a + e.2 - 1) / slabBytes - a / slabBytes + 1)).map (a / slabBytes + ·))

/-- A slab has been written since the context's last cut. -/
def slabDirty (s : State) (x slab : Nat) : Bool := !(smGet 0 s.clean slab).testBit x

def setDirty (s : State) (x : Nat) (d : Bool) (slabs : List Nat) : State :=
  slabs.foldl (fun s k => { s with clean := smSet 0 s.clean k (setBit (smGet 0 s.clean k) x (!d)) }) s

/-- The state of the context at this moment. -/
def captureGen (s : State) (x : Nat) : Gen :=
  let es := snapExtents s x
  let es' := es.map fun e => (resolve s e.1, e.2)
  let inside (a : Nat) : Bool := es'.any fun e => decide (e.1 ≤ a) && decide (a < e.1 + e.2)
  { gen := reg s (.ctxCxStep x), extents := es
    cells := s.mem.filter fun c => inside c.1
    bad := (s.poison.filter fun p => p.2 && (inside (p.1 * 64) || inside (p.1 * 64 + 63))).map Prod.fst
    maps := (ctx s x).maps, adapters := adaptersOf s x .live, hist := (ctx s x).hist, time := now s }

/-- SNAP_STAT while a stream runs. -/
def setStreaming (s : State) (x : Nat) (on : Bool) (pending : Nat) : State :=
  setRf (setRf s (.fltCxSnapStat x) 0 1 (if on then 1 else 0)) (.fltCxSnapStat x) 32 32 pending

/-- A cut: the dirty slabs become the capture set, and the dirty set starts empty (R366). -/
def takeCut (s : State) (x : Nat) (by' : Option Nat) (full : Bool) : State :=
  let es := snapExtents s x
  let all := slabsOf s es
  let every := full || !(ctx s x).everSnap || (ctx s x).snapFull
  let set := if every then all else all.filter (slabDirty s x)
  let g := captureGen s x
  let s := setDirty s x false all
  let s := modCtx s x fun c =>
    { c with stream := some ⟨g, set, by', now s⟩, lastCut := now s, snapFull := false, cutDue := false
             snapList := snapEntries s x }
  setStreaming s x true set.length

/-- The list has changed since the last cut read it (R366). -/
def listChanged (s : State) (x : Nat) : Bool := (ctx s x).snapList != snapEntries s x

/-- A background cut that its checks refuse is reported (R369, R371). -/
def backgroundCut (s : State) (x : Nat) : State :=
  if rf s (.fltCxSnapArea x) 0 48 = 0 then s
  else if snapListBad s x || areaTooSmall s x then
    report s 0x48 1 (tierSource s (rf s (.fltCxSnapArea x) 0 48)) (some x) 4 0 0
  else takeCut s x none (listChanged s x)

/-- A cut is taken at once, or when the context's running stream ends. -/
def wantCut (s : State) (x : Nat) : State :=
  if (ctx s x).stream.isSome then modCtx s x fun c => { c with cutDue := true } else backgroundCut s x

/-- The rule of R365 at the end of a commit that completes OK; every commit sets the time of the last one. -/
def cutAtCommit (s : State) (x : Nat) (ok : Bool) : State :=
  let c := ctx s x
  let t := now s
  let interval := max 1 (rf s (.fltCxSnapCfg x) 16 16) * 1000000
  let due := ok && bitOf (reg s (.fltCxSnapCfg x)) 0
    && (!c.everSnap || decide (interval < (t - c.lastCut) + (t - c.lastCommit) + c.lastDur))
  let s := modCtx s x fun c => { c with lastCommit := t }
  if due then wantCut s x else s

/-! ## TAKE and streams (R366, R371) -/

def planTake (s : State) (x : Nat) (d : Desc) : Plan :=
  let _ := d
  planV (whenV (snapListBad s x) stBadDesc ++ whenV (areaTooSmall s x) stQuota)

/-- A TAKE takes its cut, or waits for the stream that runs. -/
def runTake (s : State) (o : OutCmd) : State :=
  let s := putOut s { o with st := .streaming }
  if (ctx s o.ctx).stream.isSome then s else takeCut s o.ctx (some o.ident) (snFull o.d || listChanged s o.ctx)

/-- The next cut of a context whose stream has ended: a TAKE that waits, then a background cut that is due. -/
def nextCut (s : State) (x : Nat) : State :=
  match s.outs.find? fun o => o.ctx == x && o.st == .streaming with
  | some o =>
    if snapListBad s x then complete s o stBadDesc 0
    else if areaTooSmall s x then complete s o stQuota 0
    else takeCut s x (some o.ident) (snFull o.d || listChanged s x)
  | none => if (ctx s x).cutDue then backgroundCut (modCtx s x fun c => { c with cutDue := false }) x else s

/-- A stream is abandoned: its capture set returns to the dirty set, and nothing else changes (R366, R371). -/
def dropStream (s : State) (x : Nat) : State :=
  match (ctx s x).stream with
  | none => s
  | some t =>
    setStreaming (modCtx (setDirty s x true t.capture) x fun c => { c with stream := none, snapFull := c.snapFull || !c.everSnap }) x false 0

def showGens (s : State) (x : Nat) : State :=
  let g (o : Option Gen) : Word := match o with | some g => g.gen | none => BitVec.ofNat 64 (2 ^ 64 - 1)
  setReg (setReg s (.fltCxSnapNewest x) (g (ctx s x).newest)) (.fltCxSnapPrev x) (g (ctx s x).prev)

/-- Streams run one at a time in the order of their cuts (R365). -/
def streamRuns (s : State) (x : Nat) : Bool :=
  match (ctx s x).stream with
  | none => false
  | some t => s.ctxs.all fun c => match c.2.stream with
      | none => true
      | some u => c.1 == x || decide (t.start < u.start) || (t.start == u.start && decide (x < c.1))

/-- A stream finishes: the directory switches, and a TAKE completes (R371). -/
def endStream (s : State) (x : Nat) : State :=
  match (ctx s x).stream with
  | none => s
  | some t =>
    let s := modCtx s x fun c =>
      { c with stream := none, prev := c.newest, newest := some t.cut, everSnap := true, lastDur := now s - t.start
               snapSince := t.cut.gen == reg s (.ctxCxStep x) }
    let s := showGens (setStreaming s x false 0) x
    let s := match t.byTake.bind (findOut s) with
      | some o => complete s o stOk 0
      | none => s
    nextCut s x

/-- A DDR write of a stream fails (R371). -/
def failStream (s : State) (x : Nat) : State :=
  match (ctx s x).stream with
  | none => s
  | some t =>
    let s := report (dropStream s x) 0x48 1 (tierSource s (rf s (.fltCxSnapArea x) 0 48)) (some x) 4 0 0
    let s := match t.byTake.bind (findOut s) with
      | some o => complete s o stTierFail 0
      | none => s
    nextCut s x

/-! ## Restoring (R372, R373) -/

/-- The generation that a RESTORE names. -/
def restoreGen (s : State) (x : Nat) (d : Desc) : Option Gen :=
  let g := if snPrev d then (ctx s x).prev else (ctx s x).newest
  match g with
  | none => none
  | some g => if snExpect d = BitVec.ofNat 64 (2 ^ 64 - 1) || g.gen = snExpect d then some g else none

def genPages (s : State) (g : Gen) : List Nat := dedup (g.extents.flatMap fun e => pagesOf s e.1 e.2)

/-- An adapter of a snapshot is the one now registered under its id. -/
def sameAdapter (a b : Adapter) : Bool :=
  a.owner == b.owner && a.origin == b.origin && a.layout == b.layout && a.stAddr == b.stAddr && a.passAddr == b.passAddr

/-- Adapters return to the cut: later ones are retired, retired ones stay retired, export counts stay (R258, R372). On a spare,
which has retired none, the entries of ids that are FREE are restored with the rest (R258, R373, log entry 95). -/
def restoreAdapters (s : State) (x : Nat) (g : Gen) (spare : Bool) : State :=
  let mine := s.adapters.filter fun p => p.2.owner == x && p.2.state != .free
  let gone := mine.filter fun p => !g.adapters.any fun q => q.1 == p.1 && sameAdapter q.2 p.2
  let s := gone.foldl (fun s p => freeAdapter s p.1) s
  g.adapters.foldl (fun s q =>
    if (mine.any fun p => p.1 == q.1 && sameAdapter q.2 p.2) || (spare && (adp s q.1).state == .free) then
      ownKey (setAdp s q.1 { q.2 with state := .live, finished := false, rebuildDue := false }) x q.1
    else s) s

/-- The captured bytes of a slab go back to their homes; the flag says that a frame was exhausted. -/
def restoreSlab (g : Gen) (skip : Nat × Nat) (r : State × Bool) (slab : Nat) : State × Bool :=
  let a := slab * slabBytes
  let inGen (b : Nat) : Bool := (g.extents.any fun e => decide (resolve r.1 e.1 ≤ b) && decide (b < resolve r.1 e.1 + e.2))
    && !(decide (skip.1 ≤ b) && decide (b < skip.1 + skip.2))
  let cells := ((List.range slabBytes).filter fun i => inGen (a + i)).map fun i => (a + i, smGet (0 : Byte) g.cells (a + i))
  let q := storeCells r.1 cells (g.bad.filter fun l => decide (a ≤ l * 64) && decide (l * 64 < a + slabBytes))
  (q.1, r.2 || q.2)

/-- Verdicts of the abandoned steps of a context's groups serve no later STEP (R222, log entry 142). -/
def dropVerdicts (s : State) (x : Nat) : State := { s with verdicts := s.verdicts.filter fun v => !grpOpen s x v.1 }

/-- The groups of a context restart at 0 (R277). -/
def resetGroups (s : State) (x : Nat) : State :=
  { s with grpSeq := s.grpSeq.filter fun p => !grpOpen s x p.1
           abandoned := s.abandoned.filter fun p => !grpOpen s x p.1
           collIn := s.collIn.filter fun p => !grpOpen s x p.2.group.val }

/-- Every captured line that is not in `done` slabs is poisoned (R372, R373). -/
def poisonRest (s : State) (slabs : List Nat) (done : Nat) : State :=
  (slabs.drop done).foldl (fun s k => poisonExtent s (k * slabBytes) slabBytes) s

/-- The steps of R372 once the checks have passed; `failsAt` is the slab whose read fails. -/
def applyGen (s : State) (o : OutCmd) (g : Gen) (failsAt : Option Nat) (failSt : Nat) : State :=
  let x := o.ctx
  let keep := snKeepMaps o.d
  let s := (backPages s x (genPages s g)).getD s
  let s := refreshUsed (modCtx s x fun c => { c with journal := [], marks := [], nextMarks := [], counted := 0 }) x
  let s := setReg s (.ctxCxSteprec x) (setFld 0 4 1 (if remotePoisoned s x then 1 else 0))
  let s := restoreAdapters s x g (o.op == .restoreFrom)
  let skip := if keep then (rf s (.ctxCxPmap x) 0 48, 256) else (0, 0)
  let slabs := slabsOf s g.extents
  let n := match failsAt with | some k => min k slabs.length | none => slabs.length
  let r := (slabs.take n).foldl (restoreSlab g skip) (s, false)
  match failsAt with
  | some _ =>
    complete (report (poisonRest r.1 slabs n) 0x49 1
      (if failSt = stRemoteFail then srcOf 10 (snSrc o.d) else tierSource r.1 (rf s (.fltCxSnapArea x) 0 48)) (some x) 4 0 0) o failSt 0
  | none =>
    let s := clearAmax (setReg r.1 (.ctxCxStep x) g.gen) x
    let s := dropVerdicts (setRemotePoisoned s x false) x
    let s := modCtx s x fun c =>
      { c with maps := if keep then c.maps else g.maps, hist := g.hist
               rings := c.rings.map fun p => (p.1, { p.2 with map := 0 }) }
    let s := resetGroups (setDirty s x false slabs) x
    let s := if snPrev o.d then showGens (modCtx s x fun c => { c with newest := c.prev, prev := none }) x else s
    complete s o (workStatus false r.2) 0

/-- The steps of a restore after the context's other commands have been ended: checks, then R372's steps 3 to 6. -/
def restoreWith (s : State) (o : OutCmd) (g : Option Gen) (failsAt : Option Nat) (failSt : Nat) : State :=
  match g with
  | none => complete s o stBadDesc 0
  | some g =>
    if (backPages s o.ctx (genPages s g)).isNone then complete s o stQuota 0
    else
      let staged := s.outs.filter fun p => p.ctx == o.ctx && p.st == .staged
      applyGen (staged.foldl (fun s p => complete s p stCancelled 0) s) o g failsAt failSt

/-- RESTORE_FROM: its group must be enabled for the context, its peers consented to and routed (R272, R286, R373). -/
def planRestoreFrom (s : State) (x : Nat) (d : Desc) : Plan :=
  let srcs := if snGroupEn d then grpMembers s (snGroup d) else [snSrc d]
  planV (whenV ((snGroupEn d && !grpOpen s x (snGroup d)) || srcs.isEmpty) stBadDesc
    ++ whenV (!peerConsent s || srcs.any fun p => p != ownPkg s && routeMask s p == 0) stBounds)

/-- The sources of a RESTORE_FROM, in rank order. -/
def restoreSources (s : State) (d : Desc) : List Nat := if snGroupEn d then grpMembers s (snGroup d) else [snSrc d]

/-- The registry entry that a snapshot of another package holds. -/
def partAdapter (x : Nat) (a : SnapAdapter) : Nat × Adapter :=
  (a.adapter.toNat, ⟨.live, x, a.version, a.origin, a.layout, a.stAddr, a.pass, a.ember, false, false⟩)

/-- The generation that the parts of the sources make up: slab i from the member of rank i mod n (R373). -/
def joinParts (s : State) (x : Nat) (d : Desc) (parts : List SnapPart) : Option Gen :=
  match parts with
  | [] => none
  | p :: _ =>
    let want := snExpect d = BitVec.ofNat 64 (2 ^ 64 - 1) || p.gen = snExpect d
    if parts.length ≠ (restoreSources s d).length || !want || parts.any (fun q => q.gen != p.gen || q.extents != p.extents) then none
    else
      let es := p.extents
      let slabs := slabsOf s es
      let cells := (List.range slabs.length).flatMap fun i =>
        let a := slabs.getD i 0 * slabBytes
        ((parts.getD (i % parts.length) p).cells.filter fun c => decide (a ≤ c.1) && decide (c.1 < a + slabBytes))
      some { gen := p.gen, extents := es, cells := cells.foldl (fun m c => smSet 0 m c.1 c.2) []
             bad := dedup (parts.flatMap (·.bad)), maps := p.maps
             adapters := p.adapters.map (partAdapter x), hist := p.hist, time := now s }

end Sys2Proof.Machine
end

