-- ==== Sys2Proof/Machine/Boundary.lean ====
section
/-! DEFINITION. The STEP command and the step boundary: fence, check, commit or void, map load, adapters, admission
(R213 to R224, R235, R247, R252 to R254, R258, R361, R365). -/

namespace Sys2Proof.Machine

/-! ## The descriptor (R219) -/

def spMask (d : Desc) : Nat := fld d.w2 0 16
def spMapLoad (d : Desc) : Bool := bitOf d.w2 16
def spGroupEn (d : Desc) : Bool := bitOf d.w2 17
def spGroup (d : Desc) : Nat := fld d.w2 18 6
def spLoss (d : Desc) : Nat := fld d.w3 0 48
def spLossCount (d : Desc) : Nat := fld d.w4 0 32
def spAcc (d : Desc) : Nat := fld d.w5 0 48
def spAccCount (d : Desc) : Nat := fld d.w6 0 16

/-- Ring n is fenced: named in RING_MASK, or the STEP's own (R219). -/
def spFences (o : OutCmd) (n : Nat) : Bool := (spMask o.d).testBit n || n == o.ring

/-! ## Acceptance (R219, R224, R235) -/

/-- Entry i of the accumulator table: address, length in lines, reserved bits 0 and aligned. -/
def accEntry (s : State) (d : Desc) (i : Nat) : Nat × Nat × Bool :=
  let n := readLe s (spAcc d + 16 * i) 16
  (bitsAt n 0 48, bitsAt n 64 32, bitsAt n 48 16 == 0 && bitsAt n 96 32 == 0 && bitsAt n 0 48 % 64 == 0)

def accEntries (s : State) (d : Desc) : List (Nat × Nat × Bool) := (List.range (spAccCount d)).map (accEntry s d)

/-- The extents that the table lists. -/
def accExts (s : State) (d : Desc) : List Ext := (accEntries s d).map fun e => ext true e.1 (64 * e.2.1)

/-- Map n of the phase-map table in memory. -/
def mapAt (s : State) (x n : Nat) : List Nat := (List.range 32).map fun r => (readByte s (rf s (.ctxCxPmap x) 0 48 + 32 * n + r)).toNat

/-- A permutation of 0 to 31, its reserved bits 0 (R231). -/
def isPermutation (m : List Nat) : Bool := (List.range 32).all fun r => m.contains r

def tableMaps (s : State) (x : Nat) : List (List Nat) := (List.range 8).map (mapAt s x)

/-- The marks that count for a STEP: INCOMPLETE when a fenced ring set it (R215). -/
def stepMarks (s : State) (o : OutCmd) : List StepMark :=
  (ctx s o.ctx).marks.filter fun m => m.bit != markIncomplete || spFences o m.ring

/-- The conditions of R235. -/
def mapLoadOk (s : State) (o : OutCmd) : Bool :=
  let x := o.ctx
  let c := ctx s x
  c.journal.isEmpty && (stepMarks s o).isEmpty && !((List.range 16).any fun n => spFences o n && c.counted.testBit n) && c.snapSince
    && rf s (.ctxCxPmap x) 0 48 != 0 && (tableMaps s x).all isPermutation

def planStep (s : State) (x : Nat) (d : Desc) : Plan :=
  let table := ext false (spAcc d) (16 * spAccCount d)
  let readable := !extentOutside s x table
  let accs := if readable then accEntries s d else []
  let exts := if readable then accExts s d else []
  let bad := (spGroupEn d && !grpOpen s x (spGroup d)) || accs.any fun e => !e.2.2
  let stray := accs.any fun e => e.2.1 != 0 && !(inSram (resolve s e.1) || inHbm (resolve s e.1))
  ⟨whenV bad stBadDesc ++ whenV stray stBounds, [ext false (spLoss d) (4 * spLossCount d), table] ++ exts⟩

/-- A STEP that would load the phase maps is refused where R235 does not hold. -/
def planBoundary (s : State) (o : OutCmd) : Plan := planV (whenV (o.op == .step && spMapLoad o.d && !mapLoadOk s o) stBadDesc)

/-- An accepted STEP waits at its fence (R220). -/
def runStep (s : State) (o : OutCmd) : State := putOut s { o with st := .stepFence }

/-- Nothing placed earlier in the fenced rings is outstanding; an ADMIT that is staged waits for the boundary itself. -/
def fenceDrained (s : State) (o : OutCmd) : Bool :=
  let above := ancestors s 5 o
  !s.outs.any fun p => p.ctx == o.ctx && spFences o p.ring && p.ident != o.ident && !placedAfter s p o && p.st != .staged
    && !above.contains p.ident

/-! ## The check (R214, R220) -/

/-- Cause bits of a void: NONFIN, POISON, INCOMPLETE, REFUSED, LOSS, PEER (R317). -/
def causeLoss : Nat := 16
def causePeer : Nat := 32

/-- Some loss value or GMUL scalar is not finite, or is poisoned. -/
def lossBad (s : State) (x : Nat) (d : Desc) : Bool :=
  let bad (a : Nat) : Bool := !(ofBits32 (readLe s a 4)).isFinite || anyPoison s a 4
  ((List.range (spLossCount d)).any fun i => bad (spLoss d + 4 * i))
    || (ctx s x).journal.any fun e => match e with
        | .opt _ _ b => optGmulAddr b != 0 && bad (optGmulAddr b)
        | _ => false

/-- The causes that a STEP finds by itself (R214, R220). A map load, which commits nothing, has none (R235, log entry 140). -/
def stepCause (s : State) (o : OutCmd) : Nat :=
  let ms := stepMarks s o
  let marks := (List.range 4).foldl (fun n b => if ms.any fun m => m.bit == b then n + 2 ^ b else n) 0
  if spMapLoad o.d then 0 else marks + if lossBad s o.ctx o.d then causeLoss else 0

/-! ## Commit and void (R221) -/

/-- Zero the listed accumulators (R224). -/
def zeroAccs (s : State) (d : Desc) : State :=
  (accExts s d).foldl (fun s e =>
    (storeCells s ((List.range e.len).map fun i => (e.lo.toNat + i, (0 : Byte))) []).1) s

/-- Homes that an entry writes. -/
def optTargets (s : State) (x : Nat) (op : RingOp) (d : Desc) (b : List Byte) : List Ext :=
  ((optRoles (op == .sgdMom) b).filter (·.used)).map fun r =>
    ext true r.addr (rowBytes (tensor s x r.tid).fmt r.addr (vecRows d) (vecCols d))

/-- SOURCE of a unit that has spares (R354). -/
def spareSource : SpareUnit → Nat
  | .cluster c => srcOf 0 c.val
  | .region r => srcOf 1 r.val

/-- How a commit has gone: poisoned results, an exhausted frame, an entry cut short. -/
structure CommitSt where
  poisoned  : Bool
  exhausted : Bool
  cut       : Bool
deriving DecidableEq, Repr

/-- Perform one journal entry: an entry that a unit failure cuts short leaves its destination poisoned (R361). -/
def commitEntry (x : Nat) (cut : List (Nat × SpareUnit)) (r : State × CommitSt) (p : Nat × JEntry) : State × CommitSt :=
  match p.2 with
  | .opt op d b =>
    match cut.find? fun c => c.1 == p.1 with
    | some c =>
      let es := optTargets r.1 x op d b
      let s := es.foldl (fun s e => poisonExtent s e.lo.toNat e.len) r.1
      (report s 0x41 1 (spareSource c.2) (some x) 3 (optMaster b) 0, { r.2 with cut := true })
    | none =>
      let q := commitOpt r.1 x op d b (journalBad r.1 x p.1)
      (q.1, { r.2 with poisoned := r.2.poisoned || q.2.1, exhausted := r.2.exhausted || q.2.2 })
  | .flip a =>
    let bad := anyPoison r.1 (a + 16) 1 || journalBad r.1 x p.1
    let s := storeBytes r.1 (a + 16) [readByte r.1 (a + 16) ^^^ 1]
    (if bad then poisonExtent s (a + 16) 1 else s, { r.2 with poisoned := r.2.poisoned || bad })
  | .scaleSet _ _ => r

/-- The adapters whose masters the journal's entries write (R252). -/
def journalAdapters (s : State) (x : Nat) : List Nat :=
  dedup ((ctx s x).journal.flatMap fun e => match e with
    | .opt _ d b => entryAdapters s b (4 * vecRows d * vecCols d)
    | _ => [])

/-- One SCALE_SET image of the journal, entry p.1. -/
def commitImage (x : Nat) (r : State × Bool) (p : Nat × JEntry) : State × Bool :=
  match p.2 with
  | .scaleSet tid image =>
    let q := landImage r.1 x tid image (journalBad r.1 x p.1)
    (q.1, r.2 || q.2)
  | _ => r

/-- The SCALE_SET images, in journal order, after the history update; the flag says that a poisoned line was read. -/
def commitImages (s : State) (x : Nat) : State × Bool :=
  let jr := (ctx s x).journal
  ((List.range jr.length).zip jr).foldl (commitImage x) (s, false)

def emptyJournal (s : State) (x : Nat) : State := refreshUsed (modCtx s x fun c => { c with journal := [] }) x

/-- The status of a commit. -/
def CommitSt.status (c : CommitSt) : Nat :=
  if c.cut then stChecksum else if c.exhausted then stKeyExhausted else if c.poisoned then stPoisonIn else stOk

/-- A commit: journal, versions, amax and exponents, images, accumulators, counter (R221, R247 step 1). -/
def commitStep (s : State) (o : OutCmd) (cut : List (Nat × SpareUnit)) : State × Nat :=
  let x := o.ctx
  let jr := (ctx s x).journal
  let named := journalAdapters s x
  let r := ((List.range jr.length).zip jr).foldl (commitEntry x cut) (s, ⟨false, false, false⟩)
  let s := named.foldl advanceVersion r.1
  let q := commitScales s x
  let i := commitImages q.1 x
  let c := { r.2 with poisoned := r.2.poisoned || q.2 || i.2 }
  let s := emptyJournal i.1 x
  let s := zeroAccs s o.d
  let s := setReg s (.ctxCxStep x) (regRaw s (.ctxCxStep x) + 1)
  let s := modCtx s x fun c => { c with snapSince := false }
  let s := if c.poisoned then addReport s 42 ⟨0x40, 1, 0, some x, 3, 0, cmdRef o, [0], 0, now s⟩ else s
  (s, c.status)

/-- A void: everything staged is discarded (R221). -/
def voidStep (s : State) (o : OutCmd) : State :=
  zeroAccs (bump (emptyJournal (clearAmax s o.ctx) o.ctx) (.telCxVoids o.ctx)) o.d

/-- The map-load boundary (R235): every ring starts on map 0 (R233). -/
def mapLoadStep (s : State) (o : OutCmd) : State :=
  let s := zeroAccs (clearAmax s o.ctx) o.d
  let ms := tableMaps s o.ctx
  modCtx s o.ctx fun c => { c with maps := ms, rings := c.rings.map fun p => (p.1, { p.2 with map := 0 }) }

/-! ## Adapters and admission at a boundary (R247) -/

/-- The entries of the table being admitted, or of the current table when none is. -/
def admittedEntries (s : State) (x : Nat) : List RagEntry :=
  match s.outs.find? fun o => o.ctx == x && o.st == .staged with
  | some o => ragEntries s (admTable o.d)
  | none => match (ctx s x).ragged with | some a => ragEntries s a | none => []

/-- Step 2: finished adapters are LIVE. -/
def makeLive (s : State) (x : Nat) : State :=
  ((adaptersOf s x .pending).filter (·.2.finished)).foldl (fun s p =>
    advanceEpoch (setAdp s p.1 { p.2 with state := .live, finished := false })) s

/-- Step 2: every RETIRE that the table being admitted does not name. -/
def retireDue (s : State) (x : Nat) : State :=
  let es := admittedEntries s x
  let qs := (ctx s x).adpReqs.filter fun q => q.op == 4 && !es.any fun e => e.adpV && e.adapter == q.adapter
  qs.foldl (fun s q => retireNow s x q) s

/-- Step 4: up to 16 pending EXPORTs in table order. -/
def outgoingArchives (s : State) (x : Nat) : State :=
  let qs := sortBy (fun a b => decide (a.entry ≤ b.entry)) ((ctx s x).adpReqs.filter fun q => q.op == 3)
  (qs.take 16).foldl (fun s q => exportNow s x q) s

/-- Step 3: the staged ADMIT is performed. -/
def admitDue (s : State) (x : Nat) (lost : List Nat) : State :=
  match s.outs.find? fun o => o.ctx == x && o.st == .staged with
  | some o => performAdmit s o lost
  | none => s

/-- A command that its STEP holds back: placed after it in a ring that it fences (R220). -/
def heldBehind (s : State) (o p : OutCmd) : Bool := p.ctx == o.ctx && spFences o p.ring && placedAfter s p o

/-- Commands issued before the boundary count in no later step; those that the STEP held back are the next step's (R215, log
entry 141). -/
def ageCommands (s : State) (o : OutCmd) : State :=
  let outs := s.outs.map fun p => if p.ctx == o.ctx && !heldBehind s o p then { p with old := true } else p
  let mask := outs.foldl (fun n p => if p.ctx == o.ctx && !p.old && isCounted p.d then n ||| 2 ^ p.ring else n) 0
  modCtx { s with outs := outs } o.ctx fun c => { c with counted := mask }

/-- The record of the next step begins with the marks that arrived during the check; REMOTE_POISONED stays (R214). -/
def nextRecord (s : State) (o : OutCmd) : State :=
  let x := o.ctx
  let w := (ctx s x).nextMarks.foldl (fun w m => markWord w m.bit m.tag) 0
  let w := setFld w 4 1 (if remotePoisoned s x then 1 else 0)
  modCtx (setReg (ageCommands s o) (.ctxCxSteprec x) w) x fun c => { c with marks := c.nextMarks, nextMarks := [] }

/-- Steps 2 to 5 of R247, the next step's record, and the completion (R220). -/
def finishBoundary (s : State) (o : OutCmd) (status cause : Nat) (lost : List Nat) : State :=
  let x := o.ctx
  let tag := match stepMarks s o with | m :: _ => m.tag | [] => 0
  let s := { s with attCtl := reg s .attCtl, attSpill := reg s .attSpillCtl }
  let s := retireDue (makeLive s x) x
  let s := outgoingArchives (admitDue s x lost) x
  let s := nextRecord (readAdapterTable s x) o
  let step := reg s (.ctxCxStep x)
  let s := complete s o status (step.toNat % 2 ^ 32)
  if status = stStepVoid then
    writeEvent s x ⟨0x02, some o.ring, if o.parent.isSome then some o.prog else none, tag, step.toNat + cause * 2 ^ 64⟩
  else s

/-! ## The group verdict (R222) -/

/-- The other members of a STEP's group. -/
def groupPeers (s : State) (d : Desc) : List Nat := (grpMembers s (spGroup d)).filter (· != ownPkg s)

/-- The verdict that a member has sent, if it has arrived: counter and whether it is finite. -/
def verdictOf (s : State) (g p : Nat) : Option (Word × Bool) :=
  (s.verdicts.find? fun v => v.1 == g && v.2.1 == p).map fun v => (v.2.2.1, v.2.2.2)

/-- Take the first verdict of each member out. -/
def takeVerdicts (s : State) (g : Nat) (ps : List Nat) : State :=
  { s with verdicts := ps.foldl (fun vs p => vs.eraseP fun v => v.1 == g && v.2.1 == p) s.verdicts }

/-- Every member's verdict has arrived. -/
def verdictsIn (s : State) (d : Desc) : Bool := (groupPeers s d).all fun p => (verdictOf s (spGroup d) p).isSome

/-- Every counter equals this context's own. -/
def countersAgree (s : State) (o : OutCmd) : Bool :=
  (groupPeers s o.d).all fun p => match verdictOf s (spGroup o.d) p with
    | some v => v.1 == reg s (.ctxCxStep o.ctx)
    | none => false

def peersFinite (s : State) (d : Desc) : Bool :=
  (groupPeers s d).all fun p => match verdictOf s (spGroup d) p with
    | some v => v.2
    | none => false

/-! ## The boundary -/

/-- Some adapter of the context awaits its pass image. -/
def rebuildWaits (s : State) (x : Nat) : Bool := s.adapters.any fun p => p.2.owner == x && p.2.rebuildDue && p.2.state != .free

/-- After the commit and its rebuilds, a background cut, then the rest of the boundary. -/
def afterRebuild (s : State) (o : OutCmd) (status : Nat) (lost : List Nat) : State :=
  finishBoundary (cutAtCommit s o.ctx (status == stOk)) o status 0 lost

/-- The verdict is known: commit, map load or void. -/
def decideStep (s : State) (o : OutCmd) (cause : Nat) (lost : List Nat) (cut : List (Nat × SpareUnit)) : State :=
  if cause ≠ 0 then finishBoundary (voidStep s o) o stStepVoid cause lost
  else if spMapLoad o.d then finishBoundary (mapLoadStep s o) o stOk 0 lost
  else
    let r := commitStep s o cut
    if rebuildWaits r.1 o.ctx then putOut r.1 { o with st := .stepRebuild r.2 } else afterRebuild r.1 o r.2 lost

/-- The members have all answered: a counter that differs voids with cause PEER and remote-poisons the context. -/
def groupDecides (s : State) (o : OutCmd) (cause : Nat) (lost : List Nat) (cut : List (Nat × SpareUnit)) : State :=
  let agree := countersAgree s o
  let finite := peersFinite s o.d
  let s := takeVerdicts s (spGroup o.d) (groupPeers s o.d)
  if !agree then decideStep (setRemotePoisoned s o.ctx true) o (cause ||| causePeer) lost cut
  else decideStep s o (if finite then cause else cause ||| causePeer) lost cut

/-- The STEP's verdict goes to the other members of its group (R222). -/
def sendVerdict (s : State) (o : OutCmd) (finite : Bool) : State :=
  let line := leBytes 64 (spGroup o.d + (if finite then 2 ^ 8 else 0) + (reg s (.ctxCxStep o.ctx)).toNat * 2 ^ 64)
  (groupPeers s o.d).foldl (fun s p => sendMessage s p 4 9 o.ctx o.d.tag 0 line) s

/-- The STEP's fence has drained: its check, and its verdict to its group. -/
def checkStep (s : State) (o : OutCmd) (lost : List Nat) (cut : List (Nat × SpareUnit)) : State :=
  if remotePoisoned s o.ctx then complete s o stRemoteFail ((reg s (.ctxCxStep o.ctx)).toNat % 2 ^ 32)
  else
    let cause := stepCause s o
    if spGroupEn o.d then
      let s := sendVerdict s o (cause == 0)
      let o := { o with st := .stepGroup cause }
      if verdictsIn s o.d then groupDecides s o cause lost cut else putOut s o
    else decideStep s o cause lost cut

/-- The STEP of a context that is past its acceptance. -/
def runningStep (s : State) (x : Nat) : Option OutCmd :=
  s.outs.find? fun o => o.ctx == x && (match o.st with | .stepFence | .stepGroup _ | .stepRebuild _ => true | _ => false)

/-- STEP_BOUNDARY: the running STEP takes the next of its steps that is open to it; `lost` and `cut` are what fails
meanwhile (R132, R361). -/
def boundaryNow (s : State) (x : Nat) (lost : List Nat) (cut : List (Nat × SpareUnit)) : State :=
  match runningStep s x with
  | none => s
  | some o =>
    match o.st with
    | .stepFence => if fenceDrained s o then checkStep s o lost cut else s
    | .stepGroup cause => if verdictsIn s o.d then groupDecides s o cause lost cut else s
    | .stepRebuild status => if rebuildWaits s x then s else afterRebuild s o status lost
    | _ => s

/-- No verdict of some member in time: cause PEER, and the context is remote-poisoned (R222). -/
def groupTimeout (s : State) (x : Nat) : State :=
  match runningStep s x with
  | some o =>
    match o.st with
    | .stepGroup cause =>
      if verdictsIn s o.d then s
      else decideStep (setRemotePoisoned (takeVerdicts s (spGroup o.d) (groupPeers s o.d)) x true) o (cause ||| causePeer) [] []
    | _ => s
  | none => s

/-- A member's verdict arrives (R222). -/
def verdictArrives (s : State) (g p : Nat) (counter : Word) (finite : Bool) : State :=
  { s with verdicts := s.verdicts ++ [(g, p, counter, finite)] }

/-- Rebuild an adapter's pass image from its new master (R253, R254). -/
def rebuildNow (s : State) (k : Nat) : State :=
  let a := adp s k
  if a.rebuildDue then
    let r := buildPass s a.owner k (adpLayout s a) a.stAddr a.passAddr
    let a := adp r.1 k
    setAdp r.1 k { a with rebuildDue := false }
  else s

end Sys2Proof.Machine
end

