-- ==== Sys2Proof/Machine/Call.lean ====
section
/-! DEFINITION. The CALL commands: registering, invoking and releasing program images (R303 to R307). -/

namespace Sys2Proof.Machine

def callProg (d : Desc) : Nat := fld d.w2 2 6
def callImage (d : Desc) : Nat := fld d.w3 0 48

def progOf (s : State) (x p : Nat) : Option Prog := smGet none (ctx s x).progs p

def setProg (s : State) (x p : Nat) (v : Option Prog) : State :=
  modCtx s x fun c => { c with progs := smSet none c.progs p v }

/-- A RELEASE of the program waits (R307). -/
def beingReleased (s : State) (x p : Nat) : Bool :=
  s.outs.any fun o => o.ctx == x && o.st == .release && callProg o.d == p

/-- An invocation of the program runs. -/
def progRuns (s : State) (x p : Nat) : Bool :=
  s.outs.any fun o => o.ctx == x && o.op == .invoke && callProg o.d == p
    && (match o.st with | .call _ _ _ _ => true | _ => false)

/-! ## Images (R304) -/

/-- COUNT of an image header. -/
def imageCount (s : State) (a : Nat) : Nat := bitsAt (readLe s a 64) 64 32

def imageHeaderOk (s : State) (a : Nat) : Bool :=
  let n := readLe s a 64
  bitsAt n 0 32 == 0x58514750 && bitsAt n 32 16 == 1 && bitsAt n 48 16 == 0 && bitsAt n 96 416 == 0
    && decide (1 ≤ imageCount s a) && decide (imageCount s a ≤ 1048576)

/-- Descriptor i of an image. -/
def imageDesc (s : State) (a i : Nat) : Desc :=
  descOf ((List.range 8).map fun w => readWord s (a + 64 + i * 64 + w * 8))

/-- What REGISTER checks of a descriptor: its class, its reserved bits, and no CALL with OP 1 or 2. -/
def imageDescOk (d : Desc) : Bool :=
  decide (d.cls ≤ 10) && d.reservedOk && !(d.cls == 9 && (d.opCode == 1 || d.opCode == 2))

/-! ## Checks -/

/-- The CALLs above a command of a program. -/
def depthOk (o : OutCmd) : Bool := decide (o.depth ≤ 4)

def planInvoke (s : State) (x : Nat) (d : Desc) : Plan :=
  planV (whenV (callImage d != 0 || (progOf s x (callProg d)).isNone || beingReleased s x (callProg d)) stBadDesc)

def planRegister (s : State) (x : Nat) (d : Desc) : Plan :=
  let a := callImage d
  let h := ext false a 64
  let early := whenV (a % slabBytes != 0 || (progOf s x (callProg d)).isSome) stBadDesc ++ whenV (!inHbm (resolve s a)) stBounds
  if extentOutside s x h then ⟨early, [h]⟩
  else if !imageHeaderOk s a then ⟨early ++ [stBadDesc], [h]⟩
  else
    let e := ext false a (64 + 64 * imageCount s a)
    if extentOutside s x e then ⟨early, [e]⟩
    else ⟨early ++ whenV ((List.range (imageCount s a)).any fun i => !imageDescOk (imageDesc s a i)) stBadDesc, [e]⟩

def planCallRelease (s : State) (x : Nat) (d : Desc) : Plan :=
  planV (whenV (callImage d != 0 || (progOf s x (callProg d)).isNone) stBadDesc)

/-! ## Effects -/

/-- INVOKE stands in its program, its descriptors unread (R305). -/
def runInvoke (s : State) (o : OutCmd) : State :=
  match progOf s o.ctx (callProg o.d) with
  | some p => putOut s { o with st := .call 0 p.count none false }
  | none => complete s o stBadDesc 0

/-- REGISTER: the digest, and from here the image is pinned and read-only. -/
def runRegister (s : State) (o : OutCmd) : State :=
  let a := callImage o.d
  let n := imageCount s a
  let digest := Config.sha384 (readBytes s a (64 + 64 * n))
  complete (advanceEpoch (setProg s o.ctx (callProg o.d) (some ⟨resolve s a, n, digest⟩))) o stOk 0xFFFFFFFF

/-- The id is free and the image writable again (R307). -/
def releaseNow (s : State) (o : OutCmd) : State :=
  complete (advanceEpoch (setProg s o.ctx (callProg o.d) none)) o stOk 0xFFFFFFFF

/-- RELEASE waits for the running invocations (R307). -/
def runCallRelease (s : State) (o : OutCmd) : State :=
  if progRuns s o.ctx (callProg o.d) then putOut s { o with st := .release } else releaseNow s o

/-- A waiting RELEASE goes on when no invocation is left. -/
def advanceRelease (s : State) (o : OutCmd) : Option State :=
  if progRuns s o.ctx (callProg o.d) then none else some (releaseNow s o)

end Sys2Proof.Machine
end

