-- ==== Sys2Proof/Machine/Distill.lean ====
section
/-! DEFINITION. TOPK and DISTILL_GRAD: soft-target records and the student's loss (R199 to R209). -/

namespace Sys2Proof.Machine

/-! ## Shared parts -/

/-- k: IMM0 as an integer from 1 to 256 (R201, R209). -/
def topkK (d : Desc) : Option Nat :=
  (List.range 257).find? fun k => k != 0 && bits32 (round32 (.fin false k 0)) == fld d.w3 32 32

/-- Bytes of a record (R202), and of a student state (R206). -/
def recordBytes (k : Nat) : Nat := roundUp (64 + 8 * k) 64
def studentBytes (k : Nat) : Nat := roundUp (64 + 4 * k) 64

/-- INV_TEMP is finite and from 2^-4 to 2^4 (R201). -/
def invTempOk (b : Nat) : Bool :=
  let v := ofBits32 b
  v.isFinite && !flt v (.fin false 1 (-4)) && !flt (.fin false 1 4) v

def emptyIndex : Nat := 0xFFFFFF

/-- An entry of a record. -/
structure TopEntry where
  index : Nat
  value : Fv
deriving DecidableEq, Repr

/-- A record of soft targets (R202). -/
structure SoftRec where
  m       : Fv
  l       : Fv
  r       : Nat
  inv     : Nat
  final   : Bool
  nonfin  : Bool
  seen    : Nat
  entries : List TopEntry
deriving DecidableEq, Repr

def readRecord (s : State) (a k : Nat) : SoftRec :=
  let h := readLe s a 64
  { m := ofBits32 (bitsAt h 0 32), l := ofBits32 (bitsAt h 32 32), r := bitsAt h 64 32, inv := bitsAt h 96 32
    final := h.testBit 137, nonfin := h.testBit 138, seen := bitsAt h 162 24
    entries := (List.range k).map fun i =>
      let e := readLe s (a + 64 + 8 * i) 8
      ⟨bitsAt e 0 24, ofBits32 (bitsAt e 32 32)⟩ }

def recordImage (k : Nat) (c : SoftRec) : List Byte :=
  let h := bits32 c.m + bits32 c.l * 2 ^ 32 + c.r * 2 ^ 64 + c.inv * 2 ^ 96 + k % 512 * 2 ^ 128
    + (if c.final then 2 ^ 137 else 0) + (if c.nonfin then 2 ^ 138 else 0) + c.seen * 2 ^ 162
  leBytes 64 h ++ (c.entries.flatMap fun e => leBytes 8 (e.index + bits32 e.value * 2 ^ 32))
    ++ List.replicate (recordBytes k - (64 + 8 * k)) 0

/-- Fold a block into a running maximum and sum (R203). -/
def foldBlock (m l : Fv) (zs : List Fv) : Fv × Fv :=
  let mNew := fmax m (reduceMax zs)
  (mNew, fadd (fmul l (fexp (fsub m mNew))) (reduceSum (zs.map fun z => fexp (fsub z mNew))))

/-- An entry goes before another: a larger value, or an equal one with a lower index (R202). -/
def entryBefore (a b : TopEntry) : Bool :=
  flt b.value a.value || (a.value != .nan && b.value != .nan && !flt a.value b.value && decide (a.index < b.index))

def insertEntry (a : TopEntry) : List TopEntry → List TopEntry
  | [] => [a]
  | b :: bs => if entryBefore a b then a :: b :: bs else b :: insertEntry a bs

/-! ## TOPK (R201 to R204) -/

/-- The parameter block's fields: INV_TEMP, COL_BASE, FIRST, FINISH, reserved bits clear. -/
structure TopkBlock where
  inv    : Nat
  base   : Nat
  first  : Bool
  finish : Bool
  ok     : Bool
deriving DecidableEq, Repr

def topkBlock (s : State) (d : Desc) : TopkBlock :=
  let n := readLe s (vecB d) 64
  ⟨bitsAt n 0 32, bitsAt n 32 24, n.testBit 56, n.testBit 57, n / 2 ^ 58 == 0⟩

def recordAddr (a k i : Nat) : Nat := a + i * recordBytes k

/-- A record that a command may judge: it lies in its own region's SRAM and within the context's bounds. -/
def recordSeen (s : State) (x : Nat) (d : Desc) (a k : Nat) : Bool :=
  let e := ext false a (recordBytes k)
  inRegionOf s d e && !extentOutside s x e

def planTopk (s : State) (x : Nat) (d : Desc) : Plan :=
  let fmt := (tensorAt s x (vecATid d) (vecA d)).fmt
  let st := tidRead s x (vecATid d) ++ whenV (fmt != 0 && fmt != 1) stBadDesc ++ whenV (topkK d).isNone stBadDesc
  let pb := ext false (vecB d) 64
  let k := (topkK d).getD 1
  let a := ext false (vecA d) (vecBytes s x (vecATid d) (vecA d) (vecRows d) (vecCols d))
  let r := ext true (vecD d) (vecRows d * recordBytes k)
  let meets := whenV (selfOverlap s [a, pb, r]) stBadDesc
  if !st.isEmpty then planV st
  else if !inClusterStores s d pb || extentOutside s x pb then
    if vecZero d then planV [] else planV (meets ++ [stBounds])
  else
    let b := topkBlock s d
    let st := whenV (!b.ok || !invTempOk b.inv || decide (2 ^ 24 < b.base + vecCols d)) stBadDesc
    if !st.isEmpty then planV st
    else if vecZero d then planV []
    else
      let stale := !b.first && (List.range (vecRows d)).any fun i =>
        let c := readRecord s (recordAddr (vecD d) k i) k
        recordSeen s x d (recordAddr (vecD d) k i) k && (c.final || c.inv != b.inv)
      ⟨meets ++ whenV stale stBadDesc ++ whenV (!inClusterStores s d a || !inRegionOf s d r) stBounds, [a, pb, r]⟩

/-- Fold one row into its record (R203). -/
def topkFold (k : Nat) (b : TopkBlock) (c : SoftRec) (row : List Fv) : SoftRec :=
  let c := if b.first then
      { m := .inf true, l := .zero, r := c.r, inv := b.inv, final := false, nonfin := false, seen := 0
        entries := List.replicate k ⟨emptyIndex, .inf true⟩ } else c
  let zs := row.map fun v => fmul v (ofBits32 b.inv)
  let f := foldBlock c.m c.l zs
  let es := ((List.range zs.length).map fun j => (⟨b.base + j, zs.getD j .zero⟩ : TopEntry)).foldl
    (fun es e => (insertEntry e es).take k) c.entries
  { c with m := f.1, l := f.2, nonfin := c.nonfin || zs.any fun z => !z.isFinite
           seen := min 0xFFFFFF (c.seen + row.length), entries := es }

/-- FINISH (R204). -/
def topkFinish (c : SoftRec) : SoftRec :=
  if c.nonfin then
    { c with final := true, r := bits32 .nan, entries := c.entries.map fun e => { e with value := .nan } }
  else
    let q := frecip c.l
    let ps := c.entries.map fun e =>
      if e.index = emptyIndex then (⟨e.index, .zero⟩ : TopEntry) else ⟨e.index, fmul (fexp (fsub e.value c.m)) q⟩
    let sum := match ps with | [] => Fv.zero | p :: ps => ps.foldl (fun a e => fadd a e.value) p.value
    { c with final := true, r := bits32 (fmax .zero (fsub .one sum)), entries := ps }

/-- The FP32 values of a record. -/
def SoftRec.values (c : SoftRec) : List Fv := c.m :: c.l :: c.entries.map (·.value)

def runTopk (s : State) (o : OutCmd) : State :=
  let d := o.d
  let x := o.ctx
  if vecZero d then complete s o stOk 0
  else
    let k := (topkK d).getD 1
    let b := topkBlock s d
    let pbad := anyPoison s (vecB d) 64
    let out := Out.concat ((List.range (vecRows d)).map fun i =>
      let a := recordAddr (vecD d) k i
      let row := vecRowA s x d i
      let bad := pbad || row.any (·.2) || (!b.first && anyPoison s a (recordBytes k))
      let c := topkFold k b (readRecord s a k) (row.map (·.1))
      let c := if b.finish then topkFinish c else c
      let o := outBytes a (recordImage k c) bad
      { o with stats := { Stats.empty with wrote := c.values.any fun v => !v.isFinite } })
    let r := landOut s x d.tag (evalPhase d) out
    complete r.1 o (workStatus r.2.1 r.2.2) 0

/-! ## DISTILL_GRAD (R205 to R207) -/

def distillBlock (s : State) (d : Desc) : List Word := (List.range 8).map fun i => readWord s (vecB d + 8 * i)

def dgMode (b : List Word) : Nat := fld (b.getD 0 0) 0 2
def dgFirst (b : List Word) : Bool := bitOf (b.getD 0 0) 2
def dgInv (b : List Word) : Nat := fld (b.getD 0 0) 32 32
def dgBase (b : List Word) : Nat := fld (b.getD 1 0) 0 24
def dgVocab (b : List Word) : Nat := fld (b.getD 1 0) 24 24
def dgRec (b : List Word) : Nat := fld (b.getD 2 0) 0 48
def dgState (b : List Word) : Nat := fld (b.getD 3 0) 0 48
def dgLabel (b : List Word) : Nat := fld (b.getD 4 0) 0 48
def dgBeta (b : List Word) : Fv := ofBits32 (fld (b.getD 5 0) 0 32)
def dgScale (b : List Word) : Fv := ofBits32 (fld (b.getD 5 0) 32 32)

/-- The reserved bits of the block are 0 (R205). -/
def distillBlockOk (b : List Word) : Bool :=
  fld (b.getD 0 0) 3 29 == 0 && fld (b.getD 1 0) 48 16 == 0 && ([2, 3, 4].all fun i => fld (b.getD i 0) 48 16 == 0)
    && b.getD 6 0 == 0 && b.getD 7 0 == 0 && decide (dgMode b < 2)

/-- The student state of a row (R206). -/
structure Student where
  m1      : Fv
  l1      : Fv
  mt      : Fv
  lt      : Fv
  sLabel  : Fv
  label   : Int
  seen    : Nat
  lblSeen : Bool
  nonfin  : Bool
  top     : List Fv
deriving DecidableEq, Repr

def readStudent (s : State) (a k : Nat) : Student :=
  let h := readLe s a 64
  { m1 := ofBits32 (bitsAt h 0 32), l1 := ofBits32 (bitsAt h 32 32), mt := ofBits32 (bitsAt h 64 32)
    lt := ofBits32 (bitsAt h 96 32), sLabel := ofBits32 (bitsAt h 128 32), label := signed (bitsAt h 160 32) 32
    seen := bitsAt h 192 24, lblSeen := h.testBit 216, nonfin := h.testBit 217
    top := (List.range k).map fun i => ofBits32 (readLe s (a + 64 + 4 * i) 4) }

def studentImage (k : Nat) (t : Student) : List Byte :=
  let h := bits32 t.m1 + bits32 t.l1 * 2 ^ 32 + bits32 t.mt * 2 ^ 64 + bits32 t.lt * 2 ^ 96 + bits32 t.sLabel * 2 ^ 128
    + unsigned t.label 32 * 2 ^ 160 + t.seen * 2 ^ 192 + (if t.lblSeen then 2 ^ 216 else 0)
    + (if t.nonfin then 2 ^ 217 else 0)
  leBytes 64 h ++ (t.top.flatMap fun v => leBytes 4 (bits32 v)) ++ List.replicate (studentBytes k - (64 + 4 * k)) 0

def studentAddr (a k i : Nat) : Nat := a + i * studentBytes k

/-- The extents of a DISTILL_GRAD beside its parameter block: logits, records, states, labels, and what GRAD writes. -/
def distillExts (s : State) (x : Nat) (d : Desc) (b : List Word) (k : Nat) : List Ext :=
  let rows := vecRows d
  let n := rowBytes (tensor s x (vecDTid d)).fmt (vecD d) rows (vecCols d)
  let grad := dgMode b == 1
  [ext false (vecA d) (vecBytes s x (vecATid d) (vecA d) rows (vecCols d)), ext false (dgRec b) (rows * recordBytes k),
   ext (!grad) (dgState b) (rows * studentBytes k), ext false (dgLabel b) (if dgLabel b = 0 then 0 else 4 * rows)]
    ++ if grad then [ext true (vecD d) n, ext true (roundUp (vecD d + n) 64) (4 * rows)] else []

/-- A row's record or state that the command may read refuses it: a record that is not FINAL, another INV_TEMP, or under GRAD a
state whose SEEN is not VOCAB (R206, R207, R209). -/
def distillStale (s : State) (x : Nat) (d : Desc) (b : List Word) (k i : Nat) : Bool :=
  let ra := recordAddr (dgRec b) k i
  let ta := studentAddr (dgState b) k i
  let te := ext false ta (studentBytes k)
  let c := readRecord s ra k
  (recordSeen s x d ra k && (!c.final || c.inv != dgInv b))
    || (dgMode b == 1 && inClusterStores s d te && !extentOutside s x te && (readStudent s ta k).seen != dgVocab b)

def planDistill (s : State) (x : Nat) (d : Desc) : Plan :=
  let st := tidRead s x (vecATid d) ++ whenV ((tensorAt s x (vecATid d) (vecA d)).fmt != 0) stBadDesc
    ++ whenV (topkK d).isNone stBadDesc
  let pb := ext false (vecB d) 64
  if !st.isEmpty then planV st
  else if !inClusterStores s d pb || extentOutside s x pb then
    if vecZero d then planV [] else planV [stBounds]
  else
    let b := distillBlock s d
    let k := (topkK d).getD 1
    let grad := dgMode b == 1
    let st := whenV (!distillBlockOk b || !invTempOk (dgInv b) || decide (2 ^ 24 < dgBase b + vecCols d)
        || (!grad && vecD d != 0)) stBadDesc
      ++ (if grad then tidWrite s x (vecDTid d) ++ whenV ((tensor s x (vecDTid d)).cls != 2) stBadDesc else [])
    if st.contains stBadDesc || vecZero d then planV st
    else
      let es := pb :: distillExts s x d b k
      let es := if (tensor s x (vecDTid d)).fmt < 12 || !grad then es else es.take 5
      let stale := (List.range (vecRows d)).any (distillStale s x d b k)
      let stray := !inRegionOf s d (ext false (dgRec b) (vecRows d * recordBytes k)) || vecStray s d es
      ⟨st ++ whenV (stale || selfOverlap s es) stBadDesc ++ whenV stray stBounds, es⟩

/-- The state that FIRST begins with (R206); S_LABEL starts at +0 and S_TOP at -inf (DEDUCED, log entry 25). -/
def studentFirst (k : Nat) (label : Int) : Student :=
  ⟨.inf true, .zero, .inf true, .zero, .zero, label, 0, false, false, List.replicate k (.inf true)⟩

/-- STATS on one row (R206). -/
def statsFold (inv : Fv) (base : Nat) (c : SoftRec) (t : Student) (row : List Fv) : Student :=
  let zs := row.map fun v => fmul v inv
  let f1 := foldBlock t.m1 t.l1 row
  let ft := foldBlock t.mt t.lt zs
  let inBlock (i : Nat) : Bool := decide (base ≤ i) && decide (i < base + row.length)
  let here := decide (0 ≤ t.label) && inBlock t.label.toNat
  { t with
    m1 := f1.1, l1 := f1.2, mt := ft.1, lt := ft.2
    sLabel := if here then row.getD (t.label.toNat - base) .zero else t.sLabel
    lblSeen := t.lblSeen || here
    seen := min 0xFFFFFF (t.seen + row.length)
    nonfin := t.nonfin || row.any (fun v => !v.isFinite) || zs.any fun v => !v.isFinite
    top := (c.entries.zip t.top).map fun p =>
      if inBlock p.1.index then row.getD (p.1.index - base) .zero else p.2 }

/-- The values of a student state. -/
def Student.values (t : Student) : List Fv := [t.m1, t.l1, t.mt, t.lt, t.sLabel] ++ t.top

/-- The poison of what a row reads: its logits, its record and its state. -/
def distillBad (s : State) (x : Nat) (d : Desc) (b : List Word) (k i : Nat) : Bool :=
  anyPoison s (vecB d) 64 || (vecRowA s x d i).any (·.2)
    || anyPoison s (recordAddr (dgRec b) k i) (recordBytes k)
    || ((dgMode b == 1 || !dgFirst b) && anyPoison s (studentAddr (dgState b) k i) (studentBytes k))
    || (dgFirst b && dgLabel b != 0 && anyPoison s (dgLabel b + 4 * i) 4)

def runDistillStats (s : State) (o : OutCmd) : State :=
  let d := o.d
  let x := o.ctx
  if vecZero d then complete s o stOk 0
  else
    let k := (topkK d).getD 1
    let b := distillBlock s d
    let out := Out.concat ((List.range (vecRows d)).map fun i =>
      let a := studentAddr (dgState b) k i
      let label := if dgLabel b = 0 then -1 else signed (readLe s (dgLabel b + 4 * i) 4) 32
      let t := if dgFirst b then studentFirst k label else readStudent s a k
      let t := statsFold (ofBits32 (dgInv b)) (dgBase b) (readRecord s (recordAddr (dgRec b) k i) k) t
        ((vecRowA s x d i).map (·.1))
      let o := outBytes a (studentImage k t) (distillBad s x d b k i)
      { o with stats := { Stats.empty with wrote := t.values.any fun v => !v.isFinite } })
    let r := landOut s x d.tag (evalPhase d) out
    complete r.1 o (workStatus r.2.1 r.2.2) 0

/-- What GRAD forms once for a row (R207). -/
structure GradRow where
  c     : SoftRec
  t     : Student
  inv   : Fv
  tau   : Fv
  beta  : Fv
  scale : Fv
  lnq   : List Fv
  qRest : Fv
deriving DecidableEq, Repr

def gradRow (s : State) (b : List Word) (k i : Nat) : GradRow :=
  let c := readRecord s (recordAddr (dgRec b) k i) k
  let t := readStudent s (studentAddr (dgState b) k i) k
  let inv := ofBits32 (dgInv b)
  let lnq := t.top.map fun v => fsub (fsub (fmul v inv) t.mt) (fln t.lt)
  let sum := match lnq.map fexp with | [] => Fv.zero | v :: vs => vs.foldl fadd v
  { c := c, t := t, inv := inv, tau := frecip inv, beta := if t.lblSeen then dgBeta b else .zero
    scale := dgScale b, lnq := lnq, qRest := fmax (.fin false 1 (-24)) (fsub .one sum) }

/-- The gradient of column j, with student logit v (R207). -/
def gradValue (g : GradRow) (j : Nat) (v : Fv) : Fv :=
  let qt := fmul (fexp (fsub (fmul v g.inv) g.t.mt)) (frecip g.t.lt)
  let q1 := fmul (fexp (fsub v g.t.m1)) (frecip g.t.l1)
  let target := match g.c.entries.find? fun e => e.index == j with
    | some e => e.value
    | none => fmul (fmul (ofBits32 g.c.r) qt) (frecip g.qRest)
  let hit := if g.t.label = (j : Int) then Fv.one else .zero
  fmul g.scale (fadd (fmul (fmul (fsub .one g.beta) g.tau) (fsub qt target)) (fmul g.beta (fsub q1 hit)))

/-- The row's loss (R207). -/
def gradLoss (g : GradRow) : Fv :=
  let terms := (g.c.entries.zip g.lnq).filterMap fun p =>
    if flt .zero p.1.value || p.1.value == .nan then some (fmul p.1.value (fsub (fln p.1.value) p.2)) else none
  let kl := match terms with | [] => Fv.zero | v :: vs => vs.foldl fadd v
  let r := ofBits32 g.c.r
  let kl := if r.isZero then kl else fadd kl (fmul r (fsub (fln r) (fln g.qRest)))
  fmul g.scale (fadd (fmul (fmul (fsub .one g.beta) (fmul g.tau g.tau)) kl)
    (fmul g.beta (fsub (fadd g.t.m1 (fln g.t.l1)) g.t.sLabel)))

def runDistillGrad (s : State) (o : OutCmd) : State :=
  let d := o.d
  let x := o.ctx
  if vecZero d then complete s o stOk 0
  else
    let k := (topkK d).getD 1
    let b := distillBlock s d
    let gs := (List.range (vecRows d)).map (gradRow s b k)
    let bad (i : Nat) : Bool := distillBad s x d b k i
    let t := tensor s x (vecDTid d)
    let blank : GradRow := ⟨⟨.zero, .zero, 0, 0, false, false, 0, []⟩,
      ⟨.zero, .zero, .zero, .zero, .zero, -1, 0, false, false, []⟩, .zero, .zero, .zero, .zero, [], .zero⟩
    let body := outRows t (srKey s x (vecDTid d)) (vecD d) (vecRows d) (vecCols d)
      (fun i j => i * dgVocab b + dgBase b + j) fun i j =>
        (gradValue (gs.getD i blank) (dgBase b + j)
          (vecElem s x (vecATid d) (vecA d) (vecRows d) (vecCols d) i j).1, bad i)
    let stats := outStats (roundUp (vecD d + rowBytes t.fmt (vecD d) (vecRows d) (vecCols d)) 64)
      ((List.range (vecRows d)).map fun i =>
        (if dgBase b = 0 then gradLoss (gs.getD i blank) else .zero, bad i))
    let r := landTensor s x d.tag (evalPhase d) t body
    let q := landOut r.1 x d.tag (evalPhase d) stats
    complete q.1 o (workStatus (r.2.1 || q.2.1) (r.2.2 || q.2.2)) 0

/-- DISTILL_GRAD by its block's MODE. -/
def runDistill (s : State) (o : OutCmd) : State :=
  if dgMode (distillBlock s o.d) = 1 then runDistillGrad s o else runDistillStats s o

end Sys2Proof.Machine
end

