-- ==== Sys2Proof/Machine/Sync.lean ====
section
/-! DEFINITION. The SYNC command: barrier, fence, semaphore wait, signal, layer mark and map selection (R230, R233,
R269, R300 to R302). -/

namespace Sys2Proof.Machine

/-! ## The descriptor (R300) -/

def syBarrier (d : Desc) : Bool := bitOf d.w2 0
def syFence (d : Desc) : Bool := bitOf d.w2 1
def syLayer (d : Desc) : Bool := bitOf d.w2 2
def syMapSet (d : Desc) : Bool := bitOf d.w2 3
def syMap (d : Desc) : Nat := fld d.w2 4 3
def syWaitOp (d : Desc) : Nat := fld d.w2 7 2
def sySigOp (d : Desc) : Nat := fld d.w2 9 2
def syWaitAddr (d : Desc) : Nat := fld d.w3 0 48
def sySigAddr (d : Desc) : Nat := fld d.w5 0 48

/-- A wait's semaphore lies in SRAM or HBM, and in no window (DEDUCED, log entry 32). -/
def semHome (a : Nat) : Bool := inSram a || inHbm a

/-- A signal may also go to a peer window, that of this package's own id among them, or to the host. -/
def sigHome (s : State) (a : Nat) : Bool := semHome (resolve s a) || isRemote s a || rngOf a == some .host

/-- The checks of R300; an operation that is none has no address. -/
def planSync (s : State) (x : Nat) (d : Desc) : Plan :=
  let w := syWaitOp d != 0
  let g := sySigOp d != 0
  let _ := x
  ⟨whenV ((w && syWaitAddr d % 8 != 0) || (g && sySigAddr d % 8 != 0)) stBadDesc
    ++ whenV (syWaitOp d == 3 || sySigOp d == 3) stUnsupported
    ++ whenV ((w && !semHome (syWaitAddr d)) || (g && !sigHome s (sySigAddr d))) stBounds,
   (if w then [ext false (syWaitAddr d) 8] else [])
    ++ (if g && rngOf (sySigAddr d) != some .host then [ext true (sySigAddr d) 8] else [])⟩

/-! ## Order within a ring (R301) -/

/-- Commands that a SYNC's barrier waits for: earlier ones of its ring, or of its program. -/
def earlierOuts (s : State) (o : OutCmd) : List OutCmd :=
  let above := ancestors s 5 o
  match o.parent with
  | none => s.outs.filter fun p => p.ctx == o.ctx && p.ring == o.ring && decide (p.ident < o.ident)
  | some c => (programOuts s c).filter fun p => decide (p.ident < o.ident) && !above.contains p.ident

/-! ## Actions in order -/

/-- The wait is met (R300): unsigned comparison. -/
def waitMetNow (s : State) (d : Desc) : Bool :=
  let v := readLe s (syWaitAddr d) 8
  match syWaitOp d with
  | 1 => decide (d.w4.toNat ≤ v)
  | 2 => v == d.w4.toNat
  | _ => true

/-- The signal: one read-modify-write at the semaphore's home; into a peer window it is a posted write that carries
SIG_VAL (R300, R302, DEDUCED, log entry 32). -/
def doSignal (s : State) (o : OutCmd) : State :=
  let a := sySigAddr o.d
  match sySigOp o.d with
  | 0 => s
  | op =>
    if isRemote s a then postWrite s o.ctx o.d.tag a (leBytes 8 o.d.w6.toNat) false
    else storeBytes s a (leBytes 8 (if op = 1 then readLe s a 8 + o.d.w6.toNat else o.d.w6.toNat))

/-- Signal, layer mark, map selection, completion. -/
def finishSync (s : State) (o : OutCmd) : State :=
  let s := doSignal s o
  let s := if syLayer o.d then layerMark s o.ctx else s
  let s := if syMapSet o.d then modRing s o.ctx o.ring fun r => { r with map := syMap o.d } else s
  complete s o stOk 0

def enterWait (s : State) (o : OutCmd) : State :=
  if waitMetNow s o.d then finishSync s o else putOut s { o with st := .syncWait }

/-- Every posted write that the context issued before the fence is acknowledged or has failed (R269). -/
def fenceClear (s : State) (o : OutCmd) : Bool := !(ctx s o.ctx).posted.any fun p => decide (p.stamp < o.seqNo)

def passFence (s : State) (o : OutCmd) : State :=
  if remotePoisoned s o.ctx then complete s o stRemoteFail 0 else enterWait s o

def enterFence (s : State) (o : OutCmd) : State :=
  if syFence o.d then
    let o := { o with st := .syncFence, seqNo := s.nextId }
    if fenceClear s o then passFence s o else putOut s o
  else enterWait s o

/-- SYNC (R301). -/
def runSync (s : State) (o : OutCmd) : State :=
  if syBarrier o.d && !(earlierOuts s o).isEmpty then putOut s { o with st := .syncBarrier } else enterFence s o

/-- A SYNC moves on once its barrier or its fence is met; none while it waits. -/
def advanceSync (s : State) (o : OutCmd) : Option State :=
  match o.st with
  | .syncBarrier => if (earlierOuts s o).isEmpty then some (enterFence s o) else none
  | .syncFence => if fenceClear s o then some (passFence s o) else none
  | _ => none

end Sys2Proof.Machine
end

