-- ==== Sys2Proof/Machine/Tel.lean ====
section
/-! DEFINITION. The TEL commands: assay records, clears and context records (R48, R50, R308 to R311). -/

namespace Sys2Proof.Machine

/-! ## The descriptor (R308) -/

def telSets (d : Desc) : Nat := fld d.w2 4 4
def telFirst (d : Desc) : Nat := fld d.w2 8 12
def telCount (d : Desc) : Nat := fld d.w2 20 13
def telDst (d : Desc) : Nat := fld d.w3 0 48

/-- The sets that a command names, in set-bit order. -/
def telSetList (d : Desc) : List Nat := setBits (telSets d) 4

/-- Tensor ids and sets, in record order. -/
def telItems (d : Desc) : List (Nat × Nat) :=
  (List.range (telCount d)).flatMap fun i => (telSetList d).map fun k => (telFirst d + i, k)

/-- Reads of sets: FIRST_TID + COUNT, and records 64-byte aligned. -/
def planAssayRead (_s : State) (_x : Nat) (d : Desc) : Plan :=
  ⟨whenV (decide (4096 < telFirst d + telCount d) || telDst d % 64 != 0) stBadDesc,
   [ext true (telDst d) (64 * (telItems d).length)]⟩

/-- A clear writes no record: DST_ADDR is 0. -/
def planAssayClear (_s : State) (_x : Nat) (d : Desc) : Plan :=
  planV (whenV (decide (4096 < telFirst d + telCount d) || telDst d != 0) stBadDesc)

/-- CTX_READ: one record, and the other fields 0. -/
def planCtxRead (_s : State) (_x : Nat) (d : Desc) : Plan :=
  ⟨whenV (telSets d != 0 || telFirst d != 0 || telCount d != 0 || telDst d % 64 != 0) stBadDesc, [ext true (telDst d) 64]⟩

/-! ## Records (R50, R309, R310) -/

/-- Parts per million, 0 when the total is 0 (R50). -/
def ppm (n total : Nat) : Nat := if total = 0 then 0 else n * 1000000 / total

def Counters.saturated (c : Counters) : Bool := [c.total, c.sat, c.ufl, c.nonfin].any (· == 2 ^ 48 - 1)

/-- An assay record (R309). Its UNUSED flag: a save slot whose tensor has FMT_SAVE 0. -/
def assayRecord (tid set : Nat) (unused : Bool) (c : Counters) (t : Nat) : Nat :=
  tid % 4096 + set % 4 / 2 * 2 ^ 12 + set % 2 * 2 ^ 13 + (if c.saturated then 2 ^ 14 else 0)
    + (if unused then 2 ^ 15 else 0)
    + ppm c.sat c.total * 2 ^ 32 + ppm c.ufl c.total * 2 ^ 64 + ppm c.nonfin c.total * 2 ^ 96
    + c.total * 2 ^ 128 + c.sat * 2 ^ 192 + c.ufl * 2 ^ 256 + c.nonfin * 2 ^ 320 + t * 2 ^ 384

/-- The record of a set as it stands. -/
def assayRecordNow (s : State) (x : Nat) (p : Nat × Nat) : Nat :=
  let unused := decide (2 ≤ p.2) && bitsAt (entryBits s x p.1) 4 4 == 0
  assayRecord p.1 p.2 unused (if unused then Counters.reset else assaySet s x p.1 p.2) (now s)

/-- The context record (R310). -/
def ctxRecord (s : State) (x : Nat) : Nat :=
  (reg s (.ctxCxStep x)).toNat + rf s (.telCxVoids x) 0 48 * 2 ^ 64 + rf s (.telCxReroutes x) 0 48 * 2 ^ 128
    + rf s (.telCxMisses x) 0 48 * 2 ^ 192 + rf s (.ctxCxEqStat x) 32 16 * 2 ^ 256
    + rf s (.tierCxPfLate x) 0 48 * 2 ^ 320 + now s * 2 ^ 384

/-- Write records from DST_ADDR upward and count them. -/
def writeRecords (s : State) (o : OutCmd) (rs : List Nat) : State × Bool :=
  let bytes := rs.flatMap (leBytes 64)
  let r := storeOut s o.ctx o.d.tag ((List.range bytes.length).map fun i => (telDst o.d + i, bytes.getD i 0)) []
  (bumpBy r.1 .telRecords 0 48 rs.length, r.2)

/-- Clear sets, and neither AMAX_PEND nor the since-commit counts (R311). -/
def clearSets (s : State) (x : Nat) (ps : List (Nat × Nat)) : State :=
  modCtx s x fun c => { c with assay := ps.foldl (fun m p => smSet Counters.reset m (assayKey p.1 p.2) Counters.reset) c.assay }

/-! ## Effects (R308, R311) -/

def runAssayRead (s : State) (o : OutCmd) : State :=
  let r := writeRecords s o ((telItems o.d).map (assayRecordNow s o.ctx))
  complete r.1 o (workStatus false r.2) 0

def runAssayClear (s : State) (o : OutCmd) : State :=
  complete (clearSets s o.ctx (telItems o.d)) o stOk 0

def runAssayReadClear (s : State) (o : OutCmd) : State :=
  let r := writeRecords s o ((telItems o.d).map (assayRecordNow s o.ctx))
  complete (clearSets r.1 o.ctx (telItems o.d)) o (workStatus false r.2) 0

def runCtxRead (s : State) (o : OutCmd) : State :=
  let r := writeRecords s o [ctxRecord s o.ctx]
  complete r.1 o (workStatus false r.2) 0

end Sys2Proof.Machine
end

