-- ==== Sys2Proof/Machine/Issue.lean ====
section
/-! DEFINITION. Reading, checking, holding, starting and ending commands: the ring processor, programs, engine lanes
and settling (R165, R166, R220, R232, R254, R295 to R306, R326 to R344, R372). -/

namespace Sys2Proof.Machine

/-! ## Plans by operation -/

/-- The checks and extents of a command. -/
def planOp (op : RingOp) (s : State) (x : Nat) (d : Desc) : Plan :=
  match op with
  | .copy => planCopy s x d
  | .zero => planZero s x d
  | .pin => planPlacement s d true false
  | .unpin => planPlacement s d false false
  | .planes => planPlanes s d
  | .moveRelease => planPlacement s d false true
  | .mma => planMma s x d
  | .rmsnormBwd => planNormBwd false s x d
  | .layernormBwd => planNormBwd true s x d
  | .topk => planTopk s x d
  | .distillStats | .distillGrad => planDistill s x d
  | .scaleSet => planScaleSet s x d
  | .sgdMom | .adam | .adamw => planOpt op s x d
  | .fwd | .bwd | .bwdP | .append | .attnCombine => planAttn op s x d
  | .allreduce | .reduceScatter | .allgather | .alltoall | .dispatch | .collCombine | .compressed => planColl op s x d
  | .sync => planSync s x d
  | .step => planStep s x d
  | .admitTable => planAdmit s x d
  | .take => planTake s x d
  | .restore => planV []
  | .restoreFrom => planRestoreFrom s x d
  | .invoke => planInvoke s x d
  | .register => planRegister s x d
  | .callRelease => planCallRelease s x d
  | .assayRead | .assayReadClear => planAssayRead s x d
  | .assayClear => planAssayClear s x d
  | .ctxRead => planCtxRead s x d
  | .add | .mul | .axpby | .scale | .convert | .transpose | .relu | .gelu | .silu | .reluBwd | .geluBwd | .siluBwd
  | .rmsnorm | .layernorm | .rowmax | .expSub | .rowsum | .rowdiv | .sum | .sumsq | .amax => planVec op s x d

/-- Every extent that a command reads or writes. -/
def operandExts (s : State) (o : OutCmd) : List Ext := (planOp o.op s o.ctx o.d).exts

/-- The header names a retired region (R362). -/
def planRegion (s : State) (d : Desc) : Plan := planV (whenV (decide (d.cls ≤ 3) && !regionPresent s d.region) stUnsupported)

/-- The checks before any work starts (R5, R10, R299, R305). -/
def checkCmd (s : State) (o : OutCmd) : Option Nat :=
  if !o.d.reservedOk then some stBadDesc
  else match RingOp.ofDesc o.d with
    | none => some stUnsupported
    | some op => if op == .invoke && !depthOk o then some stBadDesc else planFails s o.ctx ((planRegion s o.d).join ((planBoundary s o).join (planOp op s o.ctx o.d)))

/-! ## Ends (R284, R306, R312, R338, R339) -/

/-- DETAIL of a command that ends before its own end: of a MOVE, the 64 KiB units that have landed (R187); that of a CALL is a
free value (R312, DESIGN CHOICE, log entry 1). -/
def endDetail (s : State) (o : OutCmd) : Nat × State :=
  match o.d.cls with
  | 0 => ((landedUnits o).1, s)
  | 4 => (o.seqNo, s)
  | 6 => ((reg s (.ctxCxStep o.ctx)).toNat % 2 ^ 32, s)
  | 9 => ((draw s).1.toNat % 2 ^ 32, (draw s).2)
  | _ => (0, s)

/-- A command completes with a code that its checks or an outside cause give. -/
def endPlain (s : State) (o : OutCmd) (st : Nat) : State :=
  let r := endDetail s o
  complete r.2 o st r.1

/-- What the end of a command does beside its completion: a COLL leaves its exchange and tells its peers, a TAKE's
stream is abandoned, a program leaves counted commands unread. -/
def sideEnd (s : State) (o : OutCmd) : State :=
  let s := if o.d.cls == 4 then clAbandon (if collBegun o then collLost s o else s) o else s
  let s := match (ctx s o.ctx).stream with
    | some t => if t.byTake = some o.ident then dropStream s o.ctx else s
    | none => s
  markUnread s o

/-- A check refuses a command: nothing moves (R10). -/
def refuseCmd (s : State) (o : OutCmd) (st : Nat) : State :=
  endPlain (if o.d.cls == 4 then clAbandon s o else s) o st

/-- A command that has been read ends with a code before it has run to its end; a CALL takes its program with it
(R338, R339, R343). -/
def endCommand (s : State) (o : OutCmd) (st : Nat) : State :=
  let kids := programOuts s o.ident
  let s := kids.foldl (fun s k =>
    markOutcome (dropOut (sideEnd s k) k.ident) k (if k.st == .queued then stAborted else st)) s
  let s := endPlain (sideEnd s o) o st
  if o.op == .take then nextCut s o.ctx else s

/-- End several commands, the last read first; one that has gone meanwhile is passed over. -/
def endAll (s : State) (st : Nat) (idents : List Nat) : State :=
  idents.reverse.foldl (fun s i => match findOut s i with | some o => endCommand s o st | none => s) s

/-! ## Restores (R372, R373) -/

/-- Step 1 of R372: the context's other commands complete ABORTED; a staged ADMIT stays for step 3. -/
def abortOthers (s : State) (o : OutCmd) : State :=
  let above := ancestors s 5 o
  endAll s stAborted ((s.outs.filter fun p => p.ctx == o.ctx && p.ident != o.ident && !above.contains p.ident && p.st != .staged
    && (match p.parent with | none => true | some c => above.contains c)).map fun p => p.ident)

def runRestore (failsAt : Option Nat) (s : State) (o : OutCmd) : State :=
  let s := abortOthers s o
  restoreWith s o (restoreGen s o.ctx o.d) failsAt stTierFail

/-- RESTORE_FROM waits for what its sources serve. -/
def runRestoreFrom (s : State) (o : OutCmd) : State := putOut (abortOthers s o) { o with st := .peerRead }

/-- The sources have served their parts, or one has failed. -/
def supplyRestore (s : State) (o : OutCmd) (parts : List SnapPart) (lost : Bool) : State :=
  match joinParts s o.ctx o.d parts with
  | none => complete s o (if lost then stRemoteFail else stBadDesc) 0
  | some g => restoreWith s o (some g) (if lost then some 0 else none) stRemoteFail

/-! ## Running by operation -/

/-- The effect of a command that starts. -/
def runOp (op : RingOp) (s : State) (o : OutCmd) : State :=
  match op with
  | .copy => runCopy s o
  | .zero => runZero s o
  | .pin => runPin s o
  | .unpin => runUnpin s o
  | .planes => runPlanes s o
  | .moveRelease => runMoveRelease s o
  | .mma => runMma s o
  | .rmsnormBwd => runNormBwd false s o
  | .layernormBwd => runNormBwd true s o
  | .topk => runTopk s o
  | .distillStats | .distillGrad => runDistill s o
  | .scaleSet => runScaleSet s o
  | .sgdMom | .adam | .adamw => runOpt op s o
  | .fwd => runFwd s o
  | .bwd => runBwd false s o
  | .bwdP => runBwd true s o
  | .append => runAppend s o
  | .attnCombine => runCombine s o
  | .allreduce | .reduceScatter | .allgather | .alltoall | .dispatch | .collCombine | .compressed => runColl op s o
  | .sync => runSync s o
  | .step => runStep s o
  | .admitTable => runAdmit s o
  | .take => runTake s o
  | .restore => runRestore none s o
  | .restoreFrom => runRestoreFrom s o
  | .invoke => runInvoke s o
  | .register => runRegister s o
  | .callRelease => runCallRelease s o
  | .assayRead => runAssayRead s o
  | .assayClear => runAssayClear s o
  | .assayReadClear => runAssayReadClear s o
  | .ctxRead => runCtxRead s o
  | .add | .mul | .axpby | .scale | .convert | .transpose | .relu | .gelu | .silu | .reluBwd | .geluBwd | .siluBwd
  | .rmsnorm | .layernorm | .rowmax | .expSub | .rowsum | .rowdiv | .sum | .sumsq | .amax => runVec op s o

/-! ## Rank (R326) -/

/-- The effective deadline. -/
def effDeadline (s : State) (o : OutCmd) : Nat :=
  let r := o.rtime
  let b := rf s .schStarve 0 32 * 1000
  let top := (r + b) % 2 ^ 48
  let d' := if o.dl = 0 then top
    else unsigned ((o.dl : Int) + 1000 * signed (rf s (.schCxShift o.ctx) 0 32) 32) 48
  if earlier48 d' r false then r else if earlier48 top d' false then top else d'

/-- A rank comes before another; ties go to the command read earlier (R329). -/
def ranksBefore (a b : Nat × Nat) : Bool := if a.1 = b.1 then decide (a.2 < b.2) else earlier48 a.1 b.1 (decide (a.2 < b.2))

/-- The earliest of some ranks. -/
def earliestRank : List (Nat × Nat) → Option (Nat × Nat)
  | [] => none
  | p :: ps => match earliestRank ps with
    | none => some p
    | some q => if ranksBefore q p then some q else some p

/-! ## Holds -/

def sharesEngine (a b : Desc) : Bool := (enginesOf a).any (enginesOf b).contains

/-- A STEP fences the command's ring, or is itself before another STEP (R220). -/
def stepHolds (s : State) (o : OutCmd) : Bool :=
  s.outs.any fun q => q.op == .step && q.ctx == o.ctx && q.ident != o.ident && placedAfter s o q
    && (o.op == .step || spFences q o.ring)

/-- An earlier command of the lane has not started (R329). -/
def laneHolds (s : State) (o : OutCmd) : Bool :=
  s.outs.any fun q => decide (q.ident < o.ident) && q.ctx == o.ctx && q.ring == o.ring && q.st == .queued && sharesEngine q.d o.d

/-- One of the command's engines is in the middle of another command, or has reserved itself for another gang (R332). -/
def engineTaken (s : State) (o : OutCmd) : Bool :=
  s.outs.any fun q => q.ident != o.ident && ((q.st.onEngine && sharesEngine q.d o.d) || (enginesOf o.d).any q.held.contains)

/-- The engines beside a command's own in the same clusters: array and vector unit (R330). -/
def besideEngines (d : Desc) : List Nat :=
  (enginesOf d).filterMap fun e => if e < 256 then some (e + 256) else if e < 512 then some (e - 256) else none

/-- Results of either command meet operands or results of the other. -/
def resultsMeet (s : State) (es fs : List Ext) : Bool :=
  es.any fun e => fs.any fun f => (e.write || f.write) && (e.resolved s).meets (f.resolved s)

/-- An earlier command of the ring on the other engine of the cluster is in the way (R330). -/
def crossHolds (s : State) (o : OutCmd) : Bool :=
  s.outs.any fun q => decide (q.ident < o.ident) && q.ctx == o.ctx && q.ring == o.ring && q.st == .queued
    && (enginesOf q.d).any (besideEngines o.d).contains && resultsMeet s (operandExts s q) (operandExts s o)

/-- COLLs of one group and one context run in order (R276). -/
def collHolds (s : State) (o : OutCmd) : Bool :=
  clMatched o.d && s.outs.any fun q =>
    clMatched q.d && q.ctx == o.ctx && clGroup q.d == clGroup o.d && decide (q.ident < o.ident)

/-- The physical cluster or region behind an engine has failed and its number has not passed to a spare yet (R360). -/
def engineDown (s : State) (e : Nat) : Bool :=
  let cluDown (c : Nat) : Bool := match physCluster s (c / 8) (c % 8) with
    | some p => cluFailed s p || !rgnWorking s (p / 9)
    | none => false
  let rgnDown (r : Nat) : Bool := match physRegion s r with
    | some p => !rgnWorking s p
    | none => false
  if e < 256 then cluDown e else if e < 512 then cluDown (e - 256)
  else if e < 544 then rgnDown (e - 512) else if e < 608 then rgnDown ((e - 544) / 2) else false

/-- Commands for a failed unit's number stay queued until a spare takes it (R360). -/
def unitHolds (s : State) (o : OutCmd) : Bool := (enginesOf o.d).any (engineDown s)

/-- The command is not at the head of what it must follow in its lane, its ring and its group. -/
def placeHolds (s : State) (o : OutCmd) : Bool :=
  unitHolds s o || stepHolds s o || laneHolds s o || crossHolds s o || collHolds s o

/-- A command for several clusters. -/
def isGang (o : OutCmd) : Bool := decide (1 < (enginesOf o.d).length)

/-- Before a gang's first reservation: a gang with an earlier effective deadline, first in its lanes, needs one of its members and
does not hold all of its own yet (R332; DEDUCED, log entry 150). -/
def gangHolds (s : State) (o : OutCmd) : Bool :=
  isGang o && o.held.isEmpty && s.outs.any fun q => q.ident != o.ident && isGang q && q.st == .queued && !(enginesOf q.d).all q.held.contains
    && sharesEngine q.d o.d && ranksBefore (effDeadline s q, q.ident) (effDeadline s o, o.ident) && !placeHolds s q

/-- The command has not its place, or not its engines. -/
def orderHolds (s : State) (o : OutCmd) : Bool := placeHolds s o || engineTaken s o || gangHolds s o

/-- A pass image that the command touches awaits its rebuild (R254). -/
def rebuildHolds (s : State) (es : List Ext) : Bool :=
  s.adapters.any fun p => p.2.rebuildDue && p.2.state != .free
    && es.any fun e => (e.resolved s).meets ((adpPass s p.2).resolved s)

/-- The command's data is not at hand: staging slabs, ember objects moving in, pass images (R165, R254). -/
def dataHolds (s : State) (o : OutCmd) : Bool :=
  let es := operandExts s o
  !(stageHeld s es).isEmpty || !(embersMoving s es).isEmpty || rebuildHolds s es

/-- A lane's key: the earliest effective deadline among its commands; the first command's read breaks ties (R329). -/
def laneKey (s : State) (e x n : Nat) (first : OutCmd) : Nat × Nat :=
  let keys := (s.outs.filter fun o => o.ctx == x && o.ring == n && inQueue o e).map fun o => (effDeadline s o, o.ident)
  (((earliestRank keys).map Prod.fst).getD 0, first.ident)

/-- The array of a cluster is inside its kindling window (R81). -/
def inKindling (s : State) (e : Nat) : Bool :=
  decide (e < 256) && (match physCluster s (e / 8) (e % 8) with | some p => (arrSt s p).window | none => false)

/-- A command of a lane with an earlier key is held for data at one of the engines, and the kindling window of that cluster has
not ended, so the cluster does not yield (R166). -/
def windowHolds (s : State) (o : OutCmd) : Bool :=
  ((enginesOf o.d).filter (inKindling s)).any fun e => s.outs.any fun q =>
    q.ident != o.ident && inQueue q e && !(q.ctx == o.ctx && q.ring == o.ring) && !orderHolds s q && dataHolds s q
      && ranksBefore (laneKey s e q.ctx q.ring q) (laneKey s e o.ctx o.ring o)

/-- A queued command is ready to start (R329). -/
def isReady (s : State) (o : OutCmd) : Bool := o.st == .queued && !orderHolds s o && !windowHolds s o && !dataHolds s o

/-- A ready command of another lane waits at one of the engines, which chooses among them (R331). -/
def engineChooses (s : State) (o : OutCmd) : Bool :=
  s.outs.any fun q => q.ident != o.ident && sharesEngine q.d o.d && isReady s q

/-! ## Ember objects that a command needs (R161, R162, R165) -/

/-- The commands that satisfy `p` and name the object. -/
def embNamed (s : State) (p : OutCmd → Bool) (e : EmberObj) : List OutCmd :=
  s.outs.filter fun q => p q && (operandExts s q).any (e.touches s)

def embRunning (s : State) (e : EmberObj) : Bool := !(embNamed s (fun q => q.st.begun) e).isEmpty

def embRank (s : State) (e : EmberObj) : Option Nat :=
  (earliestRank ((embNamed s (fun q => q.st == .queued) e).map fun q => (effDeadline s q, q.ident))).map Prod.fst

/-- Move-ins begin for the objects that a command needs, into the region that executes it; a command of no region leaves
objects where they are (DEDUCED, log entry 145). -/
def beginEmbers (s : State) (o : OutCmd) : State :=
  if o.d.cls ≤ 3 then
    (embersNeeded s (operandExts s o)).foldl (fun s e => emberBegin s e.1 o.d.region (embRunning s) (embRank s) e.2) s
  else s

/-- Begin a move-in that a script or an admission has asked for, when the object is still in HBM. -/
def beginWant (x : Nat) (s : State) (w : Nat × Nat) : State :=
  match (ctx s x).embers.find? fun o => o.addr == w.1 && o.home.isNone with
  | some o => emberBegin s x w.2 (embRunning s) (embRank s) o
  | none => s

/-- Begin the move-ins of a context that scripts and admissions have asked for (R161, R162). -/
def beginWants (s : State) (x : Nat) : State :=
  (ctx s x).wants.foldl (beginWant x) (modCtx s x fun c => { c with wants := [] })

/-- Count the objects that a command reads in HBM because no room could be made for them (R162). -/
def countBypass (s : State) (o : OutCmd) : State :=
  let n := ((embersNeeded s (operandExts s o)).filter fun e => !(emberWays s e.1).isEmpty).length
  if o.d.cls ≤ 3 && n != 0 then bumpBy s (.tierCxEmbCnt o.ctx) 24 24 n else s

/-- Count a command held on staging, and one held on an ember object, once each (R165). -/
def countHolds (s : State) (o : OutCmd) : State × OutCmd :=
  let es := operandExts s o
  let late := !(stageHeld s es).isEmpty
  let miss := !(embersMoving s es).isEmpty
  let s := if late && !o.late then bump s (.tierCxPfLate o.ctx) else s
  let s := if miss && !o.miss then bumpBy s (.tierCxEmbCnt o.ctx) 0 24 1 else s
  let o := { o with late := o.late || late, miss := o.miss || miss }
  (putOut s o, o)

/-! ## Starting -/

/-- The first byte of host memory that a plan touches while the function may not reach it (R141). -/
def hostBarred (s : State) (p : Plan) : Option Nat :=
  if hostReadable s then none
  else ((p.exts.flatMap Ext.pieces).find? fun r => rngOf r.1 == some .host).map Prod.fst

/-- A command that passes its checks takes its pages and runs; one that needs host memory which the function may not reach
fails (R141, R169). -/
def startCmd (run : State → OutCmd → State) (s : State) (o : OutCmd) : State :=
  let p := planOp o.op s o.ctx o.d
  match hostBarred s p with
  | some a => endCommand (requestFails s o.ctx a (cmdRef o)) o stTierFail
  | none => run (touchReads (emberUse (backPlan (countBypass s o) o.ctx p) p.exts) p) o

/-- A command whose turn it is: its checks, its holds, its start. -/
def attempt (run : State → OutCmd → State) (s : State) (o : OutCmd) : State :=
  if orderHolds s o || windowHolds s o then s
  else match checkCmd s o with
    | some v => refuseCmd s o v
    | none =>
      let r := countHolds (beginEmbers s o) o
      if (stageHeld r.1 (operandExts r.1 o)).any (·.failed) then endCommand r.1 r.2 stTierFail
      else if dataHolds r.1 r.2 then r.1
      else startCmd run r.1 r.2

/-- A command that has just been read: a miss already past (R336), the choice of its engine, and its turn. -/
def accept (run : State → OutCmd → State) (s : State) (o : OutCmd) : State :=
  let late := deadlinePassed s o
  let r := if late then missNow s o 0 else (s, o)
  if late && ringDropLate s o.ctx o.ring then endCommand r.1 r.2 stCancelled
  else if engineChooses r.1 r.2 then r.1
  else attempt run r.1 r.2

/-! ## Translation (R232) -/

/-- The place that a role region has on a map. -/
def mapRegion (m : List Nat) (r : Nat) : Nat := m.getD r r

/-- A descriptor address word: cluster scratch in bits [28:24], region SRAM in bits [29:25]. -/
def mapAddr (m : List Nat) (a : Nat) : Nat :=
  match rngOf a with
  | some .scratch => putBits a 24 5 (mapRegion m (bitsAt a 24 5))
  | some .regionSram => putBits a 25 5 (mapRegion m (bitsAt a 25 5))
  | _ => a

def mapWord (m : List Nat) (w : Word) : Word := setFld w 0 48 (mapAddr m (fld w 0 48))

/-- The descriptor as the active map places it: the header's region and the address words of classes 0 to 3. SRC
of a ZERO is no address and must be 0 (R177). -/
def translate (m : List Nat) (d : Desc) : Desc :=
  if 3 < d.cls then d
  else
    let d := { d with w0 := setFld d.w0 6 5 (mapRegion m d.region) }
    match d.cls with
    | 0 => { d with w3 := if d.opCode = 1 then d.w3 else mapWord m d.w3, w4 := if d.opCode ≤ 1 then mapWord m d.w4 else d.w4 }
    | 2 => { d with w5 := mapWord m d.w5, w6 := mapWord m d.w6
                    w7 := if [0x50, 0x60, 0x61, 0x62].contains d.opCode then d.w7 else mapWord m d.w7 }
    | _ => { d with w5 := mapWord m d.w5, w6 := mapWord m d.w6, w7 := mapWord m d.w7 }

/-- `translate`, but for a DISTILL_GRAD that the block it names makes a STATS: its D_ADDR is no address and must be 0 (R206). -/
def translateAt (s : State) (m : List Nat) (d : Desc) : Desc :=
  let t := translate m d
  if RingOp.ofDesc d == some .distillStats && dgMode (distillBlock s t) != 1 then { t with w7 := d.w7 } else t

/-- The map of a ring in force. -/
def activeMap (s : State) (x n : Nat) : List Nat := (ctx s x).maps.getD (ringSt s x n).map (List.range 32)

/-! ## Reading (R295) -/

/-- Every engine that a command goes to has a place for its ring (R328). -/
def placesFree (s : State) (x n : Nat) (d : Desc) : Bool := (enginesOf d).all (enginePlace s x n)

/-- A CALL with descriptors still to be read. -/
def readingProgram (o : OutCmd) : Bool :=
  o.op == .invoke && (match o.st with | .queued => true | st => !callIssued st)

/-- A SYNC, or a CALL whose program is being read, stands before the ring's next descriptor, be it in a program itself; a
RESTORE_FROM stops intake on every ring of its context (R301, R305, R372). -/
def ringBlocked (s : State) (x n : Nat) : Bool :=
  s.outs.any fun o => o.ctx == x &&
    ((o.ring == n && (o.op == .sync || readingProgram o)) || (o.op == .restoreFrom && o.st == .peerRead))

/-- The entry at SUB_HEAD of a ring in HBM. -/
def entryHolds (s : State) (x n : Nat) (d : Desc) : Bool :=
  let a := ringBase s (.ctxCxSq x n) + subHead s x n % ringSize s (.ctxCxSq x n) * 64
  rngOf a == some .host || (List.range 8).all fun i => readWord s (a + 8 * i) == d.words.getD i 0

/-- HIF_STAT.READY. -/
def isUp (s : State) : Bool := bitOf (reg s .hifStat) 0

/-- The ring lies in the device, or the function may read host memory (PRESUMED, log entry 35). -/
def ringReach (s : State) (x n : Nat) : Bool :=
  rngOf (ringBase s (.ctxCxSq x n)) != some .host || (s.pcie.linkUp && s.pcie.busMaster)

/-- The ring processor can read a ring: descriptors below SUB_TAIL, a completion slot to reserve, and intake on. -/
def ringOpen (s : State) (x n : Nat) : Bool :=
  isUp s && !s.failed && ctxEnabled s x && ringConfigured s x n && ringReach s x n && ringEn s x n && !(ringSt s x n).fetchFault && !intakeOff s x n
    && subHead s x n != (ringSt s x n).subTail
    && decide (cnt32 (subHead s x n) (ringSt s x n).cplHead < ringSize s (.ctxCxCq x n))
    && !ringBlocked s x n

/-- The descriptor at SUB_HEAD of a ring in device memory. -/
def entryDesc (s : State) (x n : Nat) : Desc :=
  let a := ringBase s (.ctxCxSq x n) + subHead s x n % ringSize s (.ctxCxSq x n) * 64
  descOf ((List.range 8).map fun i => readWord s (a + 8 * i))

/-- A ring in device memory has its turn before any other: it is open, and its next descriptor has its places (R295, R328). What
stands in a ring in host memory is not known before it is read, so such a ring holds up no other (DESIGN CHOICE, log entry 146). -/
def wantsTurn (s : State) (k : Nat) : Bool :=
  let x := k / 16
  let n := k % 16
  ringOpen s x n && rngOf (ringBase s (.ctxCxSq x n)) != some .host
    && placesFree s x n (translate (activeMap s x n) (entryDesc s x n))

/-- In round-robin order after the ring read last, no ring that wants its turn comes before this one (R295). -/
def hasTurn (s : State) (x n : Nat) : Bool :=
  let after (k : Nat) : Nat := (k + 1023 - s.served) % 1024
  ((List.range 64).filter (ctxEnabled s)).all fun y => (List.range 16).all fun m =>
    decide (after (x * 16 + n) ≤ after (y * 16 + m)) || !wantsTurn s (y * 16 + m)

/-- The ring processor can read this descriptor from a ring now. -/
def canRead (s : State) (x n : Nat) (d : Desc) : Bool :=
  ringOpen s x n && entryHolds s x n d && placesFree s x n (translate (activeMap s x n) d) && hasTurn s x n

/-- A cancel word covers a position that was unread when it was written (R297). -/
def cancelled (s : State) (x n pos tag : Nat) : Bool :=
  (ringSt s x n).cancels.any fun c => cnt32 c.1 pos != 0 && decide (cnt32 c.1 pos ≤ 65536) && tag &&& c.2.2 == c.2.1 &&& c.2.2

/-- A command joins the outstanding ones; a COLL takes its number, a counted command is noted (R215, R235, R277). -/
def enrol (s : State) (o : OutCmd) : State × OutCmd :=
  let r := clTakeNumber s o.ctx o.d
  let o := { o with ident := r.2.nextId, seqNo := r.1 }
  let s := modCtx { r.2 with nextId := r.2.nextId + 1 } o.ctx fun c =>
    { c with counted := if isCounted o.d then setBit c.counted o.ring true else c.counted }
  (addOut s o, o)

/-- A command as it is read from a ring: nothing of it has run. -/
def freshCmd (s : State) (x n : Nat) (d0 : Desc) : OutCmd :=
  let d := translateAt s (activeMap s x n) d0
  ⟨0, x, n, subHead s x n, (RingOp.ofDesc d).getD .copy, d, now s % 2 ^ 48, d.deadline, false, none, 0, 0, 0, .queued,
    0, false, false, false, [], [], []⟩

/-- SUB_HEAD moves past a descriptor; a cancel word that it has reached is spent (R295, R297), and the next turn is that of the
ring after this one. -/
def passHead (s : State) (x n : Nat) : State :=
  let next := (subHead s x n + 1) % 2 ^ 32
  let s := { s with served := x * 16 + n }
  modRing (refreshBusy (setRf s (.ctxCxRstat x n) 0 32 next) x n) x n fun r =>
    { r with cancels := r.cancels.filter fun c => c.1 != next }

/-- The descriptor at SUB_HEAD is read and joins the outstanding commands. -/
def takeCmd (s : State) (x n : Nat) (d0 : Desc) : State × OutCmd := enrol (passHead s x n) (freshCmd s x n d0)

/-- Read the descriptor at SUB_HEAD of a ring, and run it when its turn has come. -/
def readCmd (run : State → OutCmd → State) (s : State) (x n : Nat) (d0 : Desc) : State :=
  let o := freshCmd s x n d0
  let r := takeCmd s x n d0
  if cancelled s x n o.pos o.d.tag then endCommand r.1 r.2 stCancelled else accept run r.1 r.2

/-! ## Programs (R305) -/

/-- A command of the program, at any depth, stands before its next descriptor. -/
def programBlocked (s : State) (c : OutCmd) : Bool := (programOuts s c.ident).any fun o => o.op == .sync || readingProgram o

/-- A CALL reads its next descriptor when it can. -/
def nextChild (s : State) (c : OutCmd) : Option State :=
  match c.st with
  | .call next count bad false =>
    match progOf s c.ctx (callProg c.d) with
    | none => none
    | some p =>
      let d := translateAt s (activeMap s c.ctx c.ring) (imageDesc s p.addr next)
      if decide (count ≤ next) || programBlocked s c || !placesFree s c.ctx c.ring d then none
      else
        let s := putOut s { c with st := .call (next + 1) count bad false }
        let r := enrol s ⟨0, c.ctx, c.ring, c.pos, (RingOp.ofDesc d).getD .copy, d, now s % 2 ^ 48, (c.dl + d.deadline) % 2 ^ 48,
          false, some c.ident, next, callProg c.d, c.depth + 1, .queued, 0, false, false, false, [], [], []⟩
        some (accept (runOp r.2.op) r.1 r.2)
  | _ => none

/-! ## Ember objects of failed regions (R361) -/

/-- An ember object that was resident in a lost region (R361). -/
def loseEmber (x : Nat) (s : State) (o : EmberObj) : State :=
  let lost := !o.moving && o.written
  let s := emberPages (modEmber s x o.addr fun o => { o with home := none, moving := false, written := false }) o 0
  if !lost then s
  else match o.adapter with
    | some k =>
      if (adp s k).state != .free && (adp s k).passAddr = o.addr then setAdp s k { adp s k with rebuildDue := true }
      else loseExtent s o.addr (o.slabs * slabBytes)
    | none => loseExtent s o.addr (o.slabs * slabBytes)

/-- Every ember object whose home was a region. -/
def loseEmbers (s : State) (r : Nat) : State :=
  s.ctxs.foldl (fun s c => (c.2.embers.filter fun o => o.home == some r).foldl (loseEmber c.1) s) s

/-- No working region holds a logical number. -/
def regionGone (s : State) (r : Nat) : Bool := match physRegion s r with | some p => !rgnWorking s p | none => true

/-- Objects whose region has failed return to their extents. -/
def returnEmbers (s : State) : State :=
  s.ctxs.foldl (fun s c => (c.2.embers.filter fun o => o.home.any (regionGone s)).foldl (loseEmber c.1) s) s

/-! ## Settling -/

/-- What an outstanding command does by itself, if anything: a SYNC moves on, a RELEASE ends, a CALL reads on, and a
command that no engine queues starts once nothing holds it. -/
def advanceOne (s : State) (o : OutCmd) : Option State :=
  match o.st with
  | .syncBarrier | .syncFence => advanceSync s o
  | .release => advanceRelease s o
  | .call _ _ _ _ => nextChild s o
  | .queued => if (enginesOf o.d).isEmpty && isReady s o then some (attempt (runOp o.op) s o) else none
  | _ => none

/-- Let outstanding commands go on, one action at a time. -/
def settleN : Nat → State → State
  | 0, s => s
  | k + 1, s => match s.outs.findSome? (advanceOne s) with
    | none => s
    | some s => settleN k s

/-- Everything that can go on by itself does; a longer program goes on at later ticks (DESIGN CHOICE, log entry 24). A failed package
starts nothing more (DEDUCED, log entry 33). -/
def settle (s : State) : State :=
  let s := returnEmbers s
  eraseDue (if s.failed then s else settleN 4096 ((s.ctxs.map Prod.fst).foldl beginWants s))

/-! ## Rows of the ring processor -/

/-- The descriptor is the row's command; one whose class or operation is reserved may stand for any row. -/
def spells (op : RingOp) (d : Desc) : Bool :=
  match RingOp.ofDesc d with
  | some p => p == op
  | none => true

/-- Read and run a descriptor when the ring can be read and it spells the row's command; nothing otherwise (DESIGN CHOICE, log
entry 10). -/
def ringRow (op : RingOp) (run : State → OutCmd → State) (c : Cmd) (s : State) : State :=
  if spells op c.d && canRead s c.ctx c.ring c.d then settle (readCmd run s c.ctx c.ring c.d) else s

/-- What goes wrong in arrays from here on (log entry 127). -/
def strike (s : State) (ev : List ArrEvent) : State := { s with glitches := s.glitches ++ ev }

/-- A row after whose units a MOVE is interrupted when `cut` says so: the next rows go on with it (log entry 137). -/
def withHalt (cut : Option Nat) (act : State → State) (s : State) : State :=
  match cut with
  | none => act s
  | some n => { act { s with halt := some n } with halt := none }

/-- `ringRow` of a row during which array events strike. -/
def ringRowWith (op : RingOp) (run : State → OutCmd → State) (ev : List ArrEvent) (c : Cmd) (s : State) : State :=
  let t := strike s ev
  if spells op c.d && canRead t c.ctx c.ring c.d then settle (readCmd run t c.ctx c.ring c.d) else s

/-- MODE of the parameter block that a DISTILL_GRAD descriptor names. -/
def rowMode (c : Cmd) (s : State) : Nat :=
  dgMode (distillBlock s (translate (activeMap s c.ctx c.ring) c.d))

/-- A restore that waits for the parts of this descriptor's sources. -/
def waitingRestore (s : State) (c : Cmd) : Option OutCmd :=
  s.outs.find? fun o => o.ctx == c.ctx && o.ring == c.ring && o.op == .restoreFrom && o.st == .peerRead && o.d == c.d

/-- RESTORE_FROM: one that waits is served, or the ring's is read and served. -/
def restoreRow (c : Cmd) (parts : List SnapPart) (lost : Bool) (s : State) : State :=
  match waitingRestore s c with
  | some o => settle (supplyRestore s o parts lost)
  | none =>
    ringRow .restoreFrom (fun s o => supplyRestore (abortOthers s o) o parts lost) c s

end Sys2Proof.Machine
end

