-- ==== Sys2Proof/Machine/Sched.lean ====
section
/-! DEFINITION. Events of engines, deadlines, waits and steps: ENGINE_ARBITRATION, DEADLINE_MISS, CANCEL,
KINDLING_WINDOW_END, RAMP_STEP, WAIT_MET, STEP_BOUNDARY and its kin, SNAPSHOT_STREAM_END (R81, R82, R220, R222, R297,
R302, R326 to R339, R371, R423, R425). -/

namespace Sys2Proof.Machine

/-! ## Arbitration (R326, R329, R331, R332) -/

/-- The first queued command of a lane: a context and a ring on an engine. -/
def laneFirst (s : State) (e x n : Nat) : Option OutCmd :=
  s.outs.find? fun o => o.ctx == x && o.ring == n && inQueue o e

/-- The lanes of an engine. -/
def engineLanes (s : State) (e : Nat) : List (Nat × Nat) :=
  (dedup ((s.outs.filter fun o => inQueue o e).map fun o => o.ctx * 16 + o.ring)).map fun k => (k / 16, k % 16)

/-- Every member has reserved itself for the gang. -/
def fullyHeld (o : OutCmd) : Bool := (enginesOf o.d).all o.held.contains

/-- Another gang of the region is between its first reservation and its last: the dispatcher admits one at a time (R332). -/
def gangBusy (s : State) (o : OutCmd) : Bool :=
  s.outs.any fun q => q.ident != o.ident && q.d.region == o.d.region && !q.held.isEmpty && !fullyHeld q

/-- An engine is in the middle of a command, or has reserved itself for a gang. -/
def engineHeld (s : State) (e : Nat) : Bool :=
  s.outs.any fun q => (q.st.onEngine && (enginesOf q.d).contains e) || q.held.contains e

/-- A gang whose data is at hand and that is the first of its lane at every member may reserve a member (R332; DEDUCED, log entry
150). -/
def mayReserve (s : State) (o : OutCmd) : Bool :=
  isGang o && o.st == .queued && !placeHolds s o && !gangHolds s o && !windowHolds s o && !dataHolds s o && !gangBusy s o

/-- The command that an engine starts or reserves itself for: the first ready one of the lane with the earliest key. -/
def arbitrate (s : State) (e : Nat) : Option OutCmd :=
  let ready := (engineLanes s e).filterMap fun l =>
    (laneFirst s e l.1 l.2).bind fun o => if isReady s o || mayReserve s o then some (laneKey s e l.1 l.2 o, o) else none
  (earliestRank (ready.map Prod.fst)).bind fun k => (ready.find? fun r => r.1 == k).map Prod.snd

/-- The gang that an engine has reserved itself for. -/
def gangOn (s : State) (e : Nat) : Option OutCmd := s.outs.find? fun o => o.st == .queued && o.held.contains e

/-- A gang that holds all its members starts; another waits for the rest (R332). -/
def gangGoes (s : State) (o : OutCmd) : State := if fullyHeld o then settle (attempt (runOp o.op) s o) else s

/-- A member reserves itself for the gang that it has picked. -/
def reserveFor (s : State) (o : OutCmd) (e : Nat) : State :=
  let o := { o with held := o.held ++ [e] }
  gangGoes (putOut s o) o

/-- The MOVE that a stream engine is in the middle of. -/
def movingOn (s : State) (e : Nat) : Option OutCmd :=
  s.outs.find? fun o => (enginesOf o.d).contains e && (match o.st with | .moving _ _ => true | _ => false)

/-- An engine goes on with its MOVE, or starts the command that its arbitration picks. -/
def engineGoes (s : State) (e : Nat) (ev : List ArrEvent) : State :=
  match movingOn s e with
  | some o => settle (if o.op == .zero then runZero s o else copyNow s o)
  | none => match gangOn s e with
    | some o => gangGoes (strike s ev) o
    | none =>
      if engineHeld s e then s
      else match arbitrate s e with
        | some o => if isGang o then reserveFor (strike s ev) o e else settle (attempt (runOp o.op) (strike s ev) o)
        | none => s

/-- ENGINE_ARBITRATION (R329). -/
def execEngineArbitration (turn : EngineTurn) (s : State) : Host.Outcome State Fault Refusal :=
  .next (if s.failed then s else withHalt turn.cut (fun s => engineGoes s turn.engine.val turn.ev) s)

/-! ## Deadline misses and cancels (R335 to R339) -/

/-- A cancel or a drop reaches the command: a STEP only before its check, an ADMIT only before its boundary. -/
def stoppable (s : State) (o : OutCmd) : Bool :=
  match o.st with
  | .stepGroup _ | .stepRebuild _ => false
  | .staged => !(s.outs.any fun q => q.ctx == o.ctx && (match q.st with | .stepRebuild _ => true | _ => false))
  | _ => true

/-- A command whose deadline the timebase has just passed; of a MOVE the event counts what has landed (R187). -/
def missAt (s : State) (o : OutCmd) : State :=
  let r := missNow s o (landedUnits o).1
  if ringDropLate s o.ctx o.ring && stoppable s o then endCommand r.1 r.2 stCancelled else r.1

/-- DEADLINE_MISS of the command at a position of a ring, or of one in its program. -/
def execDeadlineMiss (ctx : Fin 64) (ring : Fin 16) (pos : Word32) (s : State) : Host.Outcome State Fault Refusal :=
  .next (match s.outs.find? fun o => o.ctx == ctx.val && o.ring == ring.val && o.pos == pos.toNat && !o.missed && deadlinePassed s o with
    | some o => settle (missAt s o)
    | none => s)

/-- The BARs are reached: the device is up and its memory space enabled (R289, R323). -/
def barOpen (s : State) : Bool := isUp s && s.pcie.linkUp && s.pcie.bars && s.pcie.memSpace

/-- What becomes of a host access (R382, R400). -/
inductive Gate where
  | serve | ignore | refuse
deriving DecidableEq, Repr

/-- A host access is served in OPEN, and in confidential mode in RUN with the T bit; in RUN one without it is refused. -/
def hostGate (s : State) (tee : Bool) : Gate :=
  if !barOpen s then .ignore
  else if !confidential s then .serve
  else if tdispState s != 2 then .ignore
  else if tee then .serve else .refuse

/-- A host write under the gate: a refused one is counted. -/
def gated (s : State) (tee : Bool) (act : State → State) : State :=
  match hostGate s tee with
  | .serve => act s
  | .ignore => s
  | .refuse => bump s .hifDbErrCnt

/-- The words of a cancel match a tag. -/
def cancelMatches (value mask tag : Nat) : Bool := tag &&& mask == value &&& mask

/-- A cancel of a ring: commands already read end at their boundaries; unread ones complete when they are read. -/
def cancelRing (s : State) (x n value mask : Nat) : State :=
  let hit := s.outs.filter fun o => o.ctx == x && o.ring == n && o.parent.isNone && cancelMatches value mask o.d.tag && stoppable s o
  let s := (hit.map fun o => o.ident).foldl (fun s i => match findOut s i with
    | some o => endCommand s o stCancelled
    | none => s) s
  let tail := (ringSt s x n).subTail
  if subHead s x n = tail then s else modRing s x n fun r => { r with cancels := r.cancels ++ [(tail, value, mask)] }

/-! ## The ramp governor (R81, R82, R423, R425) -/

/-- BUDGET of an array. -/
def budget (s : State) (p : Nat) : Nat := rf s (.arrCluStat p) 35 5

def setBudget (s : State) (p b : Nat) : State := setRf s (.arrCluStat p) 35 5 b

/-- The ceiling that the power cap and the die's temperature set. -/
def ceiling (s : State) (p : Nat) : Nat := min 16 (min s.power.bCap (s.power.bTherm.getD (p / 81) 16))

/-- KINDLING_WINDOW_END: no real pair came; the governor ramps the array down. -/
def execKindlingWindowEnd (cluster : Fin 324) (s : State) : Host.Outcome State Fault Refusal :=
  let p := cluster.val
  let a := arrSt s p
  .next (if cluInService s p && a.window && budget s p != 0 then setArr s p { a with window := false, ramp := .down } else s)

/-- An array's budget moves by one step, and never faster. A held budget has held for one interval when the step comes, and
rises (R82, Example 6.2). -/
def rampOnce (s : State) (p : Nat) : State :=
  let a := arrSt s p
  let b := budget s p
  let top := ceiling s p
  match a.ramp with
  | .down =>
    if b ≤ 1 then setArr (setBudget s p 0) p { a with ramp := .steady, window := false } else setBudget s p (b - 1)
  | .hold => if b < top then setArr (setBudget s p (b + 1)) p { a with ramp := .up } else setArr s p { a with ramp := .up }
  | .up => if top < b then setBudget s p (b - 1)
    else if b < top then setBudget s p (b + 1)
    else if b = 16 then setArr s p { a with ramp := .steady }
    else s
  | .steady => if b = 0 then s
    else if top < b then setBudget s p (b - 1)
    else if b < top then setBudget s p (b + 1)
    else s

/-- RAMP_STEP; `mismatch` is a kindling pair of the ramp that fails its check (R79). -/
def execRampStep (cluster : Fin 324) (mismatch : Bool) (s : State) : Host.Outcome State Fault Refusal :=
  let p := cluster.val
  .next (if !cluInService s p || cluFailed s p then s
    else rampOnce (if budget s p = 0 ∨ !kindleOn s then s else if mismatch then (kindleFails s p none 0).1 else kindlePair s p) p)

/-! ## Waits and steps -/

/-- WAIT_MET: a SYNC of the ring whose condition holds goes on (R300 to R302). -/
def execWaitMet (ctx : Fin 64) (ring : Fin 16) (s : State) : Host.Outcome State Fault Refusal :=
  .next (match s.outs.find? fun o => o.ctx == ctx.val && o.ring == ring.val && o.st == .syncWait && waitMetNow s o.d with
    | some o => settle (finishSync s o)
    | none => s)

/-- STEP_BOUNDARY; `lost` are spilled slabs that a bring-back fails to read, `cut` the journal entries that a unit
failure cuts short (R132, R220, R361). -/
def execStepBoundary (ctx : Fin 64) (lost : List Addr) (cut : List (Nat × SpareUnit)) (s : State) :
    Host.Outcome State Fault Refusal :=
  .next (settle (boundaryNow s ctx.val (lost.map BitVec.toNat) cut))

/-- STEP_GROUP_TIMEOUT (R222). -/
def execStepGroupTimeout (ctx : Fin 64) (s : State) : Host.Outcome State Fault Refusal :=
  .next (settle (groupTimeout s ctx.val))

/-- SNAPSHOT_STREAM_END, or the failure of a DDR write of the stream (R365, R371). -/
def execSnapshotStreamEnd (ctx : Fin 64) (writeFailed : Bool) (s : State) : Host.Outcome State Fault Refusal :=
  .next (if streamRuns s ctx.val then settle (if writeFailed then failStream s ctx.val else endStream s ctx.val) else s)

end Sys2Proof.Machine
end

