-- ==== Sys2Proof/Machine/Ctx.lean ====
section
/-! DEFINITION. Rings and contexts come and go: enabling and disabling rings, the enable attempt, disable, force and
teardown (R171, R258, R292 to R294, R341 to R345, R369, R406, R468, R469, R475 to R477). -/

namespace Sys2Proof.Machine

/-! ## Rings (R293, R294, R341) -/

/-- All counts of a ring restart at 0 (R294). -/
def zeroRing (s : State) (x n : Nat) : State :=
  let s := modRing s x n fun r => { r with subTail := 0, cplHead := 0, fetchFault := false, pend := 0, cancels := [] }
  refreshBusy (setReg s (.ctxCxRstat x n) 0) x n

/-- Setting a ring's EN: the counts restart and intake begins, unless the context is being disabled. -/
def startRing (s : State) (x n : Nat) : State := setIntakeOff (zeroRing s x n) x n (ctx s x).disabling

/-- A write of CTX_CX_RING_n with the adjusted value `v` (locked bits already kept): an EN that may not be set is
refused and logged, and the write with it. -/
def ringCfgWrite (s : State) (src : Source) (x n : Nat) (v : Word) : State :=
  let r := Reg.ctxCxRing x n
  let old := ringEn s x n
  let v := if fld v 3 2 = 3 then setFld v 3 2 (rf s r 3 2) else v
  let v := if fld v 8 8 = 0 then setFld v 8 8 1 else v
  if bitOf v 0 && !old then
    if !ringConfigured s x n || ringBusy s x n then logAccess s src r.offset 3 else startRing (setReg s r v) x n
  else if !bitOf v 0 && old then setIntakeOff (setReg s r v) x n true
  else setReg s r v

/-- A write of CTX_CX_EQ_CFG. -/
def eqCfgWrite (s : State) (src : Source) (x : Nat) (v : Word) : State :=
  let r := Reg.ctxCxEqCfg x
  if bitOf v 0 && !bitOf (reg s r) 0 then
    if reg s (.ctxCxEq x) = 0 then logAccess s src r.offset 3
    else
      let s := modCtx (setRf (setReg s r v) (.ctxCxEqStat x) 0 32 0) x fun c => { c with evtHead := 0 }
      flushOverflow s x
  else setReg s r v

/-! ## The checks of an enable (R476) -/

/-- Used windows of a context. -/
def usedWindows (s : State) (x : Nat) : List Ext :=
  ((List.range 16).map (windowOf s x)).filterMap fun p => if p.2 = 0 then none else some (ext false p.1 p.2)

/-- The extent lies within one range, each peer window counted as one. -/
def oneRange (e : Ext) : Bool :=
  decide (0 ≤ e.lo) && (rngOf e.lo.toNat).isSome && rngOf e.lo.toNat == rngOf e.hi.toNat

/-- The configured rings: address, LOG2, bytes of an entry. -/
def ringList (s : State) (x : Nat) : List (Nat × Nat × Nat) :=
  let one (r : Reg) (n : Nat) : Nat × Nat × Nat := (rf s r 0 48, rf s r 48 5, n)
  ((List.range 16).flatMap fun n =>
    if ringConfigured s x n then [one (.ctxCxSq x n) 64, one (.ctxCxCq x n) 16] else [])
    ++ (if reg s (.ctxCxEq x) = 0 then [] else [one (.ctxCxEq x) 32])

def ringExts (s : State) (x : Nat) : List Ext := (ringList s x).map fun r => ext true r.1 (2 ^ r.2.1 * r.2.2)

def scaleExt (s : State) (x : Nat) : Ext := ext true (rf s (.ctxCxScale x) 0 48) 131072

def journalExt (s : State) (x : Nat) : Ext :=
  ext true (rf s (.ctxCxJournal x) 0 48) ((rf s (.ctxCxJournal x) 48 16 + 1) * 256)

/-- In the HBM range and within one window. -/
def hbmHeld (s : State) (x : Nat) (e : Ext) : Bool :=
  decide (0 ≤ e.lo) && inHbm e.lo.toNat && inHbm e.hi.toNat && inWindow s x e

/-- A set-up table that ADDR 0 leaves out. -/
def tableHeld (s : State) (x a len : Nat) : Bool := a == 0 || hbmHeld s x (ext false a len)

/-- Some two extents of a list share a byte. -/
def someMeet : List Ext → Bool
  | [] => false
  | e :: es => es.any e.meets || someMeet es

/-- Alignments and LOG2 (item 2). -/
def setupAligned (s : State) (x : Nat) : Bool :=
  (List.range 16).all (fun w => rf s (.ctxCxWinSize x w) 0 32 == 0 || rf s (.ctxCxWinBase x w) 0 16 == 0)
    && rf s (.ctxCxScale x) 0 16 == 0 && rf s (.ctxCxJournal x) 0 12 == 0 && rf s (.ctxCxPmap x) 0 6 == 0
    && rf s (.ctxCxAdp x) 0 6 == 0 && (rf s (.fltCxSnapArea x) 0 21 == 0)
    && (ringList s x).all fun r => r.1 % 4096 == 0 && decide (6 ≤ r.2.1) && decide (r.2.1 ≤ 16)

/-- SET_STAT says that signed settings are required and no slot is valid (R435): contexts are refused. -/
def contextsBarred (s : State) : Bool := s.part.boardKeyHash.isSome && rf s .setStat 0 2 == 0

/-- Item 4. -/
def windowsOk (s : State) (x : Nat) : Bool :=
  let ws := usedWindows s x
  ws.all (fun w => oneRange w && !w.meets (ext false 0x20000000 0x1800000) && !w.meets (ext false 0x24000000 0x1000000))
    && !someMeet ws

/-- Item 5. -/
def ringsOk (s : State) (x : Nat) : Bool :=
  let rs := ringExts s x
  rs.all (fun e => (hbmHeld s x e || (oneRange e && rngOf e.lo.toNat == some .host))
      && !e.meets (scaleExt s x) && !e.meets (journalExt s x))
    && !someMeet rs

/-- Item 7. -/
def journalOk (s : State) (x : Nat) : Bool :=
  let j := journalExt s x
  hbmHeld s x j && !j.meets (scaleExt s x) && !(ringExts s x).any j.meets

/-- Item 10. -/
def quotaOk (s : State) (x : Nat) : Bool :=
  decide (1 ≤ rf s (.tierCxQuota x) 0 18) && (backPages s x (writePages s [scaleExt s x])).isSome

/-- The first check that fails: its item and its code. -/
def enableFails (s : State) (x : Nat) (locked : Bool) : Option (Nat × Nat) :=
  if !locked then some (1, stBadDesc)
  else if !setupAligned s x then some (2, stBadDesc)
  else if contextsBarred s then some (3, stUnsupported)
  else if !windowsOk s x then some (4, stBounds)
  else if !ringsOk s x then some (5, stBounds)
  else if !hbmHeld s x (scaleExt s x) then some (6, stBounds)
  else if !journalOk s x then some (7, stBounds)
  else if !tableHeld s x (rf s (.ctxCxPmap x) 0 48) 256 then some (8, stBounds)
  else if !tableHeld s x (rf s (.ctxCxAdp x) 0 48) ((rf s (.ctxCxAdp x) 48 16 + 1) * 64) then some (9, stBounds)
  else if !quotaOk s x then some (10, stQuota)
  else if rf s (.tierCxEmber x) 48 13 != 0 && (emberWays s x).isEmpty then some (11, stQuota)
  else none

/-! ## What an enable writes (R369, R477) -/

/-- A scale-table entry with the reset values of R44: HIST_LEN 15 and SAT_PPM 1,000. -/
def scaleReset : List Byte := leBytes 32 (15 * 2 ^ 32 + 1000 * 2 ^ 96)

/-- The scale table is written with reset values. -/
def initScale (s : State) (x : Nat) : State :=
  let a := rf s (.ctxCxScale x) 0 48
  let s := (backPages s x (writePages s [scaleExt s x])).getD s
  let s := { s with mem := smFill 0 s.mem (fun k => scaleReset.getD ((k - a) % 32) 0) a 131072
                    poison := smErase s.poison (a / 64) 2048 }
  touchExtent (slabWritten (slabWritten s (a / slabBytes)) (a / slabBytes + 1)) a 131072

/-- Pages of the DDR range that the context's snapshot area names. -/
def areaPages (s : State) (x : Nat) : List Nat :=
  let p := rf s (.fltCxSnapArea x) 0 48 / pageBytes
  let n := rf s (.fltCxSnapSize x) 0 32
  if p = 0 then []
  else (List.range (min n (0x18000000000 / pageBytes))).filterMap fun i =>
    if rngOf ((p + i) * pageBytes) = some .ddr then some (p + i) else none

/-- One page of a snapshot area gets a frame that counts against no quota, where one is left. -/
def backSnap (x : Nat) (s : State) (p : Nat) : State :=
  if (tierAt s p).backed || !ddrRoom s x true then s
  else setTier s p { TierEntry.reset with frame := freeFrame s true, ddr := true, backed := true, owner := x, snap := true }

/-- The pages of the context's area in force: those that its earlier enables backed. -/
def snapPages (s : State) (x : Nat) : List Nat :=
  (s.tier.filter fun p => p.2.snap && p.2.owner == x).map Prod.fst

/-- The area's frames are backed; generations in an area that has been moved are lost (DEDUCED, log entry 37). -/
def backArea (s : State) (x : Nat) : State :=
  let want := areaPages s x
  let old := snapPages s x
  let s := if old.isEmpty || old == want then s
    else
      let s := old.foldl unbackPage s
      showGens (modCtx s x fun c => { c with newest := none, prev := none }) x
  want.foldl (backSnap x) s

/-- The context's own state as an enable leaves it: its ember table, its script's progress, its snapshots stay. -/
def freshCtx (s : State) (c : CtxSt) : CtxSt :=
  { CtxSt.reset with embers := c.embers, cursor := c.cursor, issued := c.issued, stage := c.stage, rings := c.rings
                     evtHead := 0, evtMerged := c.evtMerged, newest := c.newest, prev := c.prev
                     lastCut := now s, lastCommit := now s, snapList := c.snapList }

/-- A successful enable. -/
def enableNow (s : State) (x : Nat) : State :=
  let s := backArea (initScale s x) x
  let s := showGens (modCtx s x (freshCtx s)) x
  let s := (List.range 16).foldl (fun s n => zeroRing s x n) s
  let s := setRf s (.ctxCxEqStat x) 0 32 0
  let s := setReg (setReg (setReg s (.ctxCxStep x) 0) (.ctxCxSteprec x) 0) (.ctxCxJrnlStat x) 0
  let s := setReg (setReg (setReg s (.telCxVoids x) 0) (.telCxReroutes x) 0) (.telCxMisses x) 0
  let s := setRf (setReg s (.ctxCxSetupStat x) 0) (.ctxCxSetupStat x) 16 1 1
  let s := setRf (setRf s .ctxEnabled x 1 1) (.schCxStat x) 33 1 0
  runScript (advanceEpoch (setRf s (.schCxStat x) 0 16 0)) x

/-- A failed enable leaves the context disabled, EN and LOCK clear. -/
def enableRefused (s : State) (x item st : Nat) : State :=
  setReg (setReg s (.ctxCxSetupStat x) (BitVec.ofNat 64 (st + item * 2 ^ 8))) (.ctxCxCtl x) 0

def enableAttempt (s : State) (x : Nat) : State :=
  match enableFails s x (bitOf (reg s (.ctxCxCtl x)) 1) with
  | some f => enableRefused s x f.1 f.2
  | none => enableNow (setRf s (.ctxCxCtl x) 0 1 1) x

/-! ## Teardown (R258, R344, R345, R406) -/

def ctxIdle (s : State) (x : Nat) : Bool := bitOf (reg s (.schCxStat x)) 33

/-- Ring commands of a context, in the order of their reading. -/
def rootsOf (s : State) (x : Nat) : List Nat :=
  (s.outs.filter fun o => o.ctx == x && o.parent.isNone).map fun o => o.ident

/-- Every command of the context ends: the one that faulted it CTX_FAULT, the others ABORTED. -/
def endWork (s : State) (x : Nat) (fault : Option Nat) : State :=
  let s := match fault.bind (findOut s) with
    | some o => endCommand s o stCtxFault
    | none => s
  dropStream (endAll s stAborted (rootsOf s x)) x

/-- The tag and ring of a faulting command, for the event. -/
def faultCause (s : State) (x : Nat) (fault : Option OutCmd) : State :=
  match fault with
  | some o => writeEvent s x (cmdEvent o 0x0A stCtxFault)
  | none => s

/-- Windows of the other enabled contexts. -/
def otherWindows (s : State) (x : Nat) : List Ext :=
  (List.range 64).flatMap fun y => if y ≠ x ∧ ctxEnabled s y then usedWindows s y else []

/-- Every SRAM line of the context's windows that no other enabled context's window covers is zeroed. -/
def scrubSram (s : State) (x : Nat) : State :=
  let mine := (usedWindows s x).filter fun w => decide (0 ≤ w.lo) && inSram (resolve s w.lo.toNat)
  let mine := mine.map (Ext.resolved s)
  let theirs := (otherWindows s x).map (Ext.resolved s)
  let within (es : List Ext) (a : Nat) : Bool := es.any fun e => decide (e.lo ≤ a) && decide ((a : Int) ≤ e.hi)
  let gone (a : Nat) : Bool := inSram a && within mine (a / 64 * 64) && !within theirs (a / 64 * 64)
  { s with mem := s.mem.filter fun c => !gone c.1, poison := s.poison.filter fun p => !gone (p.1 * 64)
           clean := s.clean.filter fun p => !(inSram (p.1 * slabBytes) && mine.any fun e => e.meets (ext false (p.1 * slabBytes) slabBytes)) }

/-- Every HBM and DDR frame that the context holds is zeroed and unbacked; its snapshot area stays. -/
def scrubPages (s : State) (x : Nat) : State :=
  ((s.tier.filter fun p => p.2.backed && p.2.owner == x && !p.2.snap).map Prod.fst).foldl unbackPage s

/-- Groups that the context owns are released; its allowances stay as written (R467, DEDUCED, log entry 38). -/
def releaseGroups (s : State) (x : Nat) : State :=
  (List.range 64).foldl (fun s g =>
    if grpOpen s x g then restartGroup (setRf s (.peerGrpCfg g) 6 1 0) g else s) s

/-- A bank without the tile of a context. -/
def bankWithout (x : Nat) (b : Option Bank) : Option Bank := b.filter fun t => t.ctx != x

/-- A tile of the context leaves the arrays that hold it. -/
def dropTiles (s : State) (x : Nat) : State :=
  { s with arrays := s.arrays.filterMap fun p =>
      let a := { p.2 with active := bankWithout x p.2.active, shadow := bankWithout x p.2.shadow }
      if a = ArrSt.reset then none else some (p.1, a) }

/-- Its adapters are retired at once. -/
def retireAll (s : State) (x : Nat) : State :=
  ((s.adapters.filter fun p => p.2.owner == x && p.2.state != .free).map Prod.fst).foldl freeAdapter s

/-- Its packages are unloaded. -/
def unloadAll (s : State) (x : Nat) : State :=
  setReg { s with packages := s.packages.filter fun p => (p.2.map (·.ctx)) != some x } (.secCxPkgStat x) 0

/-- What outlives a teardown: the counts of its rings and its snapshots. -/
def tornCtx (c : CtxSt) : CtxSt :=
  { CtxSt.reset with newest := c.newest, prev := c.prev, evtHead := c.evtHead, evtMerged := c.evtMerged
                     rings := c.rings.map fun p => (p.1, { RingSt.reset with subTail := p.2.subTail, cplHead := p.2.cplHead }) }

/-- Rings that are wholly at their reset state are not listed. -/
def trimRings (c : CtxSt) : CtxSt := { c with rings := c.rings.filter fun p => p.2 != RingSt.reset }

/-- Step 7: everything the context owns is released and scrubbed. -/
def releaseOwned (s : State) (x : Nat) : State :=
  let s := unloadAll (dropTiles (releaseGroups (retireAll s x) x) x) x
  let j := journalExt s x
  let s := scrubSram (zeroExtent (scrubPages s x) j.lo.toNat j.len) x
  modCtx s x fun c => trimRings (tornCtx c)

/-- The status registers of a context that is torn down. -/
def markIdle (s : State) (x : Nat) : State :=
  let s := setReg (setRf s (.ctxCxSteprec x) 4 1 0) (.ctxCxJrnlStat x) 0
  let s := setRf (setRf s .ctxEnabled x 1 0) (.ctxCxSetupStat x) 16 1 0
  let s := setRf s (.ctxCxCtl x) 1 1 0
  advanceEpoch (setRf (setRf s (.schCxStat x) 32 1 0) (.schCxStat x) 33 1 1)

/-- Teardown, whole (R344): `fault` is the command that faulted the context. -/
def teardownNow (s : State) (x : Nat) (fault : Option Nat) : State :=
  if ctxIdle s x then s
  else
    let o := fault.bind (findOut s)
    let s := setRf (setRf s (.schCxStat x) 0 16 0xFFFF) (.schCxStat x) 32 1 1
    let s := faultCause (endWork s x fault) x o
    settle (markIdle (releaseOwned s x) x)

/-! ## Disable, force, lock (R342, R343, R468, R476) -/

/-- Every ring of the context has drained. -/
def ringsDrained (s : State) (x : Nat) : Bool := rf s (.schCxStat x) 16 16 == 0

/-- A disable stops intake; the teardown follows when the rings have drained. -/
def disableCtx (s : State) (x : Nat) : State :=
  let s := setRf (modCtx s x fun c => { c with disabling := true }) (.schCxStat x) 0 16 0xFFFF
  if ringsDrained s x then teardownNow s x none else s

/-- A write of CTX_CX_CTL. LOCK is set first; a 0 written to LOCK while it is set is ignored. -/
def ctxCtlWrite (s : State) (src : Source) (x : Nat) (v : Word) : State :=
  let r := Reg.ctxCxCtl x
  let was := bitOf (reg s r) 0
  let newLock := bitOf v 1 && !bitOf (reg s r) 1
  let s := if newLock then advanceEpoch (setRf s r 1 1 1) else s
  if bitOf v 0 then
    if was && ctxEnabled s x then s
    else if ctxIdle s x && src == .host then enableAttempt s x
    else logAccess s src r.offset 3
  else
    let s := setRf s r 0 1 0
    if was && ctxEnabled s x then disableCtx s x else s

/-- Rings n of the context stop: EN clears and what was read completes ABORTED. -/
def forceRing (s : State) (x n : Nat) : State :=
  let s := setIntakeOff (setRf s (.ctxCxRing x n) 0 1 0) x n true
  endAll s stAborted ((outsOf s x n).map fun o => o.ident)

/-- A write of SCH_CX_FORCE. -/
def forceWrite (s : State) (x : Nat) (v : Word) : State :=
  if ctxIdle s x then s
  else
    let rings := if bitOf v 16 then List.range 16 else setBits (fld v 0 16) 16
    let s := rings.foldl (fun s n => forceRing s x n) s
    if bitOf v 16 then teardownNow s x none else settle s

/-! ## Rows -/

/-- TEARDOWN: a disabled context whose rings have drained (R342, R344). -/
def execTeardown (ctx : Fin 64) (s : State) : Host.Outcome State Fault Refusal :=
  .next (if (Machine.ctx s ctx.val).disabling && ringsDrained s ctx.val then teardownNow s ctx.val none else s)

/-- SEM_TIMEOUT: a wait of the ring still unmet after the semaphore timeout faults the context (R302). -/
def execSemTimeout (ctx : Fin 64) (ring : Fin 16) (s : State) : Host.Outcome State Fault Refusal :=
  .next (match s.outs.find? fun o => o.ctx == ctx.val && o.ring == ring.val && o.st == .syncWait with
    | some o =>
      if waitMetNow s o.d then s
      else teardownNow (writeEvent s ctx.val (cmdEvent o 0x09 (syWaitAddr o.d))) ctx.val (some o.ident)
    | none => s)

/-- EPOCH_RETIRED: every access checked under an earlier epoch has retired (R405). -/
def execEpochRetired (s : State) : Host.Outcome State Fault Refusal := .next (setRf s .secEpoch 48 1 0)

end Sys2Proof.Machine
end

