-- ==== Sys2Proof/Machine/Bar.lean ====
section
/-! DEFINITION. BAR2, BAR4, interrupt coalescing and the timebase: DOORBELL, EVENT_HEAD, COALESCING_TIMEOUT, PTM_DIALOGUE,
BAR4_READ, BAR4_WRITE (R289 to R291, R294, R319 to R321). -/

namespace Sys2Proof.Machine

/-! ## Doorbells (R291, R294) -/

/-- A value that breaks the rules is counted and raises a doorbell event. -/
def refuseDoorbell (s : State) (x n which value : Nat) : State :=
  writeEvent (bump s .hifDbErrCnt) x ⟨0x08, none, none, 0, n % 16 + which * 2 ^ 4 + value % 2 ^ 32 * 2 ^ 32⟩

/-- A new SUB_TAIL: at most one ring above SUB_HEAD. -/
def newSubTail (s : State) (x n v : Nat) : State :=
  if cnt32 v (subHead s x n) ≤ ringSize s (.ctxCxSq x n) then modRing s x n fun r => { r with subTail := v }
  else refuseDoorbell s x n 0 v

/-- A count that a consumer may report: at most one ring below what was written, and not before the last. -/
def consumedOk (written last size v : Nat) : Bool := decide (cnt32 written v ≤ size) && decide (cnt32 written v ≤ cnt32 written last)

/-- A new CPL_HEAD. -/
def newCplHead (s : State) (x n v : Nat) : State :=
  if consumedOk (cplWr s x n) (ringSt s x n).cplHead (ringSize s (.ctxCxCq x n)) v then
    modRing s x n fun r => { r with cplHead := v }
  else refuseDoorbell s x n 1 v

/-- One value of a doorbell: a ring whose EN is clear counts it and raises no event. -/
def ringValue (s : State) (x n : Nat) (v : Option Word32) (accept : State → Nat → Nat → Nat → State) : State :=
  match v with
  | none => s
  | some v => if ringEn s x n then accept s x n v.toNat else bump s .hifDbErrCnt

/-- A doorbell write: each value is judged on its own. -/
def ringDoorbell (s : State) (x n : Nat) (subTail cplHead : Option Word32) : State :=
  ringValue (ringValue s x n subTail newSubTail) x n cplHead newCplHead

/-- The context, the ring and the place in the page of a BAR2 offset. -/
def bar2Ctx (o : BitVec 22) : Nat := o.toNat / 0x10000
def bar2Ring (o : BitVec 22) : Nat := o.toNat / 0x1000 % 16
def bar2Place (o : BitVec 22) : Nat := o.toNat % 0x1000

/-- The 32-bit word that begins at byte `i` of some data. -/
def wordAt (data : List Byte) (i : Nat) : Word32 := BitVec.ofNat 32 (leNat ((data.drop i).take 4))

/-- Answer a BAR2 read from the 8 bytes of a word, when the gate serves it; what stands at an offset that names nothing reads 0
(DESIGN CHOICE, log entry 149). -/
def bar2Read (s : State) (tee : Bool) (word place len : Nat) : State :=
  if !barOpen s then s
  else match hostGate s tee with
    | .serve => emit s (.barRead (some (((leBytes 8 word).drop (place % 8) ++ List.replicate len 0).take len)) false)
    | _ => emit s (.barRead none false)

/-- A doorbell write of 8 bytes, or of 4 that hold one of the two values; any other is ignored (R291). -/
def doorbellWrite (s : State) (x n place : Nat) (data : List Byte) : State :=
  if place = 0 ∧ data.length = 8 then ringDoorbell s x n (some (wordAt data 0)) (some (wordAt data 4))
  else if place = 0 ∧ data.length = 4 then ringDoorbell s x n (some (wordAt data 0)) none
  else if place = 4 ∧ data.length = 4 then ringDoorbell s x n none (some (wordAt data 0))
  else s

/-- The doorbell word as it was last accepted. -/
def doorbellWord (s : State) (x n : Nat) : Nat := (ringSt s x n).subTail % 2 ^ 32 + (ringSt s x n).cplHead % 2 ^ 32 * 2 ^ 32

/-- DOORBELL: an access at offsets 0 to 7 of a page. -/
def execDoorbell (ctx : Fin 64) (ring : Fin 16) (place : BitVec 12) (tee : Bool) (acc : Bar2Access) (s : State) :
    Host.Outcome State Fault Refusal :=
  let p := place.toNat
  .next (if 8 ≤ p then s
    else match acc with
      | .write data => gated s tee fun s => doorbellWrite s ctx.val ring.val p data
      | .read len => bar2Read s tee (doorbellWord s ctx.val ring.val) p len)

/-- CANCEL: an access at offsets 8 to 15 of a page; only an 8-byte write is taken, and reads return 0 (R291, R297, R337 to R339). -/
def execCancel (ctx : Fin 64) (ring : Fin 16) (place : BitVec 12) (tee : Bool) (acc : Bar2Access) (s : State) :
    Host.Outcome State Fault Refusal :=
  let p := place.toNat
  .next (if p < 8 ∨ 16 ≤ p then s
    else match acc with
      | .write data =>
        if p = 8 ∧ data.length = 8 then
          gated s tee fun s => settle (cancelRing s ctx.val ring.val (wordAt data 0).toNat (wordAt data 4).toNat)
        else s
      | .read len => bar2Read s tee 0 p len)

/-- A new EVT_HEAD. -/
def newEvtHead (s : State) (x v : Nat) : State :=
  if !bitOf (reg s (.ctxCxEqCfg x)) 0 then bump s .hifDbErrCnt
  else if consumedOk (evtWr s x) (ctx s x).evtHead (ringSize s (.ctxCxEq x)) v then
    flushOverflow (modCtx s x fun c => { c with evtHead := v }) x
  else refuseDoorbell s x 0 2 v

/-- EVENT_HEAD: an access at offset 16 or above of a page; the event head stands at offset 16 of page 0, and writes to any other
offset are ignored (R291). -/
def execEventHead (offset : BitVec 22) (tee : Bool) (acc : Bar2Access) (s : State) : Host.Outcome State Fault Refusal :=
  let x := bar2Ctx offset
  let p := bar2Place offset
  let here := bar2Ring offset == 0 && decide (16 ≤ p) && decide (p < 20)
  .next (if p < 16 then s
    else match acc with
      | .write data => if here && p == 16 && data.length == 4 then gated s tee fun s => newEvtHead s x (wordAt data 0).toNat else s
      | .read len => bar2Read s tee (if here then (ctx s x).evtHead % 2 ^ 32 else 0) p len)

/-! ## Interrupts (R320) -/

/-- The oldest pending completion of a ring is COAL_US old. -/
def coalesced (s : State) (x n : Nat) : Bool :=
  let r := ringSt s x n
  let us := rf s (.ctxCxRing x n) 16 8
  rf s (.ctxCxRing x n) 3 2 == 2 && us != 0 && r.pend != 0 && decide (r.oldest + us * 1000 ≤ now s)

/-- COALESCING_TIMEOUT. -/
def execCoalescingTimeout (ctx : Fin 64) (ring : Fin 16) (s : State) : Host.Outcome State Fault Refusal :=
  .next (if coalesced s ctx.val ring.val then
      signal (modRing s ctx.val ring.val fun r => { r with pend := 0 }) (ctx.val * 32 + ring.val)
    else s)

/-! ## The timebase (R321) -/

/-- PTM is in use. -/
def ptmOn (s : State) : Bool := bitOf (reg s .hifCtl) 1 && s.pcie.ptmEn && s.pcie.linkUp && isUp s

/-- PTM_LOCK: the offset is below 1 µs. -/
def setLock (s : State) (left : Int) : State := setRf s .hifStat 9 1 (if left.natAbs < 1000 then 1 else 0)

/-- A dialogue measures the offset from the root's time; with no context enabled the timebase steps to it, and otherwise the
ticks work it off. -/
def ptmMeasures (s : State) (root : Word) : State :=
  let ofs := root - reg s .hifTb
  let s := setReg s .hifPtmOfs ofs
  if !anyEnabled s then setLock { setReg s .hifTb root with ptm := ⟨0, 0⟩ } 0
  else
    let s := setLock { s with ptm := ⟨ofs.toInt, 0⟩ } ofs.toInt
    if 1000000 < ofs.toInt.natAbs then signalDevice s else s

/-- PTM_DIALOGUE. -/
def execPtmDialogue (rootTime : Word) (s : State) : Host.Outcome State Fault Refusal :=
  .next (if ptmOn s then ptmMeasures s rootTime else s)

/-- The clock domains run: the package is powered and the root PLL locked (R419, R421). -/
def clocksRun (s : State) : Bool := bitOf (reg s .clkStat) 1 && (s.power.state == .boot || s.power.state == .active)

/-- The timebase runs for 1 ns and works off what SLEW ppm allow of its offset (R321; at the full rate: DESIGN CHOICE, log entry
151). It never moves backward. -/
def runTimebase (s : State) : State :=
  let p := s.ptm
  let sum := p.frac + rf s .hifPtmCtl 16 16
  if p.left = 0 then setReg s .hifTb (reg s .hifTb + 1)
  else if sum < 1000000 then setReg { s with ptm := { p with frac := sum } } .hifTb (reg s .hifTb + 1)
  else
    let left := if 0 < p.left then p.left - 1 else p.left + 1
    setLock (setReg { s with ptm := ⟨left, sum - 1000000⟩ } .hifTb (reg s .hifTb + (if 0 < p.left then 2 else 0))) left

/-- One tick: what can go on by itself does, and 1 ns passes on the timebase and on the always-on clock (DESIGN CHOICE, log entry 7). -/
def tick (s : State) : State :=
  let s := { s with sec := { s.sec with rtc := s.sec.rtc + 1 } }
  if clocksRun s then runTimebase (settle s) else s

/-! ## BAR4 (R290) -/

/-- BAR4 is present (R289, R390). -/
def bar4Present (s : State) : Bool := bitOf (reg s .secStat) 13

/-- What a byte of the aperture falls in: served, in an unbacked page, or refused. -/
inductive Bar4Target where
  | served | unbacked | refused
deriving DecidableEq, Repr

/-- The rails that a part of the address space needs are on: VSRAM of its die, VHBM (R420, R427, DEDUCED, log entry 40). -/
def railsOn (s : State) (a : Nat) : Bool :=
  let on (i : Nat) : Bool := s.power.rails.getD i true
  match rngOf a with
  | some .scratch => on (4 + a / 0x1000000 / 8)
  | some .regionSram => on (4 + (a - 0x40000000) / 0x2000000 / 8)
  | some .hbm => (List.range 8).all fun k => on (16 + k)
  | _ => true

def bar4Target (s : State) (a : Nat) : Bar4Target :=
  if !railsOn s a then .refused else
  match rngOf a with
  | some .scratch | some .hub | some .regionSram => if sramOpen s a then .served else .refused
  | some .hbm | some .ddr =>
    if (snapAreas s).any fun e => e.meets (ext false a 1) then .refused
    else if (tierAt s (a / pageBytes)).backed then .served else .unbacked
  | _ => .refused

/-- The device address of a BAR4 offset. -/
def bar4Addr (s : State) (offset : BitVec 34) : Nat := rf s .hifBar4Base 34 14 * 2 ^ 34 + offset.toNat

/-- The targets of an access, byte by byte. -/
def bar4Targets (s : State) (a len : Nat) : List Bar4Target := (List.range len).map fun i => bar4Target s (a + i)

/-- A read: zeros from unbacked pages, the EP bit with a poisoned line, Unsupported Request when any byte is refused. -/
def bar4Reads (s : State) (a len : Nat) : State :=
  if (bar4Targets s a len).contains .refused then emit (bump s .hifBar4ErrCnt) (.barRead none false)
  else emit s (.barRead (some (readBytes s a len)) (anyPoison s a len))

/-- A write: dropped whole when any byte is refused, and on its unbacked part. -/
def bar4Writes (s : State) (a : Nat) (data : List Byte) (ep : Bool) : State :=
  let ts := bar4Targets s a data.length
  if ts.contains .refused then bump s .hifBar4ErrCnt
  else
    let cells := ((List.range data.length).map fun i => (a + i, data.getD i 0)).filter fun c => bar4Target s c.1 == .served
    let r := storeQuiet s cells (if ep then dedup (cells.map fun c => c.1 / 64) else [])
    if ts.contains .unbacked || r.2 then bump r.1 .hifBar4ErrCnt else r.1

/-- BAR4_READ. -/
def execBar4Read (offset : BitVec 34) (len : Nat) (s : State) : Host.Outcome State Fault Refusal :=
  .next (if !barOpen s then s
    else if !bar4Present s || decide (2 ^ 34 < offset.toNat + len) then emit s (.barRead none false)
    else bar4Reads s (bar4Addr s offset) len)

/-- BAR4_WRITE. -/
def execBar4Write (offset : BitVec 34) (data : List Byte) (ep : Bool) (s : State) : Host.Outcome State Fault Refusal :=
  .next (if barOpen s && bar4Present s && decide (offset.toNat + data.length ≤ 2 ^ 34) then
      settle (bar4Writes s (bar4Addr s offset) data ep)
    else s)

end Sys2Proof.Machine
end

