-- ==== Sys2Proof/Machine/Package.lean ====
section
/-! DEFINITION. Adapters and weight packages: CREATE, IMPORT, REBUILD, LOAD, UNLOAD, and the package table
(R244 to R254, R396 to R398). -/

namespace Sys2Proof.Machine

/-! ## Adapters (R247, R248, R253) -/

/-- The pending request of a context for an adapter, with an operation. -/
def pendingReq (s : State) (x op k : Nat) : Option AdpReq := (ctx s x).adpReqs.find? fun q => q.op == op && q.adapter == k

/-- CREATE: a pending CREATE finishes. -/
def execCreate (ctx : Fin 64) (adapter : BitVec 16) (s : State) : Host.Outcome State Fault Refusal :=
  .next (match pendingReq s ctx.val 1 adapter.toNat with
    | some q => settle (createNow s ctx.val q)
    | none => s)

/-- IMPORT: a pending IMPORT finishes. -/
def execImportAdapter (ctx : Fin 64) (adapter : BitVec 16) (s : State) : Host.Outcome State Fault Refusal :=
  .next (match pendingReq s ctx.val 2 adapter.toNat with
    | some q => settle (importNow s ctx.val q)
    | none => s)

/-- A running command touches the adapter's pass image (R254). -/
def passInUse (s : State) (k : Nat) : Bool :=
  s.outs.any fun o => o.st.begun
    && (operandExts s o).any fun e => (e.resolved s).meets ((adpPass s (adp s k)).resolved s)

/-- REBUILD: a due pass image is built from the new master; what was held on it may start (R253, R254). -/
def execRebuild (adapter : BitVec 16) (s : State) : Host.Outcome State Fault Refusal :=
  .next (if passInUse s adapter.toNat then s else settle (rebuildNow s adapter.toNat))

/-! ## The package table (R397) -/

def pkgOp (n : Nat) : Nat := bitsAt n 0 2
def pkgFrozen (n : Nat) : Bool := n.testBit 2
def pkgReq (n : Nat) : Nat := bitsAt n 8 8
def pkgAck (n : Nat) : Nat := bitsAt n 16 8
def pkgArch (n : Nat) : Nat := bitsAt n 64 48
def pkgDst (n : Nat) : Nat := bitsAt n 128 48
def pkgSlot (n : Nat) : Nat := bitsAt n 192 8

/-- The reserved bits of an entry are 0 and its OP is not reserved. -/
def pkgOk (n : Nat) : Bool :=
  pkgOp n != 3 && bitsAt n 3 5 == 0 && bitsAt n 32 32 == 0 && bitsAt n 112 16 == 0 && bitsAt n 176 16 == 0 && n >>> 200 == 0

def pkgEntry (s : State) (e : Nat) : Nat := readLe s e 64

/-- Entries of the table that a value of SEC_CX_PKG names. -/
def pkgEntries (w : Word) : List Nat :=
  if fld w 0 48 = 0 then [] else (List.range (fld w 48 9)).map fun i => fld w 0 48 + 64 * i

/-- A request finishes: STATUS, then SLOT, then ACK. -/
def pkgFinish (s : State) (e status : Nat) (slot : Option Nat) : State :=
  let req := pkgReq (pkgEntry s e)
  let s := storeBytes s (e + 3) (leBytes 1 status)
  let s := match slot with | some k => storeBytes s (e + 24) (leBytes 1 k) | none => s
  storeBytes s (e + 2) (leBytes 1 req)

/-! ## The package (R396) -/

def pkgSegment : Nat := 2 ^ 30

def hdrEnc (h : Nat) : Bool := h.testBit 48
def hdrSet (h : Nat) : Word := BitVec.ofNat 64 (bitsAt h 64 64)
def hdrWrapped (h : Nat) : BitVec 320 := BitVec.ofNat 320 (bitsAt h 128 320)
def hdrNonce (h : Nat) : BitVec 96 := BitVec.ofNat 96 (bitsAt h 448 96)
def hdrLength (h : Nat) : Nat := bitsAt h 544 64

/-- Segments of the data. -/
def pkgSegments (len : Nat) : Nat := ceilDiv len pkgSegment

/-- Bytes of the archive image: header, data, and a tag for each segment when it is encrypted. -/
def pkgBytes (h : Nat) : Nat := 128 + hdrLength h + (if hdrEnc h then 16 * pkgSegments (hdrLength h) else 0)

/-- MAGIC, FORMAT, LENGTH and the reserved bits. -/
def hdrOk (h : Nat) : Bool :=
  bitsAt h 0 32 == 0x5851574B && bitsAt h 32 16 == 1 && bitsAt h 49 15 == 0 && bitsAt h 608 416 == 0
    && hdrLength h % 64 == 0 && decide (64 ≤ hdrLength h) && decide (hdrLength h ≤ 2 ^ 40)

def setKeyOf (s : State) (id : Word) : Option (BitVec 256) := (s.sec.setKeys.find? fun k => k.1 == id).map Prod.snd

/-- The lowest slot that holds no package, if one is left of 256. -/
def freeSlot (s : State) : Option Nat := (List.range 256).find? fun k => (smGet none s.packages k).isNone

/-- The destination meets a loaded package's, or that of a load that runs. -/
def pkgOverlap (s : State) (e : Ext) : Bool :=
  let r := e.resolved s
  (s.packages.filterMap Prod.snd).any (fun p => r.meets (ext false p.addr p.len))
    || s.ctxs.any fun c => c.2.loading.any fun q => q.2.1 == 1 && r.meets ((ext false q.2.2.1 q.2.2.2).resolved s)

/-- Slots taken by loads that run. -/
def loadsRunning (s : State) : Nat := s.ctxs.foldl (fun n c => n + (c.2.loading.filter fun q => q.2.1 == 1).length) 0

def packagesHeld (s : State) : Nat := (s.packages.filterMap Prod.snd).length

/-- The header as its bytes are read. -/
def pkgHeader (s : State) (n : Nat) : Nat := leNat (fetchedBytes s (pkgArch n) 128)

/-- The checks of a LOAD, and its destination (R398). -/
def loadPlan (s : State) (x n : Nat) : Plan :=
  if !pkgOk n || pkgDst n % slabBytes != 0 then planV [stBadDesc]
  else if extentOutside s x (ext false (pkgArch n) 128) then planV [stBounds]
  else
    let h := pkgHeader s n
    let dst := ext true (pkgDst n) (hdrLength h)
    let bad := !hdrOk h || (hdrEnc h && (setKeyOf s (hdrSet h)).isNone)
    if bad then planV [stBadDesc]
    else ⟨whenV (pkgOverlap s dst) stBadDesc ++ whenV (decide (256 ≤ packagesHeld s + loadsRunning s)) stQuota,
          [ext false (pkgArch n) (pkgBytes h), dst]⟩

/-- A new request of the table: it starts, or finishes at once where a check refuses it. -/
def pkgRequest (s : State) (x e : Nat) : State :=
  let n := pkgEntry s e
  let start (s : State) (dst len : Nat) : State :=
    modCtx s x fun c => { c with loading := c.loading ++ [(e, pkgOp n, dst, len)] }
  if pkgReq n = pkgAck n || (ctx s x).loading.any (fun q => q.1 == e) then s
  else if !pkgOk n then pkgFinish s e stBadDesc none
  else match pkgOp n with
    | 0 => pkgFinish s e stOk none
    | 1 =>
      let p := loadPlan s x n
      if archBarred s (pkgArch n) && !extentOutside s x (ext false (pkgArch n) 128) then pkgFinish (requestFails s x (pkgArch n) 0) e stTierFail none
      else match planFails s x p with
      | some st => pkgFinish s e st none
      | none => start (backPlan s x p) (pkgDst n) (hdrLength (pkgHeader s n))
    | _ => start s 0 0

/-- A write of SEC_CX_PKG: the table is read, when it lies in the context's bounds. -/
def pkgWrite (s : State) (x : Nat) (v : Word) : State :=
  let v := if 256 < fld v 48 9 then setFld v 48 9 256 else v
  let s := setReg s (.secCxPkg x) v
  if ctxEnabled s x && fld v 0 6 == 0 && !extentOutside s x (ext true (fld v 0 48) (64 * fld v 48 9)) then
    (pkgEntries v).foldl (fun s e => pkgRequest s x e) s
  else s

/-! ## LOAD (R397, R398) -/

/-- One segment of the data, decrypted: none when its tag fails. -/
def openSegment (key : BitVec 256) (h : Nat) (hdr : List Byte) (body : List Byte) (i : Nat) : Option (List Byte) :=
  let len := min pkgSegment (hdrLength h - i * pkgSegment)
  let seg := (body.drop (i * (pkgSegment + 16))).take (len + 16)
  let nonce := hdrNonce h ^^^ BitVec.ofNat 96 i
  Config.gcmOpen key nonce hdr (seg.take len) (BitVec.ofNat 128 (leNat (seg.drop len)))

/-- The plaintext of a package: none when the unwrap or any tag fails. -/
def pkgPlain (s : State) (h : Nat) (hdr body : List Byte) : Option (List Byte) :=
  if !hdrEnc h then some body
  else (setKeyOf s (hdrSet h)).bind fun k => (Config.keyUnwrap k (hdrWrapped h)).bind fun key =>
    (List.range (pkgSegments (hdrLength h))).foldl (fun acc i =>
      acc.bind fun bs => (openSegment key h hdr body i).map (bs ++ ·)) (some [])

/-- The request leaves the running ones; the context's count of packages is shown. -/
def loadEnds (s : State) (x e status : Nat) (slot : Option Nat) : State :=
  let s := modCtx s x fun c => { c with loading := c.loading.filter fun q => q.1 != e }
  let held := ((s.packages.filterMap Prod.snd).filter fun p => p.ctx == x).length
  pkgFinish (setRf s (.secCxPkgStat x) 0 9 held) e status slot

/-- A failed load leaves its destination zeroed. -/
def loadFails (s : State) (x e dst len status : Nat) : State :=
  loadEnds ((storeCells s ((List.range len).map fun i => (dst + i, (0 : Byte))) []).1) x e status none

/-- A load that has all its data: the tags, the destination, the digest and the record. -/
def loadNow (s : State) (x e dst len : Nat) (readFails : Bool) : State :=
  let n := pkgEntry s e
  let h := pkgHeader s n
  let image := fetchedBytes s (pkgArch n) (pkgBytes h)
  let hdr := image.take 128
  let bad := anyPoison s (pkgArch n) (pkgBytes h)
  let s := { s with free := s.free + 1 }
  if readFails || archBarred s (pkgArch n) then loadFails (requestFails s x (pkgArch n) 0) x e dst len stTierFail
  else match pkgPlain s h hdr (image.drop 128), freeSlot s with
    | some pt, some k =>
      let o := outBytes dst ((List.range len).map fun i => pt.getD i 0) bad
      let r := storeCells s o.cells o.bad
      if r.2 then loadFails r.1 x e dst len stKeyExhausted
      else
        let pkg : Package := ⟨x, resolve s dst, len, pkgFrozen n, Config.sha384 image⟩
        loadEnds (advanceEpoch { r.1 with packages := smSet none r.1.packages k (some pkg) }) x e stOk (some k)
    | _, _ => loadFails s x e dst len stBadDesc

/-- The running request of an entry of the table. -/
def loadingAt (s : State) (x i op : Nat) : Option (Nat × Nat × Nat × Nat) :=
  (ctx s x).loading.find? fun q => q.1 == rf s (.secCxPkg x) 0 48 + 64 * i && q.2.1 == op

/-- LOAD: a running load ends; `readFails` says that a read of the package fails. -/
def execLoad (ctx : Fin 64) (entry : BitVec 8) (readFails : Bool) (s : State) : Host.Outcome State Fault Refusal :=
  .next (match loadingAt s ctx.val entry.toNat 1 with
    | some q => loadNow s ctx.val q.1 q.2.2.1 q.2.2.2 readFails
    | none => s)

/-- An unload: the record goes and the extent is writable; its contents stay. -/
def unloadNow (s : State) (x e : Nat) : State :=
  let k := pkgSlot (pkgEntry s e)
  match smGet none s.packages k with
  | some p =>
    if p.ctx = x then loadEnds (advanceEpoch { s with packages := smSet none s.packages k none }) x e stOk none
    else loadEnds s x e stBadDesc none
  | none => loadEnds s x e stBadDesc none

/-- UNLOAD. -/
def execUnload (ctx : Fin 64) (entry : BitVec 8) (s : State) : Host.Outcome State Fault Refusal :=
  .next (match loadingAt s ctx.val entry.toNat 2 with
    | some q => unloadNow s ctx.val q.1
    | none => s)

end Sys2Proof.Machine
end

