-- ==== Sys2Proof/Machine/Fault.lean ====
section
/-! DEFINITION. Detection and delivery of faults, and spare takeover: FAULT_MERGE_WINDOW, STORM_HOLD_END, PATROL_READ,
ENGINE_HANG, HEARTBEAT_MISS, SPARE_TAKEOVER, D2D_RETRAIN, FAILURE_RECORD_WRITE, HOST_AER, FAULT_REPORT, RING_FETCH
(R295, R351 to R363, R455, R462). -/

namespace Sys2Proof.Machine

/-! ## Delivery (R354, R358, R455, R457, R462) -/

/-- The package has failed (R352, R455). -/
def failPackage (s : State) : State := { s with failed := true, pins := { s.pins with sysFaultN := false } }

/-- DETAIL of a fault record (R354). -/
def faultDetail (e : MergeEntry) : Nat :=
  e.code % 256 + e.sev % 4 * 2 ^ 8 + e.source % 2 ^ 16 * 2 ^ 16 + min 65535 e.reporters.length * 2 ^ 32
    + min 65535 e.suppressed * 2 ^ 48 + e.action % 16 * 2 ^ 64 + e.info % 2 ^ 48 * 2 ^ 72

/-- The record of a report (R316, R354). -/
def faultEvent (e : MergeEntry) : Event :=
  ⟨0x07, if e.cmd.testBit 36 then some (bitsAt e.cmd 32 4) else none,
    if e.cmd.testBit 37 then some (bitsAt e.cmd 38 6) else none, bitsAt e.cmd 0 32, faultDetail e⟩

/-- What the device fault log shows of a record: in confidential mode INFO, TAG and HAS_RING are 0 (R358). -/
def redact (s : State) (e : MergeEntry) : MergeEntry :=
  if confidential s then { e with info := 0, cmd := setBit (e.cmd >>> 36 <<< 36) 36 false } else e

def logWr (s : State) : Nat := rf s .fltLogStat 0 32

/-- The device fault log is enabled (R358, R378). -/
def logOn (s : State) : Bool := bitOf (reg s .fltCtl) 1

def logSpace (s : State) : Bool := decide (cnt32 (logWr s) (rf s .fltLogHead 0 32) < ringSize s .fltLog)

/-- Write one record into the device fault log. -/
def putLog (s : State) (t : Nat) (e : Event) : State :=
  let k := logWr s
  let n := ringSize s .fltLog
  let s := storeBytes s (ringBase s .fltLog + k % n * 32) (eventImage t (phaseOf k n) e)
  setRf s .fltLogStat 0 32 ((k + 1) % 2 ^ 32)

/-- A record goes to the device fault log under the rules of R318. -/
def logRecord (s : State) (e : MergeEntry) : State :=
  if !logOn s then s
  else
    let s := if logSpace s && s.logMerged != 0 then
        { putLog s (now s) ⟨0x0F, none, none, 0, min 255 s.logMerged * 2 ^ 56⟩ with logMerged := 0 } else s
    if logSpace s then putLog s e.time (faultEvent (redact s e))
    else bumpBy { s with logMerged := s.logMerged + 1 } .fltLogStat 32 16 1

/-- The monitor's notice of a record of SEV 2 or 3 (R462). -/
def faultNotice (s : State) (e : MergeEntry) : State :=
  emit s (.notice ([e.code, e.source, e.action] ++ (if confidential s then [] else e.info :: e.ctx.toList)))

/-- A record reaches the host (R358), and the pins and the monitor (R455, R457, R462). -/
def deliverFault (s : State) (e : MergeEntry) : State :=
  let s := match e.ctx with
    | some x => writeEventAt (bump s (.fltCxFaults x)) x e.time (faultEvent e)
    | none => s
  let s := logRecord s e
  let s := if 2 ≤ e.sev && bitOf (reg s .fltCtl) 2 then signalDevice s else s
  let s := if 2 ≤ e.sev then faultNotice { s with pins := { s.pins with smbAlertN := false } } e else s
  if e.sev = 3 then failPackage s else s

/-! ## Storms (R357) -/

/-- The merge window in ns (R356). -/
def mergeWindow (s : State) : Nat := rf s .fltMerge 0 8 * 1000

def setStorm (s : State) (t : Storm) : State :=
  { s with storms := (s.storms.filter fun u => !(u.code == t.code && u.source == t.source)) ++ [t] }

/-- The storm of a CODE and SOURCE. -/
def stormOf (s : State) (code source : Nat) : Storm :=
  (s.storms.find? fun t => t.code == code && t.source == source).getD ⟨code, source, 0, 0, false, []⟩

/-- One report's window ends at the package: it is delivered, or held while its CODE and SOURCE storm. Windows are
consecutive when one ends within two windows of the last (DEDUCED, log entry 34). -/
def packageRecord (s : State) (e : MergeEntry) : State :=
  if 2 ≤ e.sev then deliverFault s e
  else
    let t := stormOf s e.code e.source
    if t.holding then setStorm s { t with held := mergeInto (t.held.length + 1) e t.held }
    else
      let n := if t.windows ≠ 0 ∧ now s ≤ t.last + 2 * mergeWindow s then t.windows + 1 else 1
      deliverFault (setStorm s { t with windows := n, last := now s, holding := decide (rf s .fltMerge 8 8 ≤ n) }) e

/-- The aggregator that a region's or a die's entries pass to (R12, R356). -/
def nextAgg (agg : Nat) : Nat := if agg < 36 then 36 + agg / 9 else 42

/-- The oldest entry of an aggregator's table passes up. -/
def passUp (s : State) (agg : Nat) : State :=
  match smGet [] s.merges agg with
  | [] => s
  | e :: es =>
    let s := { s with merges := smSet [] s.merges agg es }
    if agg = 42 then packageRecord s e else addReport s (nextAgg agg) e

/-- FAULT_MERGE_WINDOW (R356). -/
def execFaultMergeWindow (agg : Aggregator) (s : State) : Host.Outcome State Fault Refusal := .next (passUp s (aggIndex agg))

/-- STORM_HOLD_END: one record carries the whole count (R357). -/
def execStormHoldEnd (code : Byte) (source : BitVec 16) (s : State) : Host.Outcome State Fault Refusal :=
  let t := stormOf s code.toNat source.toNat
  .next (if t.holding then
      t.held.foldl deliverFault (setStorm s { t with windows := 0, holding := false, held := [] })
    else s)

/-! ## Units (R315, R354, R360) -/

/-- The engines of a physical cluster, by collector index: those of the logical number that it holds. -/
def clusterEngines (s : State) (c : Nat) : List Nat :=
  if cluInService s c then let l := 8 * cluRegion s c + cluNumber s c; [l, 256 + l] else []

/-- The logical number of a physical region. -/
def regionNumber (s : State) (p : Nat) : Option Nat :=
  (((List.range 9).map fun k => 9 * p + k).find? fun c => cluInService s c).map (cluRegion s)

/-- The engines of a physical region. -/
def regionEngines (s : State) (p : Nat) : List Nat :=
  match regionNumber s p with
  | some r => (List.range 8).flatMap (fun k => [8 * r + k, 256 + 8 * r + k]) ++ [512 + r, 544 + 2 * r, 545 + 2 * r]
  | none => []

/-- A command in the middle of its work on one of some engines. -/
def runsOn (es : List Nat) (o : OutCmd) : Bool := o.st.onEngine && (enginesOf o.d).any es.contains

/-- A command in the queue of one of some engines, or in the middle of its work there. -/
def runsOrWaitsOn (es : List Nat) (o : OutCmd) : Bool :=
  (o.st.onEngine || o.st == .queued) && (enginesOf o.d).any es.contains

/-- Running commands of a failed unit complete ABORTED (R360 step 1). -/
def stopEngines (s : State) (es : List Nat) : State :=
  endAll s stAborted ((s.outs.filter (runsOn es)).map fun o => o.ident)

/-- The contexts that have commands running on some engines, each with the first of them (R358, DEDUCED, log entry 156). -/
def concerned (s : State) (es : List Nat) : Concerned :=
  let os := s.outs.filter (runsOn es)
  (dedup (os.map fun o => o.ctx)).map fun x => (some x, ((os.find? fun o => o.ctx == x).map cmdRef).getD 0)

/-- A cluster fails outside a command of its own (R359). -/
def clusterFails (s : State) (c : Nat) : State :=
  let es := clusterEngines s c
  if cluFailed s c then s else stopEngines (failCluster s c (concerned s es)) es

/-- A region fails (R359). -/
def regionFails (s : State) (p : Nat) : State :=
  let es := regionEngines s p
  if rgnWorking s p then stopEngines (failRegion s p (concerned s es)) es else s

/-- A die fails, and the package with it (R359). -/
def dieFails (s : State) (die : Nat) : State :=
  failPackage (report s 0x39 3 (srcOf 2 die) none 9 0 0)

/-- A hub die or the ring processor falls silent: the PCIe link goes down too (R352). -/
def hubFails (s : State) (die : Nat) : State :=
  let s := dieFails s die
  { s with pcie := { s.pcie with linkUp := false } }

/-! ## Detection (R351, R352, R355, R359) -/

/-- Four within a second, counting this one. -/
def fourInSecond (t : Nat) (errs : List Nat) : List Nat := (t :: errs.filter fun u => decide (t < u + 1000000000)).take 4

/-- SOURCE of an SRAM line: its cluster, its region, or its hub die (R355). -/
def sramSource (s : State) (a : Nat) : Option Nat :=
  match rngOf a with
  | some .scratch => (physCluster s (a / 0x1000000) (a / 0x200000 % 8)).map (srcOf 0)
  | some .regionSram => (physRegion s ((a - 0x40000000) / 0x2000000)).map (srcOf 1)
  | some .hub => some (srcOf 2 (4 + (a - 0x20000000) / 0x4000000))
  | _ => none

/-- The store holds the line, and SOURCE of what is found there. -/
def storeSource (s : State) (store : Store) (a : Nat) : Option Nat :=
  let held := inPaged a && (tierAt s (a / pageBytes)).backed && !slabVacated s (a / slabBytes)
  match store with
  | .sram => sramSource s a
  | .hbm => if held && !(homeOf s a).2 then some (tierSource s a) else none
  | .ddr => if held && (homeOf s a).2 then some (tierSource s a) else none

def storeCode : Store → Nat
  | .sram => 0x10
  | .hbm => 0x12
  | .ddr => 0x14

/-- An uncorrectable error in a scratch or a region SRAM; the fourth in a second fails the unit (R359). -/
def countErrors (s : State) (a : Nat) : State :=
  match rngOf a with
  | some .scratch =>
    match physCluster s (a / 0x1000000) (a / 0x200000 % 8) with
    | some p =>
      let es := fourInSecond (now s) (arrSt s p).errs
      let s := setArr s p { arrSt s p with errs := es }
      if 4 ≤ es.length then clusterFails s p else s
    | none => s
  | some .regionSram =>
    match physRegion s ((a - 0x40000000) / 0x2000000) with
    | some p =>
      let es := fourInSecond (now s) (smGet RgnSt.reset s.rgns p).errs
      let s := { s with rgns := smSet RgnSt.reset s.rgns p ⟨es⟩ }
      if 4 ≤ es.length then regionFails s p else s
    | none => s
  | _ => s

/-- What a patrol finds in a line (R351). An HBM channel that stays down fails the package (R359; the record's CODE: DESIGN
CHOICE, log entry 152). -/
def patrolFinds (s : State) (store : Store) (line : Nat) (found : Ecc) : State :=
  match storeSource s store line, found with
  | none, _ => s
  | some _, .clean => s
  | some src, .down =>
    if store = .hbm then failPackage (report s 0x39 3 src none 9 line 0) else report s 0x30 1 src none 4 line 0
  | some _, .coded bytes => if store = .ddr then readCoded s line bytes else s
  | some src, .corrected => report (bump s .fltCeCnt) (storeCode store) 0 src none 1 line 0
  | some src, .uncorrectable =>
    countErrors (report (bump (countBad (loseExtent s line 64) 1) .fltUeCnt) (storeCode store + 1) 1 src none 3 line 0) line

/-- PATROL_READ. -/
def execPatrolRead (store : Store) (line : Addr) (found : Ecc) (s : State) : Host.Outcome State Fault Refusal :=
  .next (patrolFinds s store (resolve s line.toNat / 64 * 64) found)

/-- An engine's buffers and operand state are cleared (R376). -/
def clearEngine (s : State) (e : Nat) : State :=
  if e < 256 then
    match physCluster s (e / 8) (e % 8) with
    | some p => setBanks s p none
    | none => s
  else s

/-- The unit of an engine fails (R352, R359). -/
def engineUnitFails (s : State) (e : Nat) : State :=
  if e < 512 then
    match physCluster s (e % 256 / 8) (e % 8) with
    | some p => clusterFails s p
    | none => s
  else if e < 608 then
    match physRegion s (if e < 544 then e - 512 else (e - 544) / 2) with
    | some p => regionFails s p
    | none => s
  else dieFails s (hubEngineDie e)

/-- A reset of engine scope: running commands complete ABORTED, the queue stays (R376). -/
def resetEngine (s : State) (e : Nat) : State := clearEngine (stopEngines s [e]) e

/-- The watchdog resets an engine; a second trip within a second fails its unit (R352). -/
def watchdogTrips (s : State) (e : Nat) : State :=
  let recent := (smGet [] s.engTrips e).filter fun t => decide (now s < t + 1000000000)
  let s := { s with engTrips := smSet [] s.engTrips e (now s :: recent) }
  let s := reportUnit (resetEngine s e) 0x31 1 (srcOf 7 e) 5 0 (concerned s [e])
  if recent.isEmpty then s else engineUnitFails s e

/-- ENGINE_HANG. -/
def execEngineHang (engine : Fin 612) (s : State) : Host.Outcome State Fault Refusal :=
  .next (if s.failed then s else settle (watchdogTrips s engine.val))

/-- HEARTBEAT_MISS: three missed heartbeats (R352). -/
def heartbeatsMissed (s : State) : Unit' → State
  | .engine c => clusterFails s c.val
  | .regionUnit r => regionFails s r.val
  | .computeDie d => dieFails s d.val
  | .hubDie d => hubFails s (4 + d.val)
  | .ringProcessor => hubFails s 4

def execHeartbeatMiss (u : Unit') (s : State) : Host.Outcome State Fault Refusal := .next (settle (heartbeatsMissed s u))

/-- HOST_AER: an error that the PCIe link has logged (R355). A completion that came with the EP bit brings its line bad: the line
is poisoned and counted (R184). -/
def execHostAer (e : HostError) (s : State) : Host.Outcome State Fault Refusal :=
  let s := match e.ep with
    | some a => if rngOf a.toNat == some .host then countBad (setPoison s a.toNat true) 1 else s
    | none => s
  .next (report s 0x58 1 (srcOf 8 0) none 0 e.info.toNat 0)

/-! ## RING_FETCH (R295) -/

/-- A descriptor read of a ring in the host range returns a PCIe error: the ring reads nothing more. -/
def fetchFails (s : State) (x n : Nat) : State :=
  let s := setIntakeOff (modRing s x n fun r => { r with fetchFault := true }) x n true
  report s 0x32 1 (srcOf 8 0) (some x) 4 n 0

def execRingFetch (ctx : Fin 64) (ring : Fin 16) (s : State) : Host.Outcome State Fault Refusal :=
  .next (if ringOpen s ctx ring && rngOf (ringBase s (.ctxCxSq ctx ring)) == some .host then fetchFails s ctx ring else s)

/-! ## Takeover (R19, R23, R360, R361) -/

def scratchOf (r k : Nat) : Nat := (8 * r + k) * 0x200000

/-- A fresh array, idle at b = 0. -/
def freshArray (s : State) (c : Nat) : State := setBudget (setArr s c ArrSt.reset) c 0

/-- The working spare cluster of a region. -/
def spareCluster (s : State) (p : Nat) : Option Nat :=
  ((List.range 9).map fun k => 9 * p + k).find? fun c => cluSpare s c && !cluFailed s c

/-- The spare of its region takes over a failed cluster's number. -/
def takeCluster (s : State) (c : Nat) : State :=
  let p := c / 9
  if !(cluFailed s c && cluInService s c && rgnWorking s p) then s
  else match spareCluster s p with
    | none => s
    | some k =>
      let r := cluRegion s c
      let l := cluNumber s c
      let s := stopEngines s (clusterEngines s c)
      let s := setClu (setClu s c false false 0 0) k false true r l
      let s := refreshArrStat (setRf s (.idRgn p) 8 1 0)
      let s := freshArray (freshArray (loseExtent s (scratchOf r l) 0x200000) k) c
      report s 0x3A 0 (srcOf 0 k) none 6 (8 * r + l) 0

/-- A region's scratch and SRAM are lost. -/
def loseRegion (s : State) (r : Nat) : State :=
  loseExtent (loseExtent (loseEmbers s r) (r * 0x1000000) 0x1000000) (0x40000000 + r * 0x2000000) 0x2000000

/-- The spare region of its die takes over a failed region's number. -/
def takeRegion (s : State) (p : Nat) : State :=
  if rgnWorking s p then s
  else match regionNumber s p, dieSpare s p with
    | some r, some q =>
      let s := stopEngines s (regionEngines s p)
      let s := refreshArrStat (buildRegion (buildRegion s p none false) q (some r) false)
      let s := ((List.range 9).flatMap fun k => [9 * p + k, 9 * q + k]).foldl freshArray (loseRegion s r)
      report s 0x3A 0 (srcOf 1 q) none 6 r 0
    | _, _ => s

/-- SPARE_TAKEOVER: the failed unit is named; its queued commands go on, on the spare. -/
def execSpareTakeover (u : SpareUnit) (s : State) : Host.Outcome State Fault Refusal :=
  .next (settle (match u with
    | .cluster c => takeCluster s c.val
    | .region r => takeRegion s r.val))

/-! ## Die-to-die links (R353) -/

def d2dOf (s : State) (k : Nat) : D2dLink := smGet D2dLink.reset s.d2d k

def setD2d (s : State) (k : Nat) (l : D2dLink) : State :=
  setRf (setRf { s with d2d := smSet D2dLink.reset s.d2d k l } .fltFailD2d k 1 (if l.half then 1 else 0))
    .fltFailD2d (16 + k) 1 (if l.spared = 0 then 0 else 1)

/-- Spare wires of a link (R15). -/
def spareWires (k : Nat) : Nat := if k < 6 then 64 else 32

/-- A wire of a link fails under load: a spare replaces it, or the link goes to half width, or down. -/
def wireFails (s : State) (k wire : Nat) : State :=
  let l := d2dOf s k
  if l.down then s
  else if l.half then
    failPackage (report (setD2d s k { l with down := true }) 0x22 3 (srcOf 5 k) none 9 0 0)
  else if l.spared < spareWires k then
    report (setD2d s k { l with spared := l.spared + 1 }) 0x20 0 (srcOf 5 k) none 1 wire 0
  else report (setD2d s k { l with half := true }) 0x21 2 (srcOf 5 k) none 7 0 0

/-- D2D_RETRAIN. -/
def execD2dRetrain (link : Fin 15) (wire : Nat) (s : State) : Host.Outcome State Fault Refusal :=
  .next (wireFails s link.val wire)

/-! ## The failure record (R363) -/

/-- Failed clusters, as FLT_FAIL_CLU_i shows them. -/
def failedClusters (s : State) : List Nat := (List.range 324).filter fun c => bitOf (reg s (.fltFailClu (c / 64))) (c % 64)

/-- The record as the registers show it, written to flash. -/
def writeRecord (s : State) : State :=
  { s with part := { s.part with recClusters := failedClusters s
                                 recRegions := setBits (rf s .fltFailRgn 0 36) 36
                                 recHalf := setBits (rf s .fltFailD2d 0 15) 15
                                 recSpared := setBits (rf s .fltFailD2d 16 15) 15 } }

/-- FAILURE_RECORD_WRITE: a write that power loss cuts off leaves the previous record in force. -/
def execFailureRecordWrite (cutOff : Bool) (s : State) : Host.Outcome State Fault Refusal :=
  .next (if cutOff then s else writeRecord s)

end Sys2Proof.Machine
end

