-- ==== Sys2Proof/Machine/Peer.lean ====
section
/-! DEFINITION. What arrives on the peer links: READ, POSTED_WRITE, READ_DATA, WRITE_ACKNOWLEDGE, WRITE_FAILURE,
CREDIT_AND_ACKNOWLEDGE, NEGATIVE_ACKNOWLEDGE, HELLO, SEND_HELLO, MISSED_HELLOS, COLLECTIVE, ABANDON_NOTICE,
PAUSE_FRAME, RETRY_TIMEOUT, POSTED_WRITE_TIMEOUT, COLLECTIVE_TIMEOUT, SUB_PORT_UP, FRAME_DISCARDED (R259 to R271, R276,
R277, R284 to R287). -/

namespace Sys2Proof.Machine

/-! ## Sub-ports (R259, R286, R287) -/

/-- The sub-port is up. -/
def subUp (s : State) (sub : Nat) : Bool := peerConsent s && bitOf (reg s .peerStat) sub

/-- The mode of the port has the sub-port (R259). -/
def subExists (s : State) (sub : Nat) : Bool :=
  let m := rf s .peerPortCfg (2 * (sub / 2)) 2
  m == 2 || (m == 1 && sub % 2 == 0)

def peerEn (s : State) : Bool := bitOf (reg s .peerCtl) 1

/-- SUB_PORT_UP: training has completed. -/
def execSubPortUp (subport : Fin 8) (s : State) : Host.Outcome State Fault Refusal :=
  .next (if peerEn s && peerConsent s && subExists s subport.val then setRf s .peerStat subport.val 1 1 else s)

/-! ## Connections that go down (R266, R268, R269, R284) -/

/-- The matched collectives with a member, in progress. -/
def collsWith (s : State) (member : Nat → Bool) : List Nat :=
  (s.outs.filter fun o => clMatched o.d && (clMembers s o.d).any member
    && collBegun o).map fun o => o.ident

/-- Fail several collectives (R284). -/
def failColls (s : State) (idents : List Nat) : State :=
  idents.foldl (fun s i => match findOut s i with | some o => collFailed s o | none => s) s

/-- A command's read over a connection fails (R169, R266). -/
def readLost (s : State) (x sub pkg : Nat) (r : PeerRead) : State :=
  match findOut s r.ident with
  | some o => endCommand (tierFailed s x (srcOf 10 pkg) r.addr (srcOf 6 sub) (cmdRef o)) o stTierFail
  | none => s

/-- Every read outstanding on a connection fails. -/
def readsLost (sub pkg : Nat) (s : State) (x : Nat) : State :=
  let gone := (ctx s x).reads.filter fun r => r.subport == sub && r.pkg == pkg
  let s := modCtx s x fun c => { c with reads := c.reads.filter fun r => !(r.subport == sub && r.pkg == pkg) }
  gone.foldl (fun s r => readLost s x sub pkg r) s

/-- Every posted write unacknowledged on a connection fails. -/
def postsLost (sub pkg : Nat) (s : State) (x : Nat) : State :=
  let gone := (ctx s x).posted.filter fun p => p.subport == sub && p.pkg == pkg
  let s := modCtx s x fun c => { c with posted := c.posted.filter fun p => !(p.subport == sub && p.pkg == pkg) }
  gone.foldl (fun s p => postedFailed s x p 3) s

/-- A connection goes down: its route bit is cleared and nothing is carried over (R262, R266). A collective uses every
connection to its members. -/
def connDown (s : State) (sub pkg : Nat) : State :=
  if !(conn s sub pkg).up then setRf s (.peerRoute pkg) sub 1 0
  else
    let s := setConn (setRf s (.peerRoute pkg) sub 1 0) sub pkg Conn.reset
    let s := report (bump s .peerDownCnt) 0x28 1 (srcOf 6 sub) none 4 pkg 0
    let s := failColls s (collsWith s (· == pkg))
    (List.range 64).foldl (postsLost sub pkg) ((List.range 64).foldl (readsLost sub pkg) s)

/-- Every sub-port goes down, and every route with it (R285, R286). -/
def portsDown (s : State) : State :=
  let s := s.conns.foldl (fun s c => connDown s (c.1 / 64) (c.1 % 64)) s
  let s := (List.range 64).foldl (fun s p => setReg s (.peerRoute p) 0) s
  setRf { s with pauses := [] } .peerStat 0 8 0

/-! ## Sequence, acknowledgement, retry (R265, R271) -/

/-- One sequence number comes before another, within half of their 24 bits. -/
def numBefore (a b : Nat) : Bool :=
  let d := (b + 2 ^ 24 - a % 2 ^ 24) % 2 ^ 24
  decide (1 ≤ d) && decide (d < 2 ^ 23)

/-- A cumulative acknowledgement: every sent frame before the number is dropped. -/
def acked (s : State) (sub pkg n : Nat) : State :=
  let c := conn s sub pkg
  setConn s sub pkg { c with unacked := c.unacked.filter fun g => !numBefore g.seq n }

/-- For the first discarded frame after an accepted one, a negative acknowledgement, whose ACK is the expected number. -/
def nakOnce (s : State) (sub pkg : Nat) : State :=
  let c := conn s sub pkg
  if !c.up || c.naked then s else sendControl (setConn s sub pkg { c with naked := true }) sub pkg 6 []

/-- The credits of a frame are returned with the acknowledgement: a byte of lines for each channel. -/
def sendCredit (s : State) (sub pkg vc lines : Nat) : State :=
  sendControl s sub pkg 5 ((List.range 5).map fun v => BitVec.ofNat 8 (if v = vc then lines + 1 else 0))

/-- A sequenced frame of a channel arrives: discarded (R265, R271), or accepted, acknowledged and acted on. One for another
package, or whose CRC fails, is counted whether its connection is up or not. -/
def accepted (s : State) (f : Frame) (vc : Nat) (act : State → State) : State :=
  let sub := f.subport.val
  let pkg := f.src.val
  let c := conn s sub pkg
  if !subUp s sub then s
  else if f.dst.val ≠ ownPkg s then bump s .peerCrcCnt
  else if !f.crcOk then nakOnce (bump s .peerCrcCnt) sub pkg
  else if !c.up then s
  else if f.version != 1 || f.seq.toNat != c.rxSeq then nakOnce s sub pkg
  else
    let s := setConn s sub pkg { c with rxSeq := (c.rxSeq + 1) % 2 ^ 24, naked := false }
    settle (act (sendCredit (acked s sub pkg f.ack.toNat) sub pkg vc (ceilDiv f.payload.length 64)))

/-- A frame outside the sequence (credit, negative acknowledgement): the connection must be up. -/
def control (s : State) (f : Frame) (act : State → State) : State :=
  let sub := f.subport.val
  if !subUp s sub then s
  else if f.dst.val ≠ ownPkg s || !f.crcOk then bump s .peerCrcCnt
  else if f.version != 1 || !(conn s sub f.src.val).up then s
  else settle (act (acked s sub f.src.val f.ack.toNat))

/-- Retransmit one frame; one on a paused priority waits (R264, R265). -/
def resend (sub pkg : Nat) (s : State) (f : Sent) : State :=
  if paused s sub f.vc then s
  else
    let c := conn s sub pkg
    let s := setConn s sub pkg { c with unacked := c.unacked.map fun g => if g.seq = f.seq then { g with tries := g.tries + 1 } else g }
    transmit (bump s .peerRetryCnt) sub pkg f

/-- Retransmit from the oldest unacknowledged frame; after MAX retransmissions the connection goes down (R265). -/
def retransmit (s : State) (sub pkg : Nat) : State :=
  let sent := (conn s sub pkg).unacked
  match sent with
  | [] => s
  | f :: _ => if rf s .peerRetry 16 5 < f.tries then connDown s sub pkg else sent.foldl (resend sub pkg) s

/-! ## Remote access (R267, R268, R270) -/

/-- The target's checks of an access of a package to a context's bytes. -/
def remoteOk (s : State) (f : Frame) (write : Bool) (len : Nat) : Bool :=
  let x := f.ctx.val
  let a := f.addr.toNat
  len != 0 && ctxEnabled s x && bitOf (reg s (.peerCxAllow x)) f.src.val && (inSram a || inHbm a)
    && !extentOutside s x (ext write a len)

/-- A mask of the poisoned lines of an extent. -/
def poisonMask (s : State) (a lines : Nat) : Nat :=
  (List.range lines).foldl (fun n i => if poisoned s (a + 64 * i) then setBit n i true else n) 0

/-- Perform a read, and answer with the data in frames of as many lines as they may carry, or with none where the checks fail
(R260, R267). -/
def serveRead (s : State) (f : Frame) : State :=
  let n := min f.lines 64
  if remoteOk s f false (64 * n) then
    let s := touchExtent s f.addr.toNat (64 * n)
    (List.range (ceilDiv n (maxLines s))).foldl (fun s i =>
      let a := f.addr.toNat + 64 * maxLines s * i
      let k := min (maxLines s) (n - maxLines s * i)
      sendFrame s f.subport.val f.src.val 1 2 a f.ctx.val f.tag.toNat (poisonMask s a k) (readBytes s a (64 * k))) s
  else sendFrame s f.subport.val f.src.val 1 2 f.addr.toNat f.ctx.val f.tag.toNat 0 []

/-- Answer a posted write: an acknowledgement, or a failure with its cause. -/
def answerWrite (s : State) (f : Frame) (cause : Option Nat) : State :=
  match cause with
  | none => sendFrame s f.subport.val f.src.val 1 3 f.addr.toNat f.ctx.val f.tag.toNat 0 []
  | some c => sendFrame s f.subport.val f.src.val 1 4 f.addr.toNat f.ctx.val f.tag.toNat 0 (padLines (leBytes 1 c))

/-- Perform a posted write; a poisoned line is marked and written. -/
def serveWrite (s : State) (f : Frame) : State :=
  let a := f.addr.toNat
  let n := f.payload.length
  if !remoteOk s f true n then answerWrite s f (some 0)
  else match backPages s f.ctx.val (writePages s [ext true a n]) with
    | none => answerWrite s f (some 0)
    | some s =>
      let cells := (List.range n).map fun i => (a + i, f.payload.getD i 0)
      let r := storeCells (countBad s (popCount f.poison.toNat (min 64 ((n + 63) / 64)))) cells ((setBits f.poison.toNat 64).map fun i => a / 64 + i)
      answerWrite r.1 f (if r.2 then some 1 else none)

/-- READ. -/
def execRead (f : Frame) (s : State) : Host.Outcome State Fault Refusal := .next (accepted s f 0 fun s => serveRead s f)

/-- POSTED_WRITE. -/
def execPostedWrite (f : Frame) (s : State) : Host.Outcome State Fault Refusal := .next (accepted s f 0 fun s => serveWrite s f)

/-- A command that has all the data it asked peers for goes on. -/
def readsDone (s : State) (o : OutCmd) : State :=
  if (ctx s o.ctx).reads.any fun r => r.ident == o.ident then s
  else if o.d.cls = 0 then copyNow s o else collFetched s o

/-- Read data for an outstanding read; with the failure, the command completes BOUNDS. -/
def takeData (s : State) (f : Frame) (failed : Bool) : State :=
  let x := f.ctx.val
  match (ctx s x).reads.find? fun r => r.pkg == f.src.val && r.tag == f.tag.toNat with
  | none => s
  | some r =>
    let s := modCtx s x fun c => { c with reads := c.reads.filter fun q => q.tag != r.tag }
    match findOut s r.ident with
    | none => s
    | some o =>
      if failed then endCommand s o stBounds
      else
        let got := (List.range r.len).foldl (fun m i => smSet 0 m (r.addr + i) (f.payload.getD i 0)) o.got
        let bad := f.poison.toNat.testBit 0
        let o := { o with got := got, gotBad := if bad then o.gotBad ++ [r.addr / 64] else o.gotBad }
        let s := if bad then countBad s 1 else s
        readsDone (putOut s o) o

/-- READ_DATA. -/
def execReadData (f : Frame) (failed : Bool) (s : State) : Host.Outcome State Fault Refusal :=
  .next (accepted s f 1 fun s => takeData s f failed)

/-- The oldest posted write that an answer is for. -/
def postFor (s : State) (f : Frame) : Option Posted :=
  (ctx s f.ctx.val).posted.find? fun p => p.pkg == f.src.val && p.subport == f.subport.val && p.tag == f.tag.toNat

def dropPost (s : State) (x : Nat) (p : Posted) : State :=
  modCtx s x fun c => { c with posted := c.posted.filter fun q => q.stamp != p.stamp }

/-- WRITE_ACKNOWLEDGE. -/
def execWriteAcknowledge (f : Frame) (s : State) : Host.Outcome State Fault Refusal :=
  .next (accepted s f 1 fun s => match postFor s f with
    | some p => dropPost s f.ctx.val p
    | none => s)

/-- The COLL in progress whose data a failure is for: of the context, with that tag, and the package one of its members (R284). -/
def collFor (s : State) (f : Frame) : Option OutCmd :=
  s.outs.find? fun o => clMatched o.d && collBegun o && o.ctx == f.ctx.val && o.d.tag == f.tag.toNat && (clMembers s o.d).contains f.src.val

/-- WRITE_FAILURE: of a posted write, of data of a COLL, or of neither, which is discarded and counted (R268, R270, R284). -/
def execWriteFailure (f : Frame) (cause : BitVec 4) (s : State) : Host.Outcome State Fault Refusal :=
  .next (accepted s f 1 fun s => match postFor s f with
    | some p => postedFailed (dropPost s f.ctx.val p) f.ctx.val p cause.toNat
    | none => match collFor s f with
      | some o => collFailed s o
      | none => bump s .peerOrphanCnt)

/-- CREDIT_AND_ACKNOWLEDGE: credits per channel. -/
def execCreditAndAcknowledge (f : Frame) (credits : List Nat) (s : State) : Host.Outcome State Fault Refusal :=
  .next (control s f fun s =>
    let sub := f.subport.val
    let pkg := f.src.val
    let c := conn s sub pkg
    let s := setConn s sub pkg { c with credits := (List.range 5).map fun v => c.credits.getD v 0 + credits.getD v 0 }
    pumpConn s sub pkg)

/-- NEGATIVE_ACKNOWLEDGE. -/
def execNegativeAcknowledge (f : Frame) (s : State) : Host.Outcome State Fault Refusal :=
  .next (control s f fun s => retransmit s f.subport.val f.src.val)

/-- RETRY_TIMEOUT. -/
def execRetryTimeout (subport : Fin 8) (pkg : Fin 64) (s : State) : Host.Outcome State Fault Refusal :=
  .next (if (conn s subport.val pkg.val).up then settle (retransmit s subport.val pkg.val) else s)

/-- FRAME_DISCARDED, for the reason that the receiver found (R265, R271). -/
def execFrameDiscarded (f : Frame) (why : Discard) (s : State) : Host.Outcome State Fault Refusal :=
  let sub := f.subport.val
  .next (if !subUp s sub then s
    else match why with
      | .foreign => bump s .peerCrcCnt
      | .crc => nakOnce (bump s .peerCrcCnt) sub f.src.val
      | .version | .seq => nakOnce s sub f.src.val)

/-! ## Hellos (R262) -/

/-- A MAC address as a number, its first octet highest, is one of this package's (R261). -/
def ownMac (s : State) (mac : BitVec 48) : Bool :=
  (List.range 8).any fun i => leNat (macOf (ownDomain s) (ownPkg s) i).reverse == mac.toNat

/-- A hello of this domain, from a package's sub-port `peer`: this package's own id from another MAC is reported; another
package gains its route bit, and its connection comes up with both numbers at 0. -/
def helloFrom (s : State) (sub pkg peer : Nat) (mac : BitVec 48) : State :=
  if pkg = ownPkg s then (if ownMac s mac then s else report s 0x29 1 (srcOf 6 sub) none 0 pkg 0)
  else
    let s := setRf s (.peerRoute pkg) sub 1 1
    if (conn s sub pkg).up then s else setConn s sub pkg { Conn.reset with up := true, peerSub := peer }

/-- HELLO. -/
def execHello (f : Frame) (domain : Byte) (sender : HelloFrom) (s : State) : Host.Outcome State Fault Refusal :=
  let sub := f.subport.val
  .next (if !subUp s sub then s
    else if !f.crcOk then bump s .peerCrcCnt
    else if f.version != 1 || domain.toNat != ownDomain s then s
    else helloFrom s sub f.src.val sender.sub.val sender.mac)

/-- The hello of a sub-port, to the broadcast address (R262). -/
def sendHelloOn (s : State) (sub : Nat) : State :=
  let body := padLines ([ownDomain s, ownPkg s, sub].map (BitVec.ofNat 8))
  emit s (.frame sub (frameOctets s sub 0 0 (List.replicate 6 0xFF) ⟨0, 4, 7, 0, 0, 0, 0, 0, body⟩))

/-- SEND_HELLO. -/
def execSendHello (s : State) : Host.Outcome State Fault Refusal := .next (((List.range 8).filter (subUp s)).foldl sendHelloOn s)

/-- MISSED_HELLOS. -/
def execMissedHellos (subport : Fin 8) (pkg : Fin 64) (s : State) : Host.Outcome State Fault Refusal :=
  .next (settle (connDown s subport.val pkg.val))

/-- PAUSE_FRAME: obeyed for its priority until one with zero quanta (R264). -/
def execPauseFrame (subport : Fin 8) (priority : Fin 8) (quanta : BitVec 16) (s : State) : Host.Outcome State Fault Refusal :=
  let sub := subport.val
  .next (if !subUp s sub then s
    else
      let s := { s with pauses := smSet 0 s.pauses (sub * 8 + priority.val) quanta.toNat }
      if quanta.toNat ≠ 0 then s
      else (s.conns.filter fun c => c.1 / 64 == sub && c.2.up).foldl (fun s c => pumpConn s sub (c.1 % 64)) s)

/-- POSTED_WRITE_TIMEOUT of the oldest posted write with a tag (R268). -/
def execPostedWriteTimeout (ctx : Fin 64) (tag : Word32) (s : State) : Host.Outcome State Fault Refusal :=
  .next (match (Machine.ctx s ctx.val).posted.find? fun p => p.tag == tag.toNat with
    | some p => settle (postedFailed (dropPost s ctx.val p) ctx.val p 4)
    | none => s)

/-! ## Collectives (R276, R277, R284) -/

/-- The member's checks of arriving data of a COLL (R267, R273): its own context, which owns the group, allows the package. -/
def collAllowed (s : State) (f : Frame) (g : Nat) : Bool :=
  ctxEnabled s f.ctx.val && grpOpen s f.ctx.val g && bitOf (reg s (.peerCxAllow f.ctx.val)) f.src.val

/-- The poisoned lines that a part brings; none for a handshake. -/
def bodyBad : CollBody → Option (List Nat)
  | .shake _ => none
  | .data _ bad _ | .block _ bad _ => some bad

/-- COLLECTIVE: a handshake, or data of a COLL, from a member of the group; data that the checks refuse is answered as a refused
write (R267, R276). -/
def execCollective (f : Frame) (part : CollPart) (s : State) : Host.Outcome State Fault Refusal :=
  let g := part.group.val
  .next (accepted s f (if (bodyBad part.body).isNone then 4 else 0) fun s =>
    if !(grpMembers s g).contains f.src.val || f.src.val = ownPkg s then s
    else match bodyBad part.body with
      | none => collArrives s f.src.val part
      | some bad => if collAllowed s f g then collArrives (countBad s bad.length) f.src.val part else answerWrite s f (some 0))

/-- The COLL of a group that has been read, has not ended and has a number. -/
def collNumbered (s : State) (g n : Nat) : Option OutCmd :=
  s.outs.find? fun o => clMatched o.d && clGroup o.d == g && o.seqNo == n

/-- An abandon notice fails the COLL of its number at once, or is kept for one that is still to be read (R277, R284). -/
def heardAbandon (s : State) (g n : Nat) : State :=
  match collNumbered s g n with
  | some o => collFailed s o
  | none =>
    if cnt32 n (smGet 0 s.grpSeq g) < 2 ^ 31 && !s.abandoned.contains (g, n) then { s with abandoned := s.abandoned ++ [(g, n)] } else s

/-- ABANDON_NOTICE of a member. -/
def execAbandonNotice (f : Frame) (group : Fin 64) (seqNo : Word32) (s : State) : Host.Outcome State Fault Refusal :=
  .next (accepted s f 4 fun s =>
    if (grpMembers s group.val).contains f.src.val && f.src.val != ownPkg s then heardAbandon s group.val seqNo.toNat else s)

/-- STEP_VERDICT: a member's verdict arrives over the management channel (R222). -/
def execStepVerdict (f : Frame) (group : Fin 64) (counter : Word) (finite : Bool) (s : State) : Host.Outcome State Fault Refusal :=
  .next (accepted s f 4 fun s =>
    if (grpMembers s group.val).contains f.src.val && f.src.val != ownPkg s then verdictArrives s group.val f.src.val counter finite else s)

/-- FAULT_REPORT: a report of another package reaches the package aggregator with unit kind 10 (R264, R356). -/
def execFaultReport (f : Frame) (code : Byte) (sev : BitVec 2) (info : BitVec 48) (s : State) : Host.Outcome State Fault Refusal :=
  .next (accepted s f 3 fun s => report s code.toNat sev.toNat (srcOf 10 f.src.val) none 0 info.toNat 0)

/-- COLLECTIVE_TIMEOUT. -/
def execCollectiveTimeout (ctx : Fin 64) (group : Fin 64) (s : State) : Host.Outcome State Fault Refusal :=
  .next (settle (failColls s ((s.outs.filter fun o => o.ctx == ctx.val && clMatched o.d && clGroup o.d == group.val
    && collBegun o).map fun o => o.ident)))

end Sys2Proof.Machine
end

