-- ==== Sys2Proof/Machine/Tier.lean ====
section
/-! DEFINITION. Events of the memory tiers: scripts and ember tables, staged slabs, moves, placement, imbalance, failures,
spill and bring-back (R132 to R135, R144 to R146, R150, R151, R156, R160 to R165, R168, R169). -/

namespace Sys2Proof.Machine

/-! ## Scripts (R163, R164) -/

/-- A write of TIER_CX_SCRIPT: the cursor starts at entry 0; a context that is not enabled issues nothing yet. -/
def scriptWrite (s : State) (x : Nat) (v : Word) : State :=
  let v := if fld v 48 4 = 0 then setFld v 48 4 1 else v
  let s := setReg s (.tierCxScript x) v
  if ctxEnabled s x then settle (startScript s x)
  else modCtx s x fun c => { c with cursor := 0, issued := 0, stage := [] }

/-- A slab of a STAGE lands: its bytes and poison marks, read from the source's home. -/
def landSlab (s : State) (src dst : Nat) : State :=
  let a := resolve s dst
  let s' := { s with mem := smFill 0 s.mem (fun k => readByte s (src + (k - a))) a slabBytes
                     poison := smFill false s.poison (fun l => poisoned s (src + (l * 64 - a))) (a / 64) 1024 }
  touchExtent (slabWritten s' (a / slabBytes)) src slabBytes

/-- The slab's ready bit sets. -/
def stageReady (s : State) (x dst : Nat) : State :=
  match (ctx s x).stage.find? fun t => t.dst == dst && !t.failed with
  | some t => modCtx (landSlab s t.src t.dst) x fun c => { c with stage := c.stage.filter fun u => u.dst != dst }
  | none => s

/-- STAGE_SLAB_READY (R165). -/
def execStageSlabReady (ctx : Fin 64) (slab : Addr) (s : State) : Host.Outcome State Fault Refusal :=
  .next (settle (stageReady s ctx.val slab.toNat))

/-! ## Ember tables (R160) -/

/-- The 128 bits of entry i of a table. -/
def emberBits (s : State) (table i : Nat) : Nat := readLe s (table + 16 * i) 16

/-- The object that an entry names. -/
def emberOf (n : Nat) : EmberObj :=
  { addr := bitsAt n 0 48, slabs := bitsAt n 48 9, adapter := if n.testBit 57 then some (bitsAt n 64 16) else none
    home := none, moving := false, written := false, used := 0 }

/-- The extent overlaps the state extent of a registered adapter (R256). -/
def meetsState (s : State) (e : Ext) : Bool :=
  s.adapters.any fun p => p.2.state != .free && ((adpState s p.2).resolved s).meets (e.resolved s)

/-- Why an entry is refused, if it is: 0 overlap, 1 too large, 2 out of bounds (DEDUCED, log entry 39). -/
def emberFault (s : State) (x : Nat) (before : List EmberObj) (n : Nat) : Option Nat :=
  let o := emberOf n
  if o.slabs = 0 ∨ 384 < o.slabs ∨ 24 * (emberWays s x).length < o.slabs then some 1
  else if bitsAt n 58 6 ≠ 0 ∨ bitsAt n 80 48 ≠ 0 ∨ o.addr % slabBytes ≠ 0 ∨ !inHbm (resolve s o.addr) ∨ extentOutside s x o.ext then some 2
  else if meetsState s o.ext || before.any (·.touches s o.ext) then some 0
  else none

/-- Read a table: its objects, or the index of the entry that fails and why. -/
def readEmbers (s : State) (x table : Nat) : List Nat → List EmberObj → Except (Nat × Nat) (List EmberObj)
  | [], os => .ok os
  | i :: is, os =>
    let n := emberBits s table i
    match emberFault s x os n with
    | some r => .error (i, r)
    | none => readEmbers s x table is (os ++ [emberOf n])

/-- The table as a write of the register names it; pages that cannot be backed refuse it as too large. -/
def emberTable (s : State) (x : Nat) (v : Word) : Except (Nat × Nat) (List EmberObj × State) :=
  let a := fld v 0 48
  let n := fld v 48 13
  if n ≠ 0 ∧ extentOutside s x (ext false a (16 * n)) then .error (0, 2)
  else match readEmbers s x a (List.range n) [] with
    | .error e => .error e
    | .ok os =>
      match backPages s x (dedup (os.flatMap fun o => pagesOf s o.addr (o.slabs * slabBytes))) with
      | none => .error (0, 1)
      | some s => .ok (os, s)

/-- An object keeps its residence when the new table names the same extent. -/
def keepEmber (old : List EmberObj) (o : EmberObj) : EmberObj :=
  match old.find? fun b => b.addr == o.addr && b.slabs == o.slabs with
  | some b => { b with adapter := o.adapter }
  | none => o

/-- Objects that the new table does not name leave the ember set. -/
def dropEmbers (s : State) (x : Nat) (os : List EmberObj) : State :=
  ((ctx s x).embers.filter fun b => !os.any fun o => o.addr == b.addr && o.slabs == b.slabs).foldl (fun s b => emberOut s x b) s

/-- A write of TIER_CX_EMBER: the table is read; one that fails leaves the old one in force. -/
def emberWrite (s : State) (x : Nat) (v : Word) : State :=
  if 4096 < fld v 48 13 then s
  else match emberTable s x v with
    | .error e => writeEvent s x ⟨0x06, none, none, 0, e.1 % 4096 + e.2 * 2 ^ 12⟩
    | .ok (os, s) =>
      let s := setReg (dropEmbers s x os) (.tierCxEmber x) v
      settle (modCtx s x fun c => { c with embers := os.map (keepEmber c.embers) })

/-! ## Moves (R144, R146, R161) -/

/-- The two pages of an exchange, the one in HBM first. -/
def exchangeOf (s : State) (p : Nat) : Option (Nat × Nat) :=
  let e := tierAt s p
  if e.state = 1 then e.partner.map fun q => if e.ddr then (q, p) else (p, q) else none

/-- A page that has settled is unbacked when RELEASE asked for it (R179). -/
def honourRelease (s : State) (p : Nat) : State := if (tierAt s p).release then unbackPage s p else s

/-- The exchange fails: both pages stay in their old frames, settled (R169). Slabs that had moved are back: in HBM no slab is
coded, and those of the DDR frame are coded again. -/
def failExchange (s : State) (up down : Nat) : State :=
  let s := setTier s up { tierAt s up with state := 0, partner := none, moved := 0, coded := 0 }
  let s := setTier s down { tierAt s down with state := 0, partner := none, moved := 0, coded := recode s down (tierAt s down).planes }
  honourRelease (honourRelease s up) down

/-- Every slab of both pages has moved: the frames have changed places. -/
def finishExchange (s : State) (up down : Nat) : State :=
  let a := tierAt s up
  let b := tierAt s down
  let s := setTier s up { a with frame := b.frame, ddr := true, state := 0, partner := none, moved := 0 }
  let s := setTier s down { b with frame := a.frame, ddr := false, state := 0, partner := none, moved := 0 }
  honourRelease (honourRelease (bump s (.tierCxExch a.owner)) up) down

/-- A slab of page `p` stands in the frame of its exchange's other page: coded in DDR, raw in HBM (R146, R152). -/
def slabLands (s : State) (p slab : Nat) (ddr : Bool) : State :=
  let e := tierAt s p
  setTier s p { e with moved := BitVec.ofNat 32 (setBit e.moved.toNat slab true)
                       coded := BitVec.ofNat 32 (setBit e.coded.toNat slab (ddr && slabCodes s e.planes (p * 32 + slab))) }

def allMoved : BitVec 32 := BitVec.allOnes 32

/-- One slab of a page of an exchange has moved; a DDR frame's slab is written under its next counter (R402), and an
exhausted frame fails the exchange (R403). -/
def moveSlab (s : State) (p slab : Nat) : State :=
  match exchangeOf s p with
  | none => s
  | some (up, down) =>
    let f := (tierAt s down).frame
    if (tierAt s p).moved.toNat.testBit slab then s
    else if p = up ∧ smGet 0 s.ddrCtr f = 2 ^ 56 - 1 then
      let x := (tierAt s p).owner
      tierFailed (failExchange s up down) x (tierSource s (down * pageBytes)) (p * pageBytes + slab * slabBytes)
        (tierSource s (down * pageBytes)) 0
    else
      let s := slabLands (if p = up then countFrame s f 1 else s) p slab (p == up)
      if (tierAt s up).moved = allMoved ∧ (tierAt s down).moved = allMoved then finishExchange s up down else s

/-- The ember object whose move-in ends with a slab, and its context. -/
def emberEnding (s : State) (a : Nat) : Option (Nat × EmberObj) :=
  (s.ctxs.flatMap fun c => (c.2.embers.filter fun o => o.moving && resolve s o.addr + (o.slabs - 1) * slabBytes == a).map fun o => (c.1, o)).head?

/-- A slab's move has ended: of an exchange, or of an ember object moving in, which its last slab completes. -/
def slabMoved (s : State) (page slab : Nat) : State :=
  match emberEnding s (page * pageBytes + slab * slabBytes) with
  | some (x, o) => emberIn s x o
  | none => moveSlab s page slab

/-- SLAB_MOVE_DONE. -/
def execSlabMoveDone (page : Nat) (slab : Fin 32) (s : State) : Host.Outcome State Fault Refusal :=
  .next (settle (slabMoved s page slab.val))

/-! ## Placement (R150) -/

/-- Pages of a context by heat: the hottest in DDR frames with the coldest in HBM frames; ties to the lower address. -/
def heatPairs (s : State) (x : Nat) : List (Nat × Nat) :=
  let heat (p : Nat) : Nat := (tierAt s p).heat
  (sortBy (fun a b => decide (heat b ≤ heat a)) (movable s x true)).zip
    (sortBy (fun a b => decide (heat a ≤ heat b)) (movable s x false))

/-- The pair's difference in heat qualifies. -/
def pairQualifies (s : State) (pq : Nat × Nat) : Bool :=
  decide ((tierAt s pq.2).heat + rf s .tierPlaceCtl 16 8 ≤ (tierAt s pq.1).heat)

def heatGap (s : State) (pq : Nat × Nat) : Nat := (tierAt s pq.1).heat - (tierAt s pq.2).heat

/-- The exchanges that placement starts: within each context until no pair qualifies, the largest differences first. -/
def placementPairs (s : State) : List (Nat × Nat) :=
  let all := (List.range 64).flatMap fun x => (heatPairs s x).takeWhile (pairQualifies s)
  (sortBy (fun a b => decide (heatGap s b < heatGap s a) || (heatGap s a == heatGap s b && decide (a.1 ≤ b.1))) all).take
    (rf s .tierPlaceCtl 24 8)

/-- Every HEAT is halved. -/
def coolPages (s : State) : State :=
  { s with tier := s.tier.map fun p => (p.1, { p.2 with heat := p.2.heat / 2 }) }

/-- A placement epoch ends: TIER_CTL takes effect, heat is halved, exchanges start. -/
def epochEnds (s : State) : State :=
  let s := coolPages { s with tierCtl := reg s .tierCtl }
  if bitOf s.tierCtl 1 then (placementPairs s).foldl (fun s pq => startExchange s pq.1 pq.2) s else s

/-- PLACEMENT_EPOCH. -/
def execPlacementEpoch (s : State) : Host.Outcome State Fault Refusal := .next (epochEnds s)

/-! ## Imbalance (R156) -/

/-- Windows of a period: 1 ms each. -/
def imbalanceWindows (s : State) : Nat := rf s .tierImbCtl 8 8 * 1000

/-- Judge one channel of a window: above RATIO times the mean of the set. -/
def judgeChannel (x : Nat) (total n : Nat) (s : State) (cb : Nat × Nat) : State :=
  let k := smGet 0 (ctx s x).imb cb.1 + 1
  let set (s : State) (v : Nat) : State := modCtx s x fun c => { c with imb := smSet 0 c.imb cb.1 v }
  if rf s .tierImbCtl 0 4 * total < cb.2 * n then
    if imbalanceWindows s ≤ k then
      writeEvent (set s 0) x ⟨0x05, none, none, 0, cb.1 % 256 + cb.2 * 1000000 / total % 2 ^ 20 * 2 ^ 8⟩
    else set s k
  else set s 0

/-- IMBALANCE_WINDOW: the bytes on each channel of the set, ascending. -/
def execImbalanceWindow (ctx : Fin 64) (bytes : List Nat) (s : State) : Host.Outcome State Fault Refusal :=
  let cs := setChannels s ctx.val
  .next (if ctxEnabled s ctx.val && bytes.length == cs.length then
      (cs.zip bytes).foldl (judgeChannel ctx.val (bytes.foldl (· + ·) 0) cs.length) s
    else s)

/-! ## Failed requests (R168, R169) -/

/-- The oldest command of a ring that moves data and has not ended. -/
def oldestMoving (s : State) (x n : Nat) : Option OutCmd :=
  s.outs.find? fun o => o.ctx == x && o.ring == n && decide (o.d.cls ≤ 4)
    && (o.st == .queued || o.st.begun)

/-- The command reads or writes the byte at an address. -/
def touchesByte (s : State) (o : OutCmd) (a : Nat) : Bool :=
  (operandExts s o).any fun e => e.pieces.any fun p => decide (p.1 ≤ a) && decide (a < p.1 + p.2)

/-- A command's request for an address fails. -/
def commandFails (s : State) (x n a : Nat) : State :=
  match oldestMoving s x n with
  | some o => if touchesByte s o a then endCommand (requestFails s x a (cmdRef o)) o stTierFail else s
  | none => s

/-- Queued commands of any context whose turn it is, that something holds. -/
def heldBy (s : State) (hold : OutCmd → Bool) : List Nat :=
  (s.outs.filter fun o => o.st == .queued && !orderHolds s o && hold o).map fun o => o.ident

/-- A STAGE slab fails: it stays not ready, and the commands held on it complete TIER_FAIL. -/
def stageFails (s : State) (x dst : Nat) : State :=
  match (ctx s x).stage.find? fun t => t.dst == dst && !t.failed with
  | none => s
  | some t =>
    let s := modCtx (requestFails s x t.src 0) x fun c =>
      { c with stage := c.stage.map fun u => if u.dst = dst then { u with failed := true } else u }
    endAll s stTierFail (heldBy s fun o => (stageHeld s (operandExts s o)).any fun u => u.dst == dst)

/-- A command that no longer waits for an ember object starts where it stands. -/
def startHere (s : State) (i : Nat) : State :=
  match findOut s i with
  | none => s
  | some o => if dataHolds s o then s
      else match checkCmd s o with
        | some v => refuseCmd s o v
        | none => startCmd (runOp o.op) s o

/-- An ember move-in fails: the object stays in HBM, and the commands held on it read it there. -/
def emberInFails (s : State) (x a : Nat) : State :=
  match (ctx s x).embers.find? fun o => o.addr == a && o.moving with
  | none => s
  | some o =>
    let waiting := heldBy s fun q => (embersMoving s (operandExts s q)).any fun e => e.1 == x && e.2.addr == a
    let s := requestFails (modEmber s x a fun o => { o with moving := false, home := none }) x o.addr 0
    waiting.foldl startHere s

/-- An ember move-out write-back fails: the object stays resident. -/
def emberOutFails (s : State) (x a : Nat) : State :=
  if (ctx s x).embers.any fun o => o.addr == a && o.resident && o.written then requestFails s x a 0 else s

/-- An exchange fails. -/
def exchangeFails (s : State) (p : Nat) : State :=
  match exchangeOf s p with
  | none => s
  | some (up, down) => requestFails (failExchange s up down) (tierAt s p).owner (p * pageBytes) 0

/-- A spill or a bring-back of a page of a DDR pool fails: the page stays where it is (R132, R133). -/
def spillFails (s : State) (x a : Nat) : State :=
  if (ctx s x).pools.any fun p => decide (p.ddr ≤ a) && decide (a < p.ddr + p.ddrLen) then requestFails s x a 0 else s

/-- A BAR4 access at a device address fails: a read is answered Unsupported Request and a write is dropped, and a record of
the tier is raised (R290). -/
def bar4Fails (s : State) (a : Nat) (write : Bool) : State :=
  let s := bump s .hifBar4ErrCnt
  report (if write then s else emit s (.barRead none false)) 0x30 1 (tierSource s a) none 4 a 0

/-- A posted write of another package passes the checks and its home fails: nothing is written, and the failure is answered
(R169, R268). -/
def peerWriteFails (s : State) (f : Frame) : State :=
  accepted s f 0 fun s =>
    if remoteOk s f true f.payload.length then answerWrite (requestFails s f.ctx.val f.addr.toNat 0) f (some 1)
    else answerWrite s f (some 0)

/-- What a failed request ends. -/
def tierFails (s : State) (x : Nat) : TierRequest → State
  | .command n a => commandFails s x n.val a.toNat
  | .stage a => stageFails s x a.toNat
  | .exchange p => exchangeFails s p
  | .emberIn a => emberInFails s x a.toNat
  | .emberOut a => emberOutFails s x a.toNat
  | .spill a => spillFails s x a.toNat
  | .bar4 offset write => if barOpen s && bar4Present s then bar4Fails s (bar4Addr s offset) write else s
  | .peerWrite f => peerWriteFails s f

/-- TIER_TIMEOUT: nothing came within TIER_TIMEOUT, or the tier reports that it cannot perform the request. -/
def execTierTimeout (ctx : Fin 64) (req : TierRequest) (s : State) : Host.Outcome State Fault Refusal :=
  .next (settle (tierFails s ctx.val req))

/-! ## Caches between boundaries (R133, R134) -/

/-- BACKGROUND_SPILL. -/
def execBackgroundSpill (ctx : Fin 64) (s : State) : Host.Outcome State Fault Refusal :=
  .next (if ctxEnabled s ctx.val then settle (backgroundSpillNow s ctx.val) else s)

/-- BRING_BACK; `undecodable` are coded slabs that fail to decode (R153). -/
def execBringBack (ctx : Fin 64) (undecodable : List Addr) (s : State) : Host.Outcome State Fault Refusal :=
  .next (if ctxEnabled s ctx.val then settle (bringBackNow s ctx.val (undecodable.map BitVec.toNat)) else s)

end Sys2Proof.Machine
end

