-- ==== Sys2Proof/Machine/Settings.lean ====
section
/-! DEFINITION. The settings flash: slots, their validity and choice, the entries other than presets, and the update
(R385, R432 to R437). -/

namespace Sys2Proof.Machine

/-! ## Slots (R433, R435) -/

/-- The first `n` bytes of a slot; erased flash reads 0xFF. -/
def slotBytes (slot : List Byte) (n : Nat) : List Byte := (List.range n).map fun i => slot.getD i 0xFF

def slotHeader (slot : List Byte) : Nat := leNat (slotBytes slot 64)
def hdrMagic (h : Nat) : Nat := bitsAt h 0 32
def hdrFormat (h : Nat) : Nat := bitsAt h 32 16
def hdrLevel (h : Nat) : Nat := bitsAt h 48 8
def hdrBody (h : Nat) : Nat := bitsAt h 64 32
def hdrSeq (h : Nat) : Nat := bitsAt h 96 32
def hdrCrc (h : Nat) : Nat := bitsAt h 128 32
def hdrSigned (h : Nat) : Bool := h.testBit 160

/-- The largest body of a slot. -/
def maxBody : Nat := 4 * 2 ^ 20 - 160

/-- Header, body and signature of a slot. -/
def slotImage (slot : List Byte) : List Byte :=
  let h := slotHeader slot
  slotBytes slot (64 + hdrBody h + (if hdrSigned h then 96 else 0))

/-- One 16-byte entry of the body as a number. -/
def slotEntry (slot : List Byte) (i : Nat) : Nat := leNat ((List.range 16).map fun k => slot.getD (64 + 16 * i + k) 0xFF)

def slotEntries (slot : List Byte) : List Nat := (List.range (hdrBody (slotHeader slot) / 16)).map (slotEntry slot)

/-- The reserved bits of an entry of a known KIND are 0. -/
def entryReservedOk (e : Nat) : Bool :=
  match bitsAt e 0 8 with
  | 0x01 => bitsAt e 32 32 == 0
  | 0x02 => bitsAt e 14 2 == 0 && bitsAt e 24 8 == 0 && bitsAt e 64 64 == 0
  | 0x03 => bitsAt e 32 96 == 0
  | 0x04 => bitsAt e 20 108 == 0
  | _ => true

/-- CRC-32C over the header with the CRC field zero, and the body. -/
def slotCrcOk (slot : List Byte) : Bool :=
  let h := slotHeader slot
  let bytes := slotBytes slot (64 + hdrBody h)
  leNat (crc32 crc32cPoly (leBytes 64 (putBits h 128 32 0) ++ bytes.drop 64)) == hdrCrc h

/-- The signature, when the board's fuse asks for one (R385). -/
def slotSigned (s : State) (slot : List Byte) : Bool :=
  match s.part.boardKeyHash with
  | none => true
  | some k =>
    let n := 64 + hdrBody (slotHeader slot)
    hdrSigned (slotHeader slot)
      && Config.ecdsaOk k (Config.sha384 (slotBytes slot n)) ((slotBytes slot (n + 96)).drop n)

/-- LEVEL is implemented: the native level, or one from OLDEST to it (R433, R439, R480). -/
def levelOk (s : State) (l : Nat) : Bool :=
  l == 0 || (decide (rf s .idLevel 24 8 ≤ l) && decide (l ≤ rf s .idLevel 8 8))

/-- Everything of R435 but the limit on LENGTH. -/
def slotFormOk (s : State) (slot : List Byte) : Bool :=
  let h := slotHeader slot
  hdrMagic h == 0x58515345 && hdrFormat h == 1 && hdrBody h % 16 == 0 && bitsAt h 56 8 == 0 && bitsAt h 161 351 == 0
    && levelOk s (hdrLevel h)

def slotValid (s : State) (slot : List Byte) : Bool :=
  slotFormOk s slot && decide (hdrBody (slotHeader slot) ≤ maxBody)
    && (slotEntries slot).all entryReservedOk && slotCrcOk slot && slotSigned s slot

/-- `b` is later than `a` under the serial arithmetic of R325 over 32 bits. -/
def seqLater (a b : Nat) : Bool :=
  let d := (b + 2 ^ 32 - a % 2 ^ 32) % 2 ^ 32
  decide (1 ≤ d) && decide (d < 2 ^ 31)

/-- The slot that a boot takes: 0 defaults, 1 A, 2 B. -/
def chooseSlot (s : State) : Nat :=
  let a := slotValid s s.part.flashA
  let b := slotValid s s.part.flashB
  if a && b then (if seqLater (hdrSeq (slotHeader s.part.flashA)) (hdrSeq (slotHeader s.part.flashB)) then 2 else 1)
  else if a then 1
  else if b then 2
  else 0

/-- The bytes of a slot. -/
def slotOf (s : State) (k : Nat) : List Byte := if k = 1 then s.part.flashA else if k = 2 then s.part.flashB else []

/-- The slot in use. -/
def slotInUse (s : State) : Nat := rf s .setStat 0 2

/-- Entries of the slot in use. -/
def bootEntries (s : State) : List Nat := if slotInUse s = 0 then [] else slotEntries (slotOf s (slotInUse s))

/-! ## Entries other than presets (R434) -/

def skipEntry (s : State) : State := bumpBy s .setStat 16 16 1

/-- Apply one entry at the reading of the image; presets wait for stage 10. -/
def applyIdent (s : State) (e : Nat) : State :=
  match bitsAt e 0 8 with
  | 0x01 => s
  | 0x02 => { setRf (setRf s .peerId 0 6 (bitsAt e 8 6)) .peerId 8 8 (bitsAt e 16 8) with
                pcie := { s.pcie with subVendor := bitsAt e 32 16, subSystem := bitsAt e 48 16 } }
  | 0x03 => if 9600 ≤ bitsAt e 8 24 ∧ bitsAt e 8 24 ≤ 3000000 then { s with baud := bitsAt e 8 24 } else skipEntry s
  | 0x04 => { s with part := { s.part with ddrMask := bitsAt e 8 12 } }
  | _ => skipEntry s

/-- What the identity and bring-up entries change, as it stands without any of them; and the slot's digest. -/
def beforeIdent (s : State) (digest : BitVec 384) : State :=
  { s with part := { s.part with ddrMask := 0xFFF, digest := digest }, baud := 115200
           pcie := { s.pcie with subVendor := 0, subSystem := 0 } }

/-- Take a slot into use: its status, its level, its digest and its entries (R389, R435, R439). -/
def useSlot (s : State) (k : Nat) : State :=
  let slot := slotOf s k
  let h := slotHeader slot
  let native := rf s .idLevel 8 8
  let level := if k = 0 ∨ hdrLevel h = 0 then native else hdrLevel h
  let s := setRf (setRf (setRf s .setStat 0 2 k) .setStat 8 8 level) .setStat 16 16 0
  let s := setRf s .setStat 32 1 (if s.part.boardKeyHash.isSome then 1 else 0)
  let s := setRf (setReg s .setSeq (BitVec.ofNat 64 (if k = 0 then 0 else hdrSeq h))) .idLevel 0 8 level
  let s := beforeIdent (setReg s .peerId 0) (if k = 0 then 0 else Config.sha384 (slotImage slot))
  (bootEntries s).foldl applyIdent s

/-- Settings that must be signed, and are not: no context, no peer port (R435). -/
def settingsBar (s : State) : Bool := contextsBarred s

/-! ## The update (R437, R438) -/

/-- The image at SET_UPD_ADDR, as far as its header says that it goes. -/
def updateImage (s : State) : List Byte :=
  let a := rf s .setUpdAddr 0 48
  let h := leNat (readBytes s a 64)
  readBytes s a (64 + min (hdrBody h) maxBody + (if hdrSigned h then 96 else 0))

/-- The slot that an update writes: the one not in use, A when none is. -/
def updateSlot (s : State) : Nat := if slotInUse s = 1 then 2 else 1

/-- What the image lacks, if anything. -/
def updateFault (s : State) (img : List Byte) : Option Nat :=
  let h := slotHeader img
  if !slotFormOk s img then some stBadDesc
  else if maxBody < hdrBody h then some stBounds
  else if !slotValid s img then some stBadDesc
  else if slotInUse s ≠ 0 ∧ !seqLater (rf s .setSeq 0 32) (hdrSeq h) then some stBadDesc
  else none

/-- Store a slot of the flash. -/
def writeSlot (s : State) (k : Nat) (img : List Byte) : State :=
  { s with part := if k = 1 then { s.part with flashA := img } else { s.part with flashB := img } }

def updateResult (s : State) (st : Nat) (written : Nat) : State :=
  setReg s .setUpdStat (BitVec.ofNat 64 (st * 2 ^ 8 + written * 2 ^ 16))

/-- An update, whole: a failed flash write or read-back leaves the slot invalid. -/
def updateNow (s : State) (hostReadFails flashFails : Bool) : State :=
  let a := rf s .setUpdAddr 0 48
  if a % 64 ≠ 0 then updateResult s stBadDesc 0
  else if rngOf a ≠ some .host then updateResult s stBounds 0
  else if hostReadFails || !hostReadable s then updateResult s stTierFail 0
  else
    let img := updateImage s
    match updateFault s img with
    | some st => updateResult s st 0
    | none =>
      let k := updateSlot s
      if flashFails then updateResult (writeSlot s k []) stTierFail 0 else updateResult (writeSlot s k img) stOk k

end Sys2Proof.Machine
end

