-- ==== Sys2Proof/Machine/Reset.lean ====
section
/-! DEFINITION. The reset scopes, the boot stages, the battery log and the start of a tenant change (R285, R362, R376,
R377, R394, R403, R407, R411 to R413, R429 to R431, R467). -/

namespace Sys2Proof.Machine

/-! ## The battery log (R409, R413) -/

/-- SECONDS and FRACTION of the real-time clock. -/
def rtcSeconds (s : State) : Nat := s.sec.rtc / 1000000000 % 2 ^ 32
def rtcFraction (s : State) : Nat := s.sec.rtc % 1000000000 * 32768 / 1000000000

/-- The package runs on the cell alone. -/
def onCell (s : State) : Bool := s.power.state == .off

/-- Write an entry; a full ring overwrites its oldest. -/
def logEntry (s : State) (code detail : Nat) : State :=
  let e : BitVec 128 := BitVec.ofNat 128 (rtcSeconds s + rtcFraction s * 2 ^ 32 + (if onCell s then 2 ^ 47 else 0)
    + code % 256 * 2 ^ 48 + detail % 2 ^ 64 * 2 ^ 64)
  let es := s.sec.log ++ [e]
  { s with sec := { s.sec with log := es.drop (es.length - 512), logCount := s.sec.logCount + 1 } }

/-! ## The security-state word (R390) -/

def policyBit (s : State) (i : Nat) : Bool := s.sec.policy.toNat.testBit i

/-- Selective streams that are secure, 0 to 2: streams 1 and 2; stream 0 is the link stream (R399). -/
def secureSelective (s : State) : Nat := ((s.sec.ideSecure.drop 1).filter id).length

/-- The bits of SEC_STAT that follow from the rest: flags, consent, keys, streams, sessions (R286, R388, R390). -/
def refreshSec (s : State) : State :=
  let st := secState s
  let b (p : Bool) : Nat := if p then 1 else 0
  let bound := st == 1
  let s := setRf s .secStat 2 5 (b s.sec.alarmLogged + b s.sec.domainLost * 2 + b (bound && policyBit s 1) * 4
    + b (bound && policyBit s 2) * 8 + b s.sec.preserved.isSome * 16)
  let s := setRf s .secStat 10 3 (b (s.sec.ideSecure.headD false) + secureSelective s * 2)
  let s := setRf s .secStat 14 2 (b (s.part.boardKeyHash.isSome && slotInUse s != 0) + b (s.sec.sessions.any (·.tenant)) * 2)
  setRf (setRf s .peerStat 8 1 (b (st == 0 || (bound && policyBit s 1)))) .hifStat 10 1 (b bound)

def setTdisp (s : State) (t : Nat) : State := setRf s .secStat 8 2 t

/-! ## What a reset takes with it -/

/-- An address of any SRAM. -/
def sramKey (a : Nat) : Bool := decide (a < 0x80000000)

/-- The registers that a filter keeps (R467). -/
def keepRegs (s : State) (keep : Reg → Bool) : List (Nat × Word) :=
  s.regs.filter fun p => match regAt p.1 with | some r => keep r | none => false

/-- An ember object whose newest bytes were in its cache portion loses them: its extent takes free values (R376,
DESIGN CHOICE, log entry 1). -/
def embersGone (s : State) : State :=
  s.ctxs.foldl (fun s c => (c.2.embers.filter fun o => o.resident && o.written).foldl (fun s o =>
    freeExtent s o.addr (o.slabs * slabBytes)) s) s

/-- Every page settles in the frame that it has (R169, R376). -/
def settledEntry (e : TierEntry) : TierEntry := { e with state := 0, partner := none, moved := 0, release := false }

/-- What is left of a context: its generations, which stand in its snapshot area (R369). -/
def areaOnly (p : Nat × CtxSt) : Option (Nat × CtxSt) :=
  let c := { CtxSt.reset with newest := p.2.newest, prev := p.2.prev }
  if c = CtxSt.reset then none else some (p.1, c)

/-- TIER_CX_HELD reports the tier map's totals (R149). -/
def recountHeld (s : State) : State :=
  (List.range 64).foldl (fun s x =>
    let mine := s.tier.filter fun p => p.2.backed && p.2.owner == x && !p.2.snap
    setHeld s x (mine.filter fun p => !p.2.ddr).length (mine.filter fun p => p.2.ddr).length) s

/-- All logic and all SRAM but the key store and the tier map return to reset (R376, R394, R467). -/
def warmCore (s0 : State) : State :=
  let s := embersGone s0
  let kept := secState s == 1
  { State.reset with
    pending := s.pending, free := s.free, nextId := s.nextId, out := s.out
    regs := keepRegs s Reg.keptWarm
    mem := s.mem.filter fun c => !sramKey c.1
    poison := s.poison.filter fun p => !sramKey (p.1 * 64)
    tier := s.tier.map fun p => (p.1, settledEntry p.2)
    ddrCtr := s.ddrCtr, withheld := s.withheld
    ctxs := s.ctxs.filterMap areaOnly
    d2d := s.d2d, power := { s.power with bCap := 0, bTherm := [0, 0, 0, 0], inputW := 0 }, failed := s.failed
    pins := { s.pins with sysReady := false }
    pcie := { State.reset.pcie with linkUp := s.pcie.linkUp, subVendor := s.pcie.subVendor, subSystem := s.pcie.subSystem }
    part := s.part, baud := s.baud
    sec := { s.sec with sessions := [], erases := [], ideSecure := [false, false, false], ideKeys := [0, 0, 0]
                        adpKeys := if kept then s.sec.adpKeys else [], setKeys := if kept then s.sec.setKeys else [] } }

/-- Everything but the flash, the always-on domain and what lies outside the package (R376, R377). -/
def coldCore (s : State) : State :=
  { State.reset with
    pending := s.pending, free := s.free, nextId := s.nextId, out := s.out
    mem := s.mem.filter fun c => decide (0x800000000000 ≤ c.1)
    d2d := s.d2d, part := s.part
    power := { PowerSt.reset with state := s.power.state, hot := s.power.hot }
    pins := { State.reset.pins with smbAlertN := s.pins.smbAlertN }
    sec := { SecSt.reset with wrapSecret := s.sec.wrapSecret, log := s.sec.log, logCount := s.sec.logCount, preserved := s.sec.preserved
                              alarmLogged := s.sec.alarmLogged, domainLost := s.sec.domainLost, rtc := s.sec.rtc } }

/-! ## Boot stages (R17, R353, R363, R384, R394, R412, R430) -/

/-- Stage 6: the failure record is read. -/
def loadRecord (s : State) : State :=
  let s := s.part.recClusters.foldl (fun s c => setRf s (.fltFailClu (c / 64)) (c % 64) 1 1) s
  let s := s.part.recRegions.foldl (fun s p => setRf s .fltFailRgn p 1 1) s
  let s := s.part.recHalf.foldl (fun s k => setRf s .fltFailD2d k 1 1) s
  s.part.recSpared.foldl (fun s k => setRf s .fltFailD2d (16 + k) 1 1) s

/-- The links that end on a die (R354). -/
def dieLinks (d : Nat) : List Nat :=
  let pairs := [(0, 1), (0, 2), (0, 3), (1, 2), (1, 3), (2, 3)]
  ((List.range 6).filter fun k => (pairs.getD k (9, 9)).1 == d || (pairs.getD k (9, 9)).2 == d) ++ [6 + d, 10 + d]

/-- A link trains with the wires that it has left: at half width it is reported, and one that is down fails the package. -/
def trainLink (s : State) (k : Nat) : State :=
  let l := d2dOf s k
  if l.down then failPackage (report (setD2d s k l) 0x22 3 (srcOf 5 k) none 9 0 0)
  else if l.half then report (setD2d s k l) 0x21 2 (srcOf 5 k) none 7 0 0
  else if l.spared ≠ 0 then setD2d s k l
  else s

/-- Stage 6, whole: the record, the map and die-to-die training. -/
def buildMap (s : State) : State :=
  (List.range 15).foldl trainLink ((List.range 4).foldl buildDie (loadRecord s))

/-- A 256-bit key drawn from the device generator (R384). -/
def drawKey (s : State) : BitVec 256 × State :=
  let w (i : Nat) : Nat := (Config.freeWord (s.free + i)).toNat
  (BitVec.ofNat 256 (w 0 + w 1 * 2 ^ 64 + w 2 * 2 ^ 128 + w 3 * 2 ^ 192), { s with free := s.free + 4 })

/-- Draw the two HBM keys, the DDR key and the two nonce-record keys (R394, R401, R402). -/
def drawMemKeys (s : State) : State :=
  (List.range 5).foldl (fun s i =>
    let r := drawKey s
    { r.2 with sec := { r.2.sec with memKeys := if i = 0 then [r.1] else r.2.sec.memKeys ++ [r.1] } })
    { s with sec := { s.sec with memKeys := [] } }

/-- Draw a new interleave key (R155). -/
def drawInterleave (s : State) : State :=
  let r := draw s
  { r.2 with sec := { r.2.sec with interleave := some r.1 } }

/-- Stage 8: a channel trains when the image names it, an ECC RDIMM is fitted and its training succeeds (R158, R351, R434, R480). -/
def trainDdr (s : State) (d : Nat) : State :=
  let m := s.part.dimms.getD d ⟨0, 1, false, false⟩
  let ecc := m.ecc && m.gib != 0
  let ok := s.part.ddrMask.testBit d && ecc && m.trains
  setReg s (.idDdr d) (BitVec.ofNat 64 ((if ok then 1 + m.gib % 65536 * 2 ^ 16 else 0) + (if ecc then 2 else 0)
    + (if m.gib = 0 then 0 else (m.ranks - 1) % 4 * 4)))

/-- Stage 8, whole: the DDR tier stands on the channels that train (R158, R430). -/
def trainTier (s : State) : State := (List.range 12).foldl trainDdr s

/-- A preserved key store is restored, and with it the tenancy; in every other case it is erased (R412). -/
def restoreStore (s : State) : State :=
  match s.sec.preserved with
  | some (adp, set, policy) =>
    if s.sec.wrapSecret.isSome && !s.sec.alarmLogged && !s.sec.domainLost then
      let s := { s with sec := { s.sec with adpKeys := adp, setKeys := set, policy := policy } }
      logEntry (setRf (setRf s .secStat 0 2 1) .secStat 13 1 0) 0x13 0
    else { s with sec := { s.sec with preserved := none } }
  | none => s

/-- The board as the last boot found it, which a reset without a board of its own finds again (DESIGN CHOICE, log entry 114). -/
def boardOf (s : State) : Board := ⟨s.part.dimms, true, false, s.part.speed, s.part.lanes⟩

/-- The root clock is lost: every domain but CK_MGT stops, the package has failed, the link is down (R419). -/
def clocksLost (s : State) (lockLost : Bool) : State :=
  let s := setReg s .clkStat (if lockLost then 1 else 0)
  let s := { s with pcie := { s.pcie with linkUp := false } }
  failPackage (report s 0x57 3 (srcOf 9 0) none 9 (if lockLost then 1 else 0) 0)

/-- The always-on domain lost its power: the wrap secret and the clock are invalid, the clock restarts from 0 (R411); the log
keeps its entries (DESIGN CHOICE, log entry 154). -/
def loseDomain (s : State) : State :=
  { s with sec := { s.sec with wrapSecret := none, rtc := 0, domainLost := true } }

/-- The stages of a cold boot up to READY. -/
def coldBoot (s0 : State) (b : Board) : State :=
  let off := onCell s0
  let s := coldCore s0
  let s := if off && b.domainLost then loseDomain s else s
  let s := { s with power := { s.power with state := .boot } }
  let s := if off then logEntry s 0x01 0 else s
  if !b.refGood then clocksLost s false
  else
    let s := useSlot { s with part := { s.part with dimms := b.dimms, speed := b.speed, lanes := b.lanes } } (chooseSlot s)
    let s := trainTier (drawInterleave (drawMemKeys (buildMap s)))
    refreshSec (restoreStore s)

/-- Every sensor reads low enough for a cold reset after a thermal trip (R426). -/
def coldAllowed (s : State) : Bool := s.pins.sysThermtripN || decide (s.power.hot < 95)

def coldReset (s : State) (b : Board) : State := if coldAllowed s then coldBoot s b else s

/-- A package-warm reset, up to READY: absorbed by a tenant change that runs, and not possible without the clocks
(R376, R408, R419, R436). `reread` reads the settings flash again. -/
def packageWarm (s : State) (reread : Bool) : State :=
  let state := secState s
  let slot := slotInUse s
  let tb := reg s .secStat
  let s := setReg (warmCore s) .secStat (setFld (setFld 0 0 2 state) 13 1 (fld tb 13 1))
  let s := useSlot s (if reread then chooseSlot s else slot)
  refreshSec (recountHeld (trainTier (buildMap s)))

/-- A package-warm reset can be performed now. -/
def warmAllowed (s : State) : Bool := secState s != 2 && clocksRun s

def warmReset (s : State) : State := if warmAllowed s then packageWarm s (secState s != 1) else s

/-! ## Narrower scopes (R376) -/

/-- Commands running or queued on some engines complete ABORTED. -/
def abortOn (s : State) (es : List Nat) : State :=
  endAll s stAborted ((s.outs.filter (runsOrWaitsOn es)).map fun o => o.ident)

/-- Objects resident in a region are moved out; those still moving in are not there yet. -/
def moveOutEmbers (s : State) (r : Nat) : State :=
  s.ctxs.foldl (fun s c => (c.2.embers.filter fun o => o.home == some r).foldl (fun s o =>
    emberOut (modEmber s c.1 o.addr fun o => { o with moving := false }) c.1 o) s) s

/-- A reset of region scope: its commands end, written ember objects move out, its SRAM is poisoned. -/
def regionReset (s : State) (p : Nat) : State :=
  match regionNumber s p with
  | none => s
  | some r =>
    let s := moveOutEmbers ((regionEngines s p).foldl clearEngine (abortOn s (regionEngines s p))) r
    settle (loseExtent (loseExtent s (r * 0x1000000) 0x1000000) (0x40000000 + r * 0x2000000) 0x2000000)

/-- The logical regions of a die. -/
def dieRegions (d : Nat) : List Nat := (List.range 8).map (8 * d + ·)

/-- A region's scratch and SRAM read as zero, clean. -/
def zeroRegion (s : State) (r : Nat) : State :=
  zeroExtent (zeroExtent (loseEmbers s r) (r * 0x1000000) 0x1000000) (0x40000000 + r * 0x2000000) 0x2000000

/-- A reset of die-warm scope abandons the stream of a context: its TAKE completes ABORTED, and a background snapshot, which has
no completion, is reported (R371; DEDUCED, log entry 153). -/
def abandonStream (s : State) (x : Nat) : State :=
  match (ctx s x).stream with
  | none => s
  | some t => match t.byTake.bind (findOut s) with
    | some o => endCommand s o stAborted
    | none => nextCut (report (dropStream s x) 0x48 1 (tierSource s (rf s (.fltCxSnapArea x) 0 48)) (some x) 4 0 0) x

/-- A die-warm reset of a compute die; TIER_WAYS takes effect (R170, R371, R376, R430). -/
def dieWarm (s : State) (d : Nat) : State :=
  let es := (List.range 9).flatMap fun k => regionEngines s (9 * d + k)
  let s := (s.ctxs.map Prod.fst).foldl abandonStream (abortOn s es)
  let s := (dieRegions d).foldl zeroRegion s
  let s := ((List.range 81).map (81 * d + ·)).foldl freshArray s
  let s := (dieLinks d).foldl trainLink (buildDie s d)
  settle { s with ways := rf s .tierWays 0 5 }

/-! ## Tenant changes (R381, R407, R408, R410) -/

/-- Step 1 of a tenant change: STATE is CHANGING, any preserved store is erased, the log is told. -/
def startChange (s : State) (target : Nat) : State :=
  let s := setRf { s with sec := { s.sec with target := some target, preserved := none } } .secStat 0 2 2
  refreshSec (advanceEpoch (logEntry s 0x10 target))

/-- A write of SEC_TENANT_END.GO: ignored while CHANGING. -/
def tenantEnd (s : State) (v : Word) : State := if bitOf v 0 && secState s != 2 then startChange s 0 else s

/-- A write of FLT_RESET. -/
def resetWrite (s : State) (v : Word) : State :=
  let t := fld v 8 11
  match fld v 0 3 with
  | 0 => if t < 64 then teardownNow s t none else s
  | 1 => if t < 612 then settle (resetEngine s t) else s
  | 2 => if t < 36 then regionReset s t else s
  | 3 => if t < 4 then dieWarm s t else s
  | 4 => warmReset s
  | 5 => coldReset s (boardOf s)
  | _ => s

end Sys2Proof.Machine
end

