-- ==== Sys2Proof/Machine/Bar0.lean ====
section
/-! DEFINITION. BAR0: reads, writes, locks, adjusted values, the registers whose writes act, and their rows: REGISTER_WRITE,
CONTEXT_ENABLE, CONTEXT_DISABLE, CONTEXT_LOCK, RING_ENABLE, RING_DISABLE, FORCE_RINGS, FORCE_CTX, TIER_CX_SCRIPT,
TIER_CX_EMBER, PEER_CTL_EN, HIF_TB_SET, SEC_TENANT_END_GO, FOUR_BYTE_READ, and the resets that FLT_RESET causes
(R7, R8, R286, R287, R294, R321, R376, R400, R463 to R476, R481). -/

namespace Sys2Proof.Machine

/-! ## Values of status registers (R170, R308, R378, R390, R414, R442, R479) -/

/-- HBM frames outside the snapshot reserve (R23, R148). -/
def hbmFrames : Nat := 184320

def framesHeld (s : State) : Nat := (s.tier.filter fun p => p.2.backed && !p.2.ddr).length

def framesWithheld (s : State) : Nat := (s.withheld.filter fun p => p.2).length

/-- Frames, in order from index f, for which the j-th of d channels can supply its granules out of `room` (R157). -/
def framesOver (d f j room : Nat) : Nat :=
  let need (k : Nat) : Nat := ((List.range k).map fun i => granules d (f + i) j).foldl (· + ·) 0
  room / 512 * d + (((List.range d).map (· + 1)).takeWhile fun k => decide (need k ≤ room % 512)).length

/-- DDR_FREE: the frames that a context selecting every trained channel could still back (R158, R403). -/
def ddrFree (s : State) : Nat :=
  let cs := trainedDdr s
  let f := freeFrame s true
  let room (j : Nat) : Nat := let c := cs.getD j 0
    framesOver cs.length f j (ddrGranules s c - ddrLoad s c)
  match (List.range cs.length).map room with
  | [] => 0
  | n :: ns => ns.foldl min n - framesWithheld s

/-- TIER_STAT: KEY_SET, HBM_FREE and DDR_FREE; its Reset column until the boot has drawn the interleave key (DEDUCED, log
entry 105). -/
def tierStatNow (s : State) : Word :=
  if s.sec.interleave.isSome then
    BitVec.ofNat 64 (1 + (hbmFrames - framesHeld s) % 2 ^ 24 * 2 ^ 8 + ddrFree s % 2 ^ 24 * 2 ^ 32)
  else 0

/-- Dies that still have a spare region. -/
def spareDies (s : State) : Nat :=
  (List.range 4).foldl (fun n d => if ((List.range 9).any fun k => rgnSpare s (9 * d + k) && rgnWorking s (9 * d + k)) then setBit n d true else n) 0

/-- FLT_STAT. -/
def fltStatNow (s : State) : Word :=
  let present := rf s .fltStat 0 32
  let degraded := present != 2 ^ 32 - 1 || s.d2d.any fun k => k.2.half
  BitVec.ofNat 64 (present + spareDies s * 2 ^ 32 + (if degraded then 2 ^ 36 else 0))

/-- FLT_CX_SNAP_STAT: BOUND is the age of the newest complete cut, its reset value while there is none (R371). -/
def snapStatNow (s : State) (x : Nat) : Word :=
  let age := match (ctx s x).newest with
    | some g => min (2 ^ 24 - 1) ((now s - g.time) / 1000000)
    | none => 0
  setFld (regRaw s (.fltCxSnapStat x)) 8 24 age

/-- PWR_STAT. -/
def pwrStatNow (s : State) : Word :=
  let t (i : Nat) : Nat := s.power.bTherm.getD i 16 % 32
  BitVec.ofNat 64 (s.power.bCap % 32 + t 0 * 2 ^ 5 + t 1 * 2 ^ 10 + t 2 * 2 ^ 15 + t 3 * 2 ^ 20 + s.power.inputW % 2 ^ 16 * 2 ^ 32)

/-- The battery-log entry at the ring index that SEC_LOG_SEL names, as a number; 0 for one that is not held. -/
def selectedEntry (s : State) : Nat :=
  let oldest := (s.sec.logCount - s.sec.log.length) % 512
  ((s.sec.log[(rf s .secLogSel 0 9 + 512 - oldest) % 512]?).getD 0).toNat

/-- What a status register shows, where its register is not itself its home. -/
def readReg (s : State) (r : Reg) : Word :=
  match r with
  | .tierStat => tierStatNow s
  | .fltStat => fltStatNow s
  | .fltCxSnapStat x => snapStatNow s x
  | .pwrStat => pwrStatNow s
  | .pwrEnergy => BitVec.ofNat 64 (s.power.energy / 1000)
  | .secRtc => BitVec.ofNat 64 (rtcSeconds s + rtcFraction s * 2 ^ 32)
  | .secLogStat => BitVec.ofNat 64 (s.sec.log.length + (s.sec.logCount - 1) % 512 * 2 ^ 16)
  | .secLogData0 => BitVec.ofNat 64 (selectedEntry s % 2 ^ 64)
  | .secLogData1 => BitVec.ofNat 64 (selectedEntry s / 2 ^ 64)
  | .secKeyStat => BitVec.ofNat 64 ((s.sec.adpKeys.filter fun p => p.2.isSome).length + s.sec.setKeys.length * 2 ^ 32 + packagesHeld s * 2 ^ 48)
  | .secCxPkgStat x => BitVec.ofNat 64 ((s.packages.filterMap Prod.snd).filter fun p => p.ctx == x).length
  | .telStat => BitVec.ofNat 64 (min 255 (s.outs.filter fun o => o.d.cls == 10 && o.st == .queued).length * 2 ^ 8)
  | .schCxForce _ | .hifTbSet | .fltReset | .secTenantEnd | .setUpdCtl => 0
  | r => reg s r

/-! ## Locks (R293, R468) -/

/-- The context whose set-up lock covers a register's RWL fields. -/
def Reg.lockCtx : Reg → Option Nat
  | .tierCxHmask x | .tierCxDmask x | .tierCxWmask x | .tierCxQuota x => some x
  | .ctxCxSq x _ | .ctxCxCq x _ | .ctxCxRing x _ | .ctxCxEq x => some x
  | .ctxCxSeed x | .ctxCxScale x | .ctxCxJournal x | .ctxCxPmap x => some x
  | .ctxCxWinBase x _ | .ctxCxWinSize x _ => some x
  | .fltCxSnapArea x | .fltCxSnapSize x | .peerCxAllow x => some x
  | _ => none

def ctxLocked (s : State) (x : Nat) : Bool := bitOf (reg s (.ctxCxCtl x)) 1

/-- The lock that covers the RWL fields of a register is set. -/
def regLocked (s : State) (r : Reg) : Bool :=
  match r with
  | .tierWays => anyEnabled s
  | .peerPortCfg => peerEn s
  | .peerGrpMem g | .peerGrpCfg g => ctxLocked s (grpOwner s g)
  | r => match r.lockCtx with
    | some x => ctxLocked s x
    | none => false

/-! ## Adjusted values (the field tables' Meaning columns) -/

/-- A field in which 0 is stored as 1. -/
def atLeastOne (lo len : Nat) (v : Word) : Word := if fld v lo len = 0 then setFld v lo len 1 else v

/-- A field whose value outside a range is ignored: it keeps what it held. -/
def inRange (lo len least most : Nat) (old v : Word) : Word :=
  if least ≤ fld v lo len ∧ fld v lo len ≤ most then v else setFld v lo len (fld old lo len)

/-- A field that stores the nearer limit. -/
def clamped (lo len least most : Nat) (v : Word) : Word := setFld v lo len (max least (min most (fld v lo len)))

/-- Each port's MODE, where 3 is ignored (R287). -/
def portModes (old v : Word) : Word :=
  (List.range 4).foldl (fun v p => inRange (2 * p) 2 0 2 old v) v

/-- The value that a write of `v` over `old` stores. -/
def adjusted (s : State) (r : Reg) (old v : Word) : Word :=
  match r with
  | .arrChkCtl => inRange 0 5 12 20 old v
  | .arrRampCtl => if fld v 0 16 < 1600 then setFld v 0 16 1600 else v
  | .tierWays => inRange 0 5 0 16 old v
  | .tierPlaceCtl => atLeastOne 0 16 v
  | .tierTimeout => atLeastOne 0 16 v
  | .tierImbCtl => inRange 8 8 1 255 old (inRange 0 4 2 15 old v)
  | .tierCxHmask _ => if [1, 2, 4, 8, 16].contains (popCount (fld v 0 16) 16) then v else old
  | .tierCxDmask _ => if fld v 0 12 = 0 then old else v
  | .peerPortCfg => portModes old v
  | .peerRetry => inRange 16 5 1 16 old (atLeastOne 0 16 v)
  | .peerTmo => atLeastOne 16 16 (atLeastOne 0 16 v)
  | .hifPtmCtl => atLeastOne 16 16 (atLeastOne 0 16 v)
  | .hifBar4Base => setFld v 0 34 0
  | .schStarve => atLeastOne 0 32 v
  | .fltMerge => atLeastOne 16 16 (atLeastOne 8 8 (atLeastOne 0 8 v))
  | .fltWdog => atLeastOne 0 16 v
  | .fltLog => if bitOf (reg s .fltCtl) 1 then setFld v 0 48 (fld old 0 48) else v
  | .fltCxSnapCfg _ => atLeastOne 16 16 v
  | .fltCxSnapList _ => inRange 48 13 0 4096 old v
  | .pwrCap => clamped 0 12 800 2400 v
  | .pwrCapCtl => clamped 0 16 100 10000 v
  | .pwrTherm => atLeastOne 8 4 (inRange 0 8 80 100 old v)
  | .ctxStepTimeout => atLeastOne 0 16 v
  | .ctxCxSemTmo _ => atLeastOne 0 16 v
  | _ => v

/-! ## Registers whose writes act -/

/-- PEER_CTL: EN is ignored in confidential mode without consent, and stays clear without the settings that the board
asks for; clearing it takes the ports down (R286, R435). -/
def peerCtlWrite (s : State) (v : Word) : State :=
  let barred := !peerConsent s || settingsBar s
  let v := if barred then setFld v 1 1 (rf s .peerCtl 1 1) else v
  let was := peerEn s
  let s := setReg s .peerCtl v
  if was && !bitOf v 1 then settle (portsDown s) else s

/-- FLT_CTL: setting LOG_EN restarts the counts of the device fault log (R294, R358). -/
def fltCtlWrite (s : State) (v : Word) : State :=
  let was := logOn s
  let s := setReg s .fltCtl v
  if !was && bitOf v 1 then setReg { setRf s .fltLogStat 0 32 0 with logMerged := 0 } .fltLogHead 0 else s

/-- FLT_LOG_HEAD, under the rules of R294: a value that breaks them is ignored and counted. -/
def logHeadWrite (s : State) (v : Word) : State :=
  if consumedOk (logWr s) (rf s .fltLogHead 0 32) (ringSize s .fltLog) (fld v 0 32) then setReg s .fltLogHead v
  else bump s .hifDbErrCnt

/-- HIF_TB_SET: ignored and logged while any context is enabled (R321). -/
def tbSetWrite (s : State) (src : Source) (v : Word) : State :=
  if anyEnabled s then logAccess s src Reg.hifTbSet.offset 3 else { setReg s .hifTb v with ptm := ⟨0, 0⟩ }

/-- STRM_SPLIT_p: shares that do not sum to 32, or are 0, are refused (R188). -/
def splitOk (v : Word) : Bool :=
  fld v 0 5 + fld v 8 5 + fld v 16 5 == 32 && fld v 0 5 != 0 && fld v 8 5 != 0 && fld v 16 5 != 0

/-- PEER_GRP_CFG_g: the group's numbers restart when it is enabled (R277). -/
def grpCfgWrite (s : State) (g : Nat) (v : Word) : State :=
  let was := bitOf (reg s (.peerGrpCfg g)) 6
  let s := advanceEpoch (setReg s (.peerGrpCfg g) v)
  if !was && bitOf v 6 then restartGroup s g else s

/-- A value of EXPERT_EN: clearing it puts every expert field of the block back to its default (R441). -/
def expertChange (s : State) (b : Block) (v : Word) : State :=
  if expertOn s b && !bitOf v 0 then b.expertRegs.foldl (fun s r => setReg s r r.resetVal) s else s

/-- What a write stores and does, locked fields and adjusted values settled. -/
def applyWrite (s : State) (src : Source) (r : Reg) (v : Word) : State :=
  match r with
  | .ctxCxCtl x => ctxCtlWrite s src x v
  | .ctxCxRing x n => ringCfgWrite s src x n v
  | .ctxCxEqCfg x => eqCfgWrite s src x v
  | .schCxForce x => forceWrite s x v
  | .tierCxScript x => scriptWrite s x v
  | .tierCxEmber x => emberWrite s x v
  | .secCxPkg x => pkgWrite s x v
  | .peerCtl => peerCtlWrite (expertChange s .peer v) v
  | .fltCtl => fltCtlWrite (expertChange s .flt v) v
  | .fltLogHead => logHeadWrite s v
  | .fltReset => resetWrite s v
  | .hifTbSet => tbSetWrite s src v
  | .secTenantEnd => tenantEnd s v
  | .setUpdCtl => if bitOf v 0 then updateNow s false false else s
  | .strmSplit p => if splitOk v then setReg s (.strmSplit p) v else logAccess s src (Reg.strmSplit p).offset 3
  | .peerGrpCfg g => grpCfgWrite s g v
  | .peerGrpMem g => advanceEpoch (setReg s (.peerGrpMem g) v)
  | .peerCxAllow x => advanceEpoch (setReg s (.peerCxAllow x) v)
  | r => setReg (if r = r.block.ctl then expertChange s r.block v else s) r v

/-- A write-only register. -/
def Reg.writeOnly : Reg → Bool
  | .schCxForce _ | .hifTbSet | .fltReset | .secTenantEnd | .setUpdCtl => true
  | _ => false

/-- An 8-byte write of a register: reserved and read-only fields keep their bits, expert registers their defaults while
EXPERT_EN is clear, locked fields what they held, which is logged (R5, R7, R8, R468). -/
def writeReg (s : State) (src : Source) (r : Reg) (v : Word) : State :=
  if r.writeOnly then applyWrite s src r v
  else if r.rwMask = 0 && r.rwlMask = 0 then s
  else if r.expert && !expertOn s r.block then s
  else
    let lock := r.rwlMask != 0 && regLocked s r
    let mask := BitVec.ofNat 64 (r.rwMask ||| (if lock then 0 else r.rwlMask))
    let old := regRaw s r
    let s := if lock then logAccess s src r.offset 2 else s
    let new := (old &&& ~~~mask) ||| (v &&& mask)
    if lock && r.rwMask = 0 then s else applyWrite s src r (adjusted s r old new)

/-! ## MSI-X structures (R472, R473) -/

def inMsix (off : Nat) : Bool :=
  (decide (0x80000 ≤ off) && decide (off < 0x88000)) || (decide (0x90000 ≤ off) && decide (off < 0x90100))

/-- One 4-byte word of the table: its low two words are 4-byte aligned addresses, its fourth resets to masked (PRESUMED, log entry 4). -/
def msixWord (s : State) (i : Nat) : Word32 := smGet (if i % 4 = 3 then 1 else 0) s.msix i

/-- 32 pending bits. -/
def pendingWord (s : State) (i : Nat) : Word32 :=
  BitVec.ofNat 32 ((List.range 32).foldl (fun n k => if smGet false s.msixPend (32 * i + k) then setBit n k true else n) 0)

def msixRead (s : State) (off : Nat) : Word32 :=
  if off < 0x90000 then msixWord s ((off - 0x80000) / 4) else pendingWord s ((off - 0x90000) / 4)

/-- Write one word of the table; unmasking a vector that is pending signals it (R319, R473). -/
def msixWriteWord (s : State) (i : Nat) (v : Word32) : State :=
  let v := if i % 4 = 3 then v &&& 1 else if i % 4 = 0 then v &&& 0xFFFFFFFC else v
  let k := i / 4
  releaseVector { s with msix := smSet (if i % 4 = 3 then 1 else 0) s.msix i v } k

/-- A write into the table; the pending bits are read-only, and in RUN the table is locked. -/
def msixWrite (s : State) (src : Source) (off size : Nat) (v : Word) : State :=
  if 0x90000 ≤ off then s
  else if confidential s && tdispState s == 2 then logAccess s src off 5
  else
    let i := (off - 0x80000) / 4
    let s := msixWriteWord s i (v.setWidth 32)
    if size = 8 then msixWriteWord s (i + 1) ((v >>> 32).setWidth 32) else s

/-! ## Who may write what (R382, R400, R434, R457, R460) -/

/-- The blocks that a preset may name. -/
def presetBlock : Block → Bool
  | .tier | .strm | .arr | .att | .peer | .pwr | .flt | .tel | .sch => true
  | _ => false

/-- The monitor runs: from stage 4 of a boot onward (R458). -/
def monitorRuns (s : State) : Bool := clocksRun s

/-- A write from a source other than the host reaches the register. -/
def sourceMay (s : State) (src : Source) (off : Nat) : Bool :=
  match src with
  | .host | .outside => true
  | .monitor => monitorRuns s && secState s == 0 && !(decide (0x800000 ≤ off) && decide (off < 0x900000))
  | .smbus => off == Reg.pwrCap.offset
  | .preset => !isUp s

/-- The source whose latch an access uses; `outside` is the host too (R465). -/
def latchOwner : Source → Source
  | .outside => .host
  | s => s

def dropLatch (s : State) (src : Source) : State :=
  { s with latches := s.latches.filter fun l => l.1 != latchOwner src }

/-- A write at a BAR0 offset, of any size (R463, R464). -/
def writeAt (s : State) (src : Source) (off size : Nat) (v : Word) : State :=
  let s := dropLatch s src
  if (size ≠ 4 ∧ size ≠ 8) ∨ off % size ≠ 0 then logAccess s src off 4
  else if inMsix off then msixWrite s src off size v
  else match regAt (off / 8 * 8) with
    | none => s
    | some r => if size = 4 then logAccess s src off 1 else writeReg s src r v

/-- A BAR0 write under its source's gate. -/
def barWrite (s : State) (src : Source) (off size : Nat) (v : Word) : State :=
  match src with
  | .host => gated s true fun s => writeAt s .host off size v
  | .outside => gated s false fun s => writeAt s .host off size v
  | _ => if sourceMay s src off then writeAt s src off size v else s

/-- An 8-byte write of a named register. -/
def barReg (s : State) (src : Source) (r : Reg) (v : Word) : State := barWrite s src r.offset 8 v

/-! ## Reads (R464, R465, R466) -/

/-- In confidential mode outside RUN only the HIF, SEC and ID windows can be read (R400). -/
def readableOutsideRun (off : Nat) : Bool :=
  decide (off < 0x100000) || (decide (0x800000 ≤ off) && decide (off < 0x900000)) || (decide (0xD00000 ≤ off) && decide (off < 0xE00000))

/-- A host read is served. -/
def readServed (s : State) (tee : Bool) (off : Nat) : Bool :=
  if !confidential s then true
  else if tdispState s == 2 then tee
  else readableOutsideRun off

/-- The 64 bits at an offset; an offset that no table names reads as 0. -/
def readAt (s : State) (off : Nat) : Word :=
  match regAt off with
  | some r => readReg s r
  | none => 0

/-- The low half of a register: it latches the high half for its source. -/
def readLow (s : State) (src : Source) (off : Nat) : Word32 × State :=
  let v := readAt s off
  let s := dropLatch s src
  (v.setWidth 32, { s with latches := s.latches ++ [(latchOwner src, off, (v >>> 32).setWidth 32)] })

/-- The high half: the latched value after the low-half read of the same register. -/
def readHigh (s : State) (src : Source) (off : Nat) : Word32 × State :=
  let v := match s.latches.find? fun l => l.1 == latchOwner src && l.2.1 == off - 4 with
    | some l => l.2.2
    | none => (readAt s (off - 4) >>> 32).setWidth 32
  (v, dropLatch s src)

def readHalf (s : State) (src : Source) (off : Nat) : Word32 × State :=
  if inMsix off then (msixRead s off, dropLatch s src)
  else if off % 8 = 0 then readLow s src off
  else readHigh s src off

/-- Answer a 4-byte read on its source's port. -/
def answerHalf (s : State) (src : Source) (v : Word32) : State :=
  match src with
  | .host | .outside => emit s (.barRead (some (leBytes 4 v.toNat)) false)
  | .monitor => emit s (.monitor none [v.toNat])
  | .smbus => emit s (.smbus [v.toNat])
  | .preset => s

/-- FOUR_BYTE_READ. -/
def execFourByteRead (src : Source) (offset : BitVec 26) (s : State) : Host.Outcome State Fault Refusal :=
  let off := offset.toNat
  let answer (s : State) : State :=
    if off % 4 ≠ 0 then emit (dropLatch s src) (.barRead none false)
    else
      let r := readHalf s src off
      answerHalf r.2 src r.1
  .next (match src with
    | .host | .outside =>
      if !barOpen s then s
      else if readServed s (src == .host) off then answer s
      else emit (dropLatch s src) (.barRead none false)
    | .monitor => if monitorRuns s && secState s == 0 then answer s else s
    | .smbus => if clocksRun s then answer s else s
    | .preset => s)

/-! ## Rows -/

/-- REGISTER_WRITE: at any offset, of any size. -/
def execRegisterWrite (src : Source) (offset : BitVec 26) (size : Nat) (value : Word) (s : State) :
    Host.Outcome State Fault Refusal :=
  .next (barWrite s src offset.toNat size value)

/-- CONTEXT_ENABLE: a write of CTX_CX_CTL with EN set (R476). -/
def execContextEnable (src : Source) (ctx : Fin 64) (value : Word) (s : State) : Host.Outcome State Fault Refusal :=
  .next (if bitOf value 0 then barReg s src (.ctxCxCtl ctx.val) value else s)

/-- CONTEXT_DISABLE: a write of CTX_CX_CTL with EN clear to an enabled context (R342). -/
def execContextDisable (src : Source) (ctx : Fin 64) (value : Word) (s : State) : Host.Outcome State Fault Refusal :=
  .next (if !bitOf value 0 && ctxEnabled s ctx.val then barReg s src (.ctxCxCtl ctx.val) value else s)

/-- CONTEXT_LOCK: a write of CTX_CX_CTL that sets LOCK alone (R468). -/
def execContextLock (src : Source) (ctx : Fin 64) (value : Word) (s : State) : Host.Outcome State Fault Refusal :=
  .next (if bitOf value 1 && !bitOf value 0 && !ctxEnabled s ctx.val then barReg s src (.ctxCxCtl ctx.val) value else s)

/-- RING_ENABLE: a write of CTX_CX_RING_n with EN set (R294). -/
def execRingEnable (src : Source) (ctx : Fin 64) (ring : Fin 16) (value : Word) (s : State) : Host.Outcome State Fault Refusal :=
  .next (if bitOf value 0 then barReg s src (.ctxCxRing ctx.val ring.val) value else s)

/-- RING_DISABLE: a write of CTX_CX_RING_n with EN clear (R341). -/
def execRingDisable (src : Source) (ctx : Fin 64) (ring : Fin 16) (value : Word) (s : State) : Host.Outcome State Fault Refusal :=
  .next (if bitOf value 0 then s else barReg s src (.ctxCxRing ctx.val ring.val) value)

/-- FORCE_RINGS (R343). -/
def execForceRings (src : Source) (ctx : Fin 64) (rings : BitVec 16) (s : State) : Host.Outcome State Fault Refusal :=
  .next (barReg s src (.schCxForce ctx.val) (rings.setWidth 64))

/-- FORCE_CTX (R343). -/
def execForceCtx (src : Source) (ctx : Fin 64) (s : State) : Host.Outcome State Fault Refusal :=
  .next (barReg s src (.schCxForce ctx.val) 0x10000)

/-- TIER_CX_SCRIPT (R164). -/
def execTierCxScript (src : Source) (ctx : Fin 64) (value : Word) (s : State) : Host.Outcome State Fault Refusal :=
  .next (barReg s src (.tierCxScript ctx.val) value)

/-- TIER_CX_EMBER (R160). -/
def execTierCxEmber (src : Source) (ctx : Fin 64) (value : Word) (s : State) : Host.Outcome State Fault Refusal :=
  .next (barReg s src (.tierCxEmber ctx.val) value)

/-- PEER_CTL_EN: a write of PEER_CTL (R286). -/
def execPeerCtlEn (src : Source) (value : Word) (s : State) : Host.Outcome State Fault Refusal :=
  .next (barReg s src .peerCtl value)

/-- HIF_TB_SET (R321). -/
def execHifTbSet (src : Source) (value : Word) (s : State) : Host.Outcome State Fault Refusal :=
  .next (barReg s src .hifTbSet value)

/-- SEC_TENANT_END_GO (R407, R408). -/
def execSecTenantEndGo (src : Source) (s : State) : Host.Outcome State Fault Refusal :=
  .next (barReg s src .secTenantEnd 1)

/-- SET_UPD_CTL_GO, with what fails in it (R437). -/
def execSetUpdCtlGo (src : Source) (hostReadFails flashFails : Bool) (s : State) : Host.Outcome State Fault Refusal :=
  .next (match src with
    | .host => gated s true fun s => updateNow (dropLatch s .host) hostReadFails flashFails
    | .outside => gated s false fun s => updateNow (dropLatch s .host) hostReadFails flashFails
    | .monitor => if sourceMay s .monitor Reg.setUpdCtl.offset then updateNow (dropLatch s .monitor) hostReadFails flashFails else s
    | .smbus | .preset => s)

/-- A value of FLT_RESET. -/
def resetWord (scope target : Nat) : Word := BitVec.ofNat 64 (scope + target * 2 ^ 8)

/-- CONTEXT_RESET (R376). -/
def execContextReset (src : Source) (ctx : Fin 64) (s : State) : Host.Outcome State Fault Refusal :=
  .next (barReg s src .fltReset (resetWord 0 ctx.val))

/-- ENGINE_RESET (R376). -/
def execEngineReset (src : Source) (engine : Fin 612) (s : State) : Host.Outcome State Fault Refusal :=
  .next (barReg s src .fltReset (resetWord 1 engine.val))

/-- REGION_RESET (R376). -/
def execRegionReset (src : Source) (region : Fin 36) (s : State) : Host.Outcome State Fault Refusal :=
  .next (barReg s src .fltReset (resetWord 2 region.val))

/-- DIE_WARM_RESET (R376). -/
def execDieWarmReset (src : Source) (die : Fin 4) (s : State) : Host.Outcome State Fault Refusal :=
  .next (barReg s src .fltReset (resetWord 3 die.val))

/-- PACKAGE_WARM_RESET (R376). -/
def execPackageWarmReset (src : Source) (s : State) : Host.Outcome State Fault Refusal :=
  .next (barReg s src .fltReset (resetWord 4 0))

end Sys2Proof.Machine
end

