-- ==== Sys2Proof/Machine/Boot.lean ====
section
/-! DEFINITION. The rows that boot the package: COLD_RESET, FUNCTION_LEVEL_RESET, PCIE_PERST_N, STANDBY, READY,
CONFIGURATION_REQUEST (R288, R323, R421, R429 to R431, R434, R455, R462, R481). -/

namespace Sys2Proof.Machine

/-- COLD_RESET: 12 V applied, SYS_RESET_N released, or FLT_RESET at cold scope. -/
def execColdReset (b : Board) (s : State) : Host.Outcome State Fault Refusal := .next (coldReset s b)

/-- FUNCTION_LEVEL_RESET (R288, R400). -/
def execFunctionLevelReset (s : State) : Host.Outcome State Fault Refusal :=
  .next (if s.pcie.linkUp then warmReset s else s)

/-- PCIE_PERST_N: its release (R429). -/
def execPciePerstN (s : State) : Host.Outcome State Fault Refusal := .next (warmReset s)

/-- Of the rails of R420, the one that stays on in STANDBY: the always-on rail (R421). -/
def standbyRails : List Bool := (List.range 25).map fun i => i == 24

/-- STANDBY: SYS_RESET_N low for 1 ms with 12 V present (R421, R455). -/
def execStandby (s : State) : Host.Outcome State Fault Refusal :=
  .next (if s.power.state == .off then s
    else
      let c := coldCore s
      { c with power := { c.power with state := .standby, rails := standbyRails }
               pcie := { c.pcie with linkUp := false }, pins := { c.pins with sysFaultN := s.pins.sysFaultN, sysThermtripN := s.pins.sysThermtripN }
               failed := s.failed })

/-! ## READY (R430 stage 10, R434) -/

/-- A preset that breaks the rules is skipped, counted and logged. -/
def skipPreset (s : State) (off : Nat) : State := logAccess (skipEntry s) .preset off 3

/-- One PRESET entry. -/
def applyPreset (s : State) (e : Nat) : State :=
  let off := bitsAt e 8 24
  match regAt off with
  | some r => if presetBlock r.block && !r.writeOnly then writeReg s .preset r (BitVec.ofNat 64 (bitsAt e 64 64)) else skipPreset s off
  | none => skipPreset s off

def applyPresets (s : State) : State :=
  ((bootEntries s).filter fun e => bitsAt e 0 8 == 1).foldl applyPreset s

/-- The values in force at the end of a reset: those that the presets have left (R136, R170). -/
def settleControls (s : State) : State :=
  { s with ways := rf s .tierWays 0 5, tierCtl := reg s .tierCtl, attCtl := reg s .attCtl, attSpill := reg s .attSpillCtl }

/-- READY sets, with the speed code and the lanes of the trained link (R288, R322). -/
def becomeReady (s : State) : State :=
  let s := settleControls (applyPresets s)
  let s := setRf s .hifStat 0 9 (if s.pcie.linkUp then 1 + (s.part.speed.val + 1) * 2 + 2 ^ s.part.lanes.val * 16 else 1)
  let s := { s with power := { s.power with state := .active }, pins := { s.pins with sysReady := true } }
  emit s (.notice [(reg s .secStat).toNat])

/-- READY (R431). -/
def execReady (s : State) : Host.Outcome State Fault Refusal :=
  .next (if isUp s || !clocksRun s then s else becomeReady s)

/-! ## Configuration requests (R323, R430) -/

/-- Every enabled context is torn down and scrubbed. -/
def tearAll (s : State) : State :=
  ((List.range 64).filter (ctxEnabled s)).foldl (fun s x => teardownNow s x none) s

/-- The TDI goes to ERROR. -/
def tdiError (s : State) : State := tearAll (setTdisp (advanceEpoch s) 3)

/-- The TDI is locked or runs. -/
def tdiHeld (s : State) : Bool := tdispState s == 1 || tdispState s == 2

/-- A size that the function supports (R288). -/
def sizeOr (sizes : List Nat) (v old : Nat) : Nat := if sizes.contains v then v else old

/-- What a configuration request sets. A vector that was pending and may be sent now is (R319). -/
def configure (s : State) : ConfigOp → State
  | .read _ => s
  | .assignBars => { s with pcie := { s.pcie with bars := true } }
  | .enables m b x k p =>
    let s := { s with pcie := { s.pcie with memSpace := m, busMaster := b, msixEn := x, msixMask := k, ptmEn := p } }
    (s.msixPend.map Prod.fst).foldl releaseVector s
  | .sizes p r => { s with pcie := { s.pcie with maxPayload := sizeOr [128, 256, 512] p s.pcie.maxPayload
                                                 maxRead := sizeOr [128, 256, 512, 1024, 2048, 4096] r s.pcie.maxRead } }

/-- What a capability shows (R288, R289, R319, R434, R472), number by number as log entry 148 lists them; nothing for one that
R288 does not list. -/
def capability (s : State) (c : PcieCap) : List Nat :=
  let b (p : Bool) : Nat := if p then 1 else 0
  match c with
  | .ids => [s.pcie.subVendor, s.pcie.subSystem]
  | .bars => [2 ^ 26, 2 ^ 22, if bar4Present s then 2 ^ 34 else 0, b s.pcie.bars, b s.pcie.memSpace, b s.pcie.busMaster]
  | .link => [6, 16, rf s .hifStat 1 3, rf s .hifStat 4 5]
  | .device => [512, s.pcie.maxPayload, 4096, s.pcie.maxRead]
  | .msix => [2048, 0x80000, 0x90000, b s.pcie.msixEn, b s.pcie.msixMask]
  | .ptm => [1, b s.pcie.ptmEn]
  | .aer | .doe | .ide | .tdisp | .flr => [1]
  | .other => []

/-- The registers that TDISP covers: the BARs and the enables (R400, DEDUCED, log entry 41). -/
def coveredChange (s : State) : ConfigOp → Bool
  | .read _ | .sizes _ _ => false
  | .assignBars => true
  | .enables m b x _ _ => m != s.pcie.memSpace || b != s.pcie.busMaster || x != s.pcie.msixEn

/-- CONFIGURATION_REQUEST: Request Retry Status until READY. -/
def execConfigurationRequest (op : ConfigOp) (s : State) : Host.Outcome State Fault Refusal :=
  .next (if !s.pcie.linkUp || !clocksRun s then s
    else if isUp s then
      let held := tdiHeld s && coveredChange s op
      let s := emit (configure s op) (.config false (match op with | .read c => capability s c | _ => []))
      if held then tdiError s else s
    else emit s (.config true []))

end Sys2Proof.Machine
end

