-- ==== Sys2Proof/Machine/Security.lean ====
section
/-! DEFINITION. SPDM, the key protocol, IDE and TDISP, alarms and the tenant change: GET_CERTIFICATE, CHALLENGE,
GET_MEASUREMENTS, KEY_EXCHANGE, KEY_UPDATE, END_SESSION, HEARTBEAT_TIMEOUT, SET_POLICY, PUT_SET_KEY, PUT_ADAPTER_KEY,
ERASE_KEY, PRESERVE, END_TENANCY, READ_LOG, IDE_KM, LOCK_INTERFACE, START_INTERFACE, STOP_INTERFACE,
IDE_STREAM_INSECURE, TENANT_CHANGE, TAMPER_INPUT, VOLTAGE_GLITCH, CLOCK_GLITCH, TEMPERATURE, CELL_LOW (R386 to R395,
R399, R400, R407 to R413, R453). -/

namespace Sys2Proof.Machine

/-- The DOE mailbox can be reached. -/
def doeOpen (s : State) : Bool := s.pcie.linkUp && isUp s

/-- Answer an SPDM request when the mailbox can be reached. -/
def spdm (s : State) (act : State → State) : State := if doeOpen s then act s else s

def spdmOk (s : State) (data : List Byte) : State := emit s (.spdm none data)
def spdmError (s : State) (name : String) : State := emit s (.spdm (some name) [])

/-! ## Identity and the report (R386, R387, R389, R391) -/

/-- GET_CERTIFICATE: slot 0 alone is populated. -/
def execGetCertificate (slot : Fin 8) (s : State) : Host.Outcome State Fault Refusal :=
  .next (spdm s fun s => if slot.val = 0 then spdmOk s Config.certChain else spdmError s "InvalidRequest")

/-- CHALLENGE: a signature over the requester's nonce and the chain (DESIGN CHOICE, log entry 8). -/
def execChallenge (nonce : BitVec 256) (s : State) : Host.Outcome State Fault Refusal :=
  .next (spdm s fun s => spdmOk s (Config.identitySign (leBytes 32 nonce.toNat ++ Config.certChain)))

/-- Block 1: the ROM digest. -/
def romDigest (s : State) : List Byte := (List.range 6).flatMap fun i => leBytes 8 (reg s (.idRomDigest i)).toNat

/-- Block 3: level, stepping, part number. -/
def levelBlock (s : State) : List Byte :=
  leBytes 1 (rf s .idLevel 0 8) ++ leBytes 1 (rf s .idLevel 16 8) ++ leBytes 8 (reg s .idPart).toNat

/-- Block 5: registered program images. -/
def programBlock (s : State) : List Byte :=
  s.ctxs.flatMap fun c => c.2.progs.flatMap fun p => match p.2 with
    | some g => leBytes 1 c.1 ++ leBytes 1 p.1 ++ leBytes 48 g.digest.toNat
    | none => []

/-- Block 6: loaded packages. -/
def packageBlock (s : State) : List Byte :=
  s.packages.flatMap fun p => match p.2 with
    | some g => leBytes 1 g.ctx ++ leBytes 1 p.1 ++ leBytes 1 (if g.frozen then 1 else 0) ++ leBytes 48 g.digest.toNat
    | none => []

/-- A leaf of the adapters' tree (R257). -/
def adpLeaf (k : Nat) (a : Adapter) : List Byte :=
  leBytes 48 (Config.sha384 ((0x00 : Byte) :: leBytes 2 k ++ leBytes 8 a.version ++ leBytes 48 a.origin.toNat)).toNat

/-- One level of the tree: an unpaired last node passes up. -/
def digestLevel : List (List Byte) → List (List Byte)
  | a :: b :: rest => leBytes 48 (Config.sha384 ((0x01 : Byte) :: a ++ b)).toNat :: digestLevel rest
  | l => l

/-- The root over some leaves, `k` levels at most: 65,536 leaves take 16. -/
def digestRoot : Nat → List (List Byte) → List Byte
  | _, [] => leBytes 48 0
  | _, [a] => a
  | 0, a :: _ => a
  | k + 1, l => digestRoot k (digestLevel l)

/-- Block 7: the count and the root of the LIVE adapters. -/
def adapterBlock (s : State) : List Byte :=
  let live := s.adapters.filter fun p => p.2.state == .live
  leBytes 4 live.length ++ digestRoot 16 (live.map fun p => adpLeaf p.1 p.2)

/-- The seven measurement blocks, each behind its index. -/
def measurements (s : State) : List Byte :=
  (1 : Byte) :: romDigest s ++ (2 : Byte) :: leBytes 48 s.part.digest.toNat ++ (3 : Byte) :: levelBlock s
    ++ (4 : Byte) :: leBytes 8 (reg s .secStat).toNat ++ (5 : Byte) :: programBlock s ++ (6 : Byte) :: packageBlock s
    ++ (7 : Byte) :: adapterBlock s

/-- GET_MEASUREMENTS: the signed report; Busy while CHANGING. -/
def execGetMeasurements (nonce : BitVec 256) (s : State) : Host.Outcome State Fault Refusal :=
  .next (spdm s fun s =>
    if secState s = 2 then spdmError s "Busy"
    else
      let body := measurements s ++ leBytes 32 nonce.toNat
      spdmOk s (body ++ Config.identitySign body))

/-! ## Sessions (R388) -/

/-- TENANT_KEY_HASH of the policy (R393). -/
def tenantKeyHash (s : State) : BitVec 384 := BitVec.ofNat 384 (bitsAt s.sec.policy.toNat 64 384)

/-- A session is a tenant session: any in OPEN; in CONFIDENTIAL one with mutual authentication under the policy's key. -/
def tenantSession (s : State) (keyHash : BitVec 384) (mutualAuth : Bool) : Bool :=
  secState s == 0 || (secState s == 1 && mutualAuth && keyHash == tenantKeyHash s)

/-- KEY_EXCHANGE: at most two sessions. -/
def execKeyExchange (keyHash : BitVec 384) (mutualAuth : Bool) (s : State) : Host.Outcome State Fault Refusal :=
  .next (spdm s fun s =>
    if 2 ≤ s.sec.sessions.length then spdmError s "ResponseNotReady"
    else
      let n := s.sec.nextSession
      let s := { s with sec := { s.sec with sessions := s.sec.sessions ++ [⟨n, tenantSession s keyHash mutualAuth⟩]
                                            nextSession := n + 1 } }
      spdmOk (refreshSec s) (leBytes 4 n))

def sessionOf (s : State) (n : Nat) : Option Session := s.sec.sessions.find? fun q => q.ident == n

/-- Close a session; the tenancy goes on. -/
def closeSession (s : State) (n : Nat) : State :=
  refreshSec { s with sec := { s.sec with sessions := s.sec.sessions.filter fun q => q.ident != n } }

/-- Act within an open session; a message of one that is not open is refused by the transport. -/
def inSession (s : State) (n : Nat) (act : State → Session → State) : State :=
  spdm s fun s => match sessionOf s n with
    | some q => act s q
    | none => spdmError s "InvalidSession"

/-- KEY_UPDATE: the keys of the session are renewed; nothing else changes. -/
def execKeyUpdate (session : Nat) (s : State) : Host.Outcome State Fault Refusal :=
  .next (inSession s session fun s _ => spdmOk s [])

/-- END_SESSION. -/
def execEndSession (session : Nat) (s : State) : Host.Outcome State Fault Refusal :=
  .next (inSession s session fun s _ => spdmOk (closeSession s session) [])

/-- HEARTBEAT_TIMEOUT. -/
def execHeartbeatTimeout (session : Nat) (s : State) : Host.Outcome State Fault Refusal :=
  .next (if (sessionOf s session).isSome then closeSession s session else s)

/-! ## The key protocol (R392 to R395, R408, R412) -/

def kpOk : Nat := 0
def kpBusy : Nat := 1
def kpRefused : Nat := 2
def kpNoSpace : Nat := 3
def kpMalformed : Nat := 4

def kpAnswer (s : State) (st : Nat) : State := emit s (.keyProtocol st [])

/-- A message in an open session; in CONFIDENTIAL in the tenant session alone. -/
def keyMessage (s : State) (n : Nat) (act : State → State) : State :=
  inSession s n fun s q => if secState s == 1 && !q.tenant then kpAnswer s kpRefused else act s

/-- The policy's reserved bits are 0 and CONFIDENTIAL is set (R393). -/
def policyOk (p : BitVec 512) : Bool :=
  p.toNat.testBit 0 && bitsAt p.toNat 4 60 == 0 && bitsAt p.toNat 448 64 == 0

/-- SET_POLICY. -/
def setPolicyNow (s : State) (p : BitVec 512) : State :=
  if !policyOk p then kpAnswer s kpMalformed
  else if secState s = 2 then kpAnswer s kpBusy
  else if secState s = 1 then kpAnswer s kpRefused
  else if (s.sec.alarmLogged || s.sec.domainLost) && !p.toNat.testBit 3 then kpAnswer s kpRefused
  else startChange { kpAnswer s kpOk with sec := { s.sec with nextPolicy := p } } 1

def execSetPolicy (session : Nat) (policy : BitVec 512) (s : State) : Host.Outcome State Fault Refusal :=
  .next (keyMessage s session fun s => setPolicyNow s policy)

/-- PUT_SET_KEY. -/
def putSetKeyNow (s : State) (id : Word) (key : BitVec 256) : State :=
  if (setKeyOf s id).isSome then kpAnswer s kpRefused
  else if 64 ≤ s.sec.setKeys.length then kpAnswer s kpNoSpace
  else kpAnswer (advanceEpoch { s with sec := { s.sec with setKeys := s.sec.setKeys ++ [(id, key)] } }) kpOk

def execPutSetKey (session : Nat) (setId : Word) (key : BitVec 256) (s : State) : Host.Outcome State Fault Refusal :=
  .next (keyMessage s session fun s => putSetKeyNow s setId key)

/-- PUT_ADAPTER_KEY. -/
def putAdapterKeyNow (s : State) (k : Nat) (key : BitVec 256) : State :=
  if (adpKey s k).isSome then kpAnswer s kpRefused
  else kpAnswer (advanceEpoch (setAdpKey s k (some ⟨key, none, 0⟩))) kpOk

def execPutAdapterKey (session : Nat) (slot : BitVec 16) (key : BitVec 256) (s : State) : Host.Outcome State Fault Refusal :=
  .next (keyMessage s session fun s => putAdapterKeyNow s slot.toNat key)

/-- ERASE_KEY of an adapter slot: refused while its adapter is LIVE or RETIRING, and waiting for the uses under way. -/
def eraseAdapterKey (s : State) (k : Nat) : State :=
  if 65536 ≤ k then kpAnswer s kpMalformed
  else if (adp s k).state == .live || (adp s k).state == .retiring then kpAnswer s kpRefused
  else if keyInUse s k then { s with sec := { s.sec with erases := s.sec.erases ++ [k] } }
  else eraseSlot s k

/-- ERASE_KEY. -/
def eraseKeyNow (s : State) (kind : Nat) (ident : Word) : State :=
  match kind with
  | 0 => kpAnswer (advanceEpoch { s with sec := { s.sec with setKeys := s.sec.setKeys.filter fun q => q.1 != ident } }) kpOk
  | 1 => eraseAdapterKey s ident.toNat
  | _ => kpAnswer s kpMalformed

def execEraseKey (session : Nat) (kind : Byte) (ident : Word) (s : State) : Host.Outcome State Fault Refusal :=
  .next (keyMessage s session fun s => eraseKeyNow s kind.toNat ident)

/-- The wrap secret of the always-on domain, drawn when it has none. -/
def haveWrap (s : State) : State :=
  if s.sec.wrapSecret.isSome then s
  else
    let r := drawKey s
    { r.2 with sec := { r.2.sec with wrapSecret := some r.1 } }

/-- PRESERVE: adapter keys, set keys and the policy go to flash (R412). -/
def preserveNow (s : State) : State :=
  if !(secState s == 1 && policyBit s 2) then kpAnswer s kpRefused
  else
    let s := haveWrap s
    let s := { s with sec := { s.sec with preserved := some (s.sec.adpKeys, s.sec.setKeys, s.sec.policy) } }
    kpAnswer (refreshSec (logEntry s 0x12 0)) kpOk

def execPreserve (session : Nat) (s : State) : Host.Outcome State Fault Refusal :=
  .next (keyMessage s session preserveNow)

/-- END_TENANCY. -/
def endTenancyNow (s : State) : State :=
  if secState s = 2 then kpAnswer s kpBusy
  else if secState s = 1 then startChange (kpAnswer s kpOk) 0
  else kpAnswer s kpRefused

def execEndTenancy (session : Nat) (s : State) : Host.Outcome State Fault Refusal :=
  .next (keyMessage s session endTenancyNow)

/-- READ_LOG: in any session. -/
def execReadLog (session : Nat) (s : State) : Host.Outcome State Fault Refusal :=
  .next (inSession s session fun s _ => emit s (.keyProtocol kpOk s.sec.log))

/-! ## IDE and TDISP (R399, R400) -/

/-- IDE_KM: a stream's key is programmed, and the stream is secure. -/
def execIdeKm (session : Nat) (stream : Fin 3) (key : BitVec 256) (s : State) : Host.Outcome State Fault Refusal :=
  .next (inSession s session fun s _ =>
    let s := { s with sec := { s.sec with ideKeys := s.sec.ideKeys.set stream.val key, ideSecure := s.sec.ideSecure.set stream.val true } }
    emit (refreshSec (advanceEpoch s)) (.tdisp true))

/-- A TDISP request: accepted with its new state, or not. -/
def tdispRequest (s : State) (n : Nat) (ok : State → Bool) (next : State → State) : State :=
  inSession s n fun s _ => if ok s then emit (next (advanceEpoch s)) (.tdisp true) else emit s (.tdisp false)

/-- LOCK_INTERFACE. -/
def execLockInterface (session : Nat) (s : State) : Host.Outcome State Fault Refusal :=
  .next (tdispRequest s session (fun s => secState s == 1 && tdispState s == 0 && !anyEnabled s && s.sec.ideSecure.any id)
    fun s => setTdisp s 1)

/-- START_INTERFACE. -/
def execStartInterface (session : Nat) (s : State) : Host.Outcome State Fault Refusal :=
  .next (tdispRequest s session (fun s => tdispState s == 1) fun s => setTdisp s 2)

/-- STOP_INTERFACE: a context lives only in RUN, so those that there are end with it. -/
def execStopInterface (session : Nat) (s : State) : Host.Outcome State Fault Refusal :=
  .next (tdispRequest s session (fun s => secState s == 1) fun s => setTdisp (tearAll s) 0)

/-- IDE_STREAM_INSECURE. -/
def execIdeStreamInsecure (stream : Fin 3) (s : State) : Host.Outcome State Fault Refusal :=
  let was := s.sec.ideSecure.getD stream.val false
  let s' := refreshSec { s with sec := { s.sec with ideSecure := s.sec.ideSecure.set stream.val false } }
  .next (if was && tdiHeld s then tdiError s' else s')

/-! ## The tenant change (R285, R403, R406, R407) -/

/-- Step 2: every context ends without its own scrub, and the peer links go down. -/
def endTenancyWork (s : State) : State :=
  portsDown (((List.range 64).filter (ctxEnabled s)).foldl (fun s x => setRf (endWork s x none) .ctxEnabled x 1 0) s)

/-- Step 3: the key store is zeroised, and new keys are drawn. -/
def newKeys (s : State) : State :=
  let s := { s with sec := { s.sec with adpKeys := [], setKeys := [], erases := [] }, packages := [], ddrCtr := [], withheld := [] }
  drawInterleave (drawMemKeys s)

/-- Step 4: everything is written with zeros; no frame stays backed and no snapshot stays. A channel that fails
trains no more. -/
def scrubAll (s : State) (failed : List Nat) : State :=
  let s := { s with mem := s.mem.filter fun c => decide (0x800000000000 ≤ c.1), poison := [], clean := [], tier := [], ctxs := [] }
  { s with part := { s.part with dimms := failed.foldl (fun ds d => ds.modify d fun m => { m with trains := false }) s.part.dimms } }

/-- Step 5: the policy is installed or cleared; flags clear under ACK_TAMPER. -/
def installPolicy (s : State) (target : Nat) : State :=
  let p : BitVec 512 := if target = 1 then s.sec.nextPolicy else 0
  let ack := target == 1 && p.toNat.testBit 3
  { s with sec := { s.sec with policy := p, nextPolicy := 0, target := none
                               alarmLogged := s.sec.alarmLogged && !ack, domainLost := s.sec.domainLost && !ack } }

/-- Step 6: the package-warm reset, and the end of the change in the log. -/
def closeChange (s : State) (target : Nat) (failed : List Nat) : State :=
  let s := setRf (setRf s .secStat 0 2 target) .secStat 13 1 (if target = 0 then 1 else 0)
  let s := logEntry (packageWarm s true) 0x11 0
  failed.foldl (fun s d => report s 0x30 1 (srcOf 4 d) none 4 0 0) s

/-- TENANT_CHANGE: the steps of the change that has been started. -/
def execTenantChange (failedDdr : List (Fin 12)) (s : State) : Host.Outcome State Fault Refusal :=
  let bad := failedDdr.map Fin.val
  .next (match s.sec.target with
    | some t =>
      if secState s = 2 ∧ clocksRun s then
        closeChange (installPolicy (scrubAll (newKeys (endTenancyWork s)) bad) t) t bad
      else s
    | none => s)

/-! ## Alarms (R408, R410, R453) -/

/-- The wrap secret is zeroised. -/
def dropWrap (s : State) : State :=
  if s.sec.wrapSecret.isSome then logEntry { s with sec := { s.sec with wrapSecret := none } } 0x14 0 else s

/-- The key store is zeroised at once. -/
def zeroiseStore (s : State) : State :=
  { s with sec := { s.sec with adpKeys := [], setKeys := [], erases := [], memKeys := [], interleave := none, policy := 0 }
           packages := [] }

/-- An alarm: on the cell alone the secret goes and the log is written; on the main supply the keys go too, and a tenant
change into OPEN follows. -/
def alarm (s : State) (code detail : Nat) : State :=
  let s := dropWrap (logEntry { s with sec := { s.sec with alarmLogged := true } } code detail)
  if onCell s then s
  else if secState s = 2 then
    refreshSec { zeroiseStore s with sec := { (zeroiseStore s).sec with target := some 0, nextPolicy := 0 } }
  else startChange (zeroiseStore s) 0

/-- TAMPER_INPUT. -/
def execTamperInput (input : Fin 2) (s : State) : Host.Outcome State Fault Refusal := .next (alarm s 0x03 input.val)

/-- VOLTAGE_GLITCH. -/
def execVoltageGlitch (s : State) : Host.Outcome State Fault Refusal := .next (alarm s 0x04 0)

/-- CLOCK_GLITCH. -/
def execClockGlitch (s : State) : Host.Outcome State Fault Refusal := .next (alarm s 0x05 0)

/-- TEMPERATURE. -/
def execTemperature (s : State) : Host.Outcome State Fault Refusal := .next (alarm s 0x06 0)

/-- CELL_LOW: logged on the cell alone; no alarm. -/
def execCellLow (s : State) : Host.Outcome State Fault Refusal := .next (if onCell s then logEntry s 0x07 0 else s)

end Sys2Proof.Machine
end

