-- ==== Sys2Proof/Machine/Power.lean ====
section
/-! DEFINITION. The supply, the power cap, temperature and the clocks: POWER_MEASUREMENT, THERMAL_SAMPLE, THERMAL_TRIP,
INPUT_LOW, INPUT_LOW_CLEARED, INPUT_LOSS, INPUT_LOSS_RECOVERY, INPUT_OVERCURRENT, RAIL_FAULT, PLL_UNLOCK (R419 to R428). -/

namespace Sys2Proof.Machine

/-- The regulators run: the package is booting or active (R421). -/
def powered (s : State) : Bool := s.power.state == .boot || s.power.state == .active

def setPower (s : State) (p : PowerSt) : State := { s with power := p }

/-- A supply or thermal record: its source is the package supply (R428). -/
def supplyReport (s : State) (code sev action info : Nat) : State := report s code sev (srcOf 9 0) none action info 0

/-! ## The power cap (R423, R424, R442) -/

def capWatts (s : State) : Nat := rf s .pwrCap 0 12

/-- b_cap after one window average: a step down above the cap and not below 2, a step up below 97 % of it; INPUT_LOW
holds it at 2. -/
def newCap (s : State) (w : Nat) : Nat :=
  let b := s.power.bCap
  if s.power.inputLow then 2
  else if capWatts s < w then (if b ≤ 2 then b else b - 1)
  else if 100 * w < 97 * capWatts s then min 16 (b + 1)
  else b

/-- The average is over the cap with nothing left to lower. -/
def capExceeded (s : State) (w : Nat) : Bool := decide (capWatts s < w) && decide (s.power.bCap ≤ 2)

/-- A measurement: INPUT_W, the energy of the 10 µs that it covers, the ceiling, and CAP_UNMET once a period. -/
def measure (s : State) (w : Nat) : State :=
  let unmet := capExceeded s w
  let first := unmet && !s.power.capUnmet
  let at' := if first then some s.sec.rtc else s.power.capAt
  let s := setPower s { s.power with bCap := newCap s w, inputW := w, energy := s.power.energy + 10 * w
                                     capUnmet := unmet, capAt := at' }
  if first then supplyReport s 0x50 1 0 w else s

/-- POWER_MEASUREMENT. -/
def execPowerMeasurement (windowAverage : Nat) (s : State) : Host.Outcome State Fault Refusal :=
  .next (if powered s then measure s windowAverage else s)

/-! ## Temperature (R425, R426) -/

def throttlePoint (s : State) : Nat := rf s .pwrTherm 0 8
def hysteresis (s : State) : Nat := rf s .pwrTherm 8 4

/-- b_therm of a compute die after one sample of its hottest sensor. -/
def newTherm (s : State) (b t : Nat) : Nat :=
  if 105 ≤ t then 2
  else if throttlePoint s ≤ t then (if b ≤ 2 then b else b - 1)
  else if t < throttlePoint s - hysteresis s then min 16 (b + 1)
  else b

/-- INFO of a thermal record. -/
def thermInfo (unit t : Nat) : Nat := unit % 256 + min 255 t * 2 ^ 8

/-- The number that a thermal record gives a unit of `PowerSt.throttling`: die 0 to 5, or stack 0 to 7 (DEDUCED, log entry 40). -/
def thermUnit (u : Nat) : Nat := if u < 6 then u else u - 6

/-- A unit's throttling starts or ends. -/
def setThrottling (s : State) (u t : Nat) (on : Bool) : State :=
  if s.power.throttling.getD u false == on then s
  else supplyReport (setPower s { s.power with throttling := s.power.throttling.set u on }) 0x51 0 0
    (thermInfo (thermUnit u) t + if on then 2 ^ 16 else 0)

/-- A unit reaches 105 °C, or leaves it. -/
def setLimited (s : State) (u t : Nat) : State :=
  let on := decide (105 ≤ t)
  if s.power.limited.getD u false == on then s
  else
    let s := setPower s { s.power with limited := s.power.limited.set u on }
    if on then supplyReport s 0x52 1 0 (thermInfo (thermUnit u) t) else s

def setTherm (s : State) (d b : Nat) : State := setPower s { s.power with bTherm := s.power.bTherm.set d b }

/-- One sample of a compute die: it throttles from the first reading at THROTTLE until its ceiling is back at 16 (DEDUCED, log
entry 40). -/
def sampleDie (ts : List Nat) (s : State) (d : Nat) : State :=
  let t := ts.getD d 0
  let b := newTherm s (s.power.bTherm.getD d 16) t
  let on := decide (throttlePoint s ≤ t) || (s.power.throttling.getD d false && decide (b < 16))
  setLimited (setThrottling (setTherm s d b) d t on) d t

/-- One sample of a hub die, or of a stack: a stack at 105 °C lowers the ceiling of its die. -/
def sampleOther (u t : Nat) (s : State) : State :=
  let s := if 6 ≤ u ∧ 105 ≤ t then setTherm s ((u - 6) / 2) 2 else s
  setLimited (setThrottling s u t (decide (throttlePoint s ≤ t))) u t

/-- PWR_TEMP. -/
def tempWord (dies hubs : List Nat) : Word :=
  BitVec.ofNat 64 ((List.range 6).foldl (fun n i => n + min 255 ((dies.take 4 ++ List.replicate (4 - dies.length) 0 ++ hubs).getD i 0) * 2 ^ (8 * i)) 0)

/-- The hottest of some sensors. -/
def hottestOf (ts : List Nat) : Nat := ts.foldl max 0

def sampleAll (s : State) (dies hubs hbms : List Nat) : State :=
  let s := (List.range 4).foldl (sampleDie dies) s
  let s := (List.range 2).foldl (fun s i => sampleOther (4 + i) (hubs.getD i 0) s) s
  let s := (List.range 8).foldl (fun s i => sampleOther (6 + i) (hbms.getD i 0) s) s
  let s := setReg s .pwrTemp (tempWord dies hubs)
  setPower s { s.power with hot := hottestOf (dies ++ hubs ++ hbms) }

/-- THERMAL_SAMPLE; while the rails are down the reading alone is kept, which a cold reset asks for (R426, DEDUCED, log entry 40). -/
def execThermalSample (dieTemps : List Nat) (hubTemps : List Nat) (stackTemps : List Nat) (s : State) :
    Host.Outcome State Fault Refusal :=
  .next (if powered s then sampleAll s dieTemps hubTemps stackTemps
    else setPower s { s.power with hot := hottestOf (dieTemps ++ hubTemps ++ stackTemps) })

/-- Turn rails off, in the order of R420: VARR 0-3, VSRAM 4-7, VLOG 8-13, VPHY 14-15, VHBM 16-23, VAON 24. -/
def railsOff (s : State) (rs : List Nat) : State :=
  setPower s { s.power with rails := rs.foldl (fun l i => l.set i false) s.power.rails }

/-- The rails of the compute dies and of HBM. -/
def computeRails : List Nat := List.range 12 ++ (List.range 8).map (16 + ·)

/-- THERMAL_TRIP: the comparators act at 115 °C. -/
def execThermalTrip (unit : Byte) (temp : Byte) (s : State) : Host.Outcome State Fault Refusal :=
  .next (if powered s then
      let s := railsOff s computeRails
      let s := { s with power := { s.power with hot := max s.power.hot temp.toNat }, pins := { s.pins with sysThermtripN := false } }
      failPackage (supplyReport s 0x53 3 9 (thermInfo unit.toNat temp.toNat))
    else s)

/-! ## The input supply (R427) -/

/-- INPUT_LOW. -/
def execInputLow (millivolts : BitVec 16) (s : State) : Host.Outcome State Fault Refusal :=
  .next (if powered s then
      supplyReport (setPower s { s.power with bCap := 2, inputLow := true }) 0x54 1 0 millivolts.toNat
    else s)

/-- INPUT_LOW_CLEARED: b_cap rises again under R423. -/
def execInputLowCleared (s : State) : Host.Outcome State Fault Refusal :=
  .next (setPower s { s.power with inputLow := false })

/-- What is left without 12 V: the flash and the always-on domain on its cell (R377, R421). -/
def powerLoss (s : State) : State :=
  let c := coldCore s
  { c with power := { c.power with state := .off, rails := (List.range 25).map fun i => i == 24 }
           pcie := { c.pcie with linkUp := false }, failed := s.failed
           pins := { c.pins with sysFaultN := s.pins.sysFaultN, sysThermtripN := s.pins.sysThermtripN } }

/-- INPUT_LOSS: the power-down entry is written while 12 V still feeds the domain. -/
def execInputLoss (s : State) : Host.Outcome State Fault Refusal :=
  .next (if onCell s then s else powerLoss (logEntry s 0x02 0))

/-- INPUT_LOSS_RECOVERY. -/
def execInputLossRecovery (b : Board) (s : State) : Host.Outcome State Fault Refusal :=
  .next (if onCell s then coldReset s b else s)

/-- INPUT_OVERCURRENT. -/
def execInputOvercurrent (amps : BitVec 16) (s : State) : Host.Outcome State Fault Refusal :=
  .next (if powered s then supplyReport (setPower s { s.power with bCap := 2 }) 0x55 1 0 amps.toNat else s)

/-- The rails of the die that a rail belongs to; a stack belongs to its compute die (DEDUCED, log entry 40). -/
def railsOfDie (r : Nat) : List Nat :=
  if r < 12 then [r % 4, 4 + r % 4, 8 + r % 4]
  else if r < 16 then [12 + r % 2, 14 + r % 2]
  else if r < 24 then [(r - 16) / 2, 4 + (r - 16) / 2, 8 + (r - 16) / 2, r]
  else []

/-- RAIL_FAULT: with a hub die's rails the PCIe link goes down (R352). -/
def execRailFault (rail : Fin 25) (s : State) : Host.Outcome State Fault Refusal :=
  .next (if powered s then
      let s := railsOff s (railsOfDie rail.val)
      let s := if 12 ≤ rail.val ∧ rail.val < 16 then { s with pcie := { s.pcie with linkUp := false } } else s
      failPackage (supplyReport s 0x56 3 9 rail.val)
    else s)

/-- PLL_UNLOCK. -/
def execPllUnlock (lockLost : Bool) (s : State) : Host.Outcome State Fault Refusal :=
  .next (if clocksRun s then clocksLost s lockLost else s)

end Sys2Proof.Machine
end

