-- ==== Sys2Proof/Machine/Monitor.lean ====
section
/-! DEFINITION. The management SMBus, the Sceusk monitor and boundary scan: SMB_READ_STATUS, SMB_READ_TEMPERATURE,
SMB_READ_POWER, SMB_READ_VOLTAGE, SMB_READ_POWER_CAP, SMB_WRITE_POWER_CAP, SMB_READ_FAILREC, SMB_ALERT_RESPONSE, HELP,
STATUS, LOG, FAILREC, REGR, REGW, MEMR, RESET, MONITOR_UNKNOWN_LINE, EXTEST, IDCODE, BYPASS (R456 to R461). -/

namespace Sys2Proof.Machine

/-! ## The SMBus target (R457) -/

/-- 12 V is present, and with it the management rails. -/
def managed (s : State) : Bool := s.power.state != .off

/-- Serve an SMBus command. -/
def smb (s : State) (act : State → State) : State := if managed s then act s else s

def smbWord (s : State) (v : Nat) : State := emit s (.smbus [v])

/-- CAP_UNMET has been reported within the last second. -/
def capUnmetLately (s : State) : Bool :=
  match s.power.capAt with
  | some t => decide (s.sec.rtc ≤ t + 1000000000)
  | none => false

/-- The status word of command 0x00. -/
def smbStatus (s : State) : Nat :=
  let b (p : Bool) : Nat := if p then 1 else 0
  b (isUp s) + secState s * 2 + b (bitOf (reg s .secStat) 2) * 8 + b s.failed * 16 + b (s.power.throttling.contains true) * 32
    + b (capUnmetLately s) * 64

/-- SMB_READ_STATUS. -/
def execSmbReadStatus (s : State) : Host.Outcome State Fault Refusal := .next (smb s fun s => smbWord s (smbStatus s))

/-- SMB_READ_TEMPERATURE. -/
def execSmbReadTemperature (s : State) : Host.Outcome State Fault Refusal := .next (smb s fun s => smbWord s s.power.hot)

/-- SMB_READ_POWER. -/
def execSmbReadPower (s : State) : Host.Outcome State Fault Refusal := .next (smb s fun s => smbWord s (s.power.inputW % 2 ^ 16))

/-- SMB_READ_VOLTAGE: the voltage at PWR_SENSE, which the row brings, in units of 10 mV. -/
def execSmbReadVoltage (millivolts : BitVec 20) (s : State) : Host.Outcome State Fault Refusal :=
  .next (smb s fun s => smbWord s (millivolts.toNat / 10))

/-- SMB_READ_POWER_CAP. -/
def execSmbReadPowerCap (s : State) : Host.Outcome State Fault Refusal := .next (smb s fun s => smbWord s (capWatts s))

/-- SMB_WRITE_POWER_CAP: a word outside the cap's range stores the nearer limit (R424). -/
def execSmbWritePowerCap (watts : BitVec 16) (s : State) : Host.Outcome State Fault Refusal :=
  .next (smb s fun s => writeReg (dropLatch s .smbus) .smbus .pwrCap (BitVec.ofNat 64 (min 4095 watts.toNat)))

/-- A count in one byte; one that has no byte answers a free value (DESIGN CHOICE, log entry 1). -/
def countByte (s : State) (n : Nat) : Nat × State :=
  if n < 256 then (n, s) else ((draw s).1.toNat % 256, (draw s).2)

def clustersFailed (s : State) : Nat := (List.range 6).foldl (fun n i => n + popCount (reg s (.fltFailClu i)).toNat 64) 0

/-- SMB_READ_FAILREC: clusters failed, regions failed, links at half width. -/
def execSmbReadFailrec (s : State) : Host.Outcome State Fault Refusal :=
  .next (smb s fun s =>
    let c := countByte s (clustersFailed s)
    emit c.2 (.smbus [c.1, popCount (rf s .fltFailRgn 0 36) 36, popCount (rf s .fltFailD2d 0 15) 15]))

/-- The target's 7-bit address. -/
def smbAddress (s : State) : Nat := 0x58 + rf s .peerId 0 6 % 8

/-- SMB_ALERT_RESPONSE: a target that holds the line low answers with its address and releases it. -/
def execSmbAlertResponse (s : State) : Host.Outcome State Fault Refusal :=
  .next (if managed s && !s.pins.smbAlertN then
      smbWord { s with pins := { s.pins with smbAlertN := true } } (smbAddress s)
    else s)

/-! ## The Sceusk monitor (R458 to R461) -/

def monOk (s : State) (data : List Nat) : State := emit s (.monitor none data)
def monErr (s : State) (name : String) : State := emit s (.monitor (some name) [])

/-- FAILED, with a code that the spec does not name (DESIGN CHOICE, log entry 1). -/
def monFailed (s : State) : State := emit (draw s).2 (.monitor (some "FAILED") [(draw s).1.toNat % 256])

/-- A line is read while the monitor runs; characters that come before that are discarded. -/
def monitorLine (s : State) (act : State → State) : State := if monitorRuns s then act s else s

/-- A command that OPEN alone allows: LOCKED in CONFIDENTIAL, BUSY in CHANGING (R460). -/
def openOnly (s : State) (act : State → State) : State :=
  monitorLine s fun s =>
    if secState s = 0 then act s else if secState s = 1 then monErr s "LOCKED" else monErr s "BUSY"

/-- The commands of R460 in its order that are available now: HELP 0, STATUS 1, LOG 2, FAILREC 3, REGR 4, REGW 5,
MEMR 6, RESET 7. -/
def available (s : State) : List Nat :=
  if secState s = 0 then List.range 8 else if secState s = 1 then [0, 1, 2, 3] else [0, 1, 2]

/-- HELP. -/
def execHelp (s : State) : Host.Outcome State Fault Refusal := .next (monitorLine s fun s => monOk s (available s))

/-- STATUS: part number, behaviour level, stepping, SET_STAT, the security-state word, PWR_STAT, PWR_TEMP, FLT_STAT. -/
def execStatus (s : State) : Host.Outcome State Fault Refusal :=
  .next (monitorLine s fun s => monOk s
    [(readReg s .idPart).toNat, rf s .idLevel 0 8, rf s .idLevel 16 8, (readReg s .setStat).toNat, (readReg s .secStat).toNat,
      (readReg s .pwrStat).toNat, (readReg s .pwrTemp).toNat, (readReg s .fltStat).toNat])

/-- The newest entries of the battery log, oldest first. -/
def newestLog (s : State) (n : Nat) : List Nat := (s.sec.log.drop (s.sec.log.length - n)).map BitVec.toNat

/-- LOG. -/
def execLog (n : Option Nat) (s : State) : Host.Outcome State Fault Refusal :=
  .next (monitorLine s fun s =>
    let k := n.getD 16
    if 1 ≤ k ∧ k ≤ 512 then monOk s (newestLog s k) else monErr s "ARGS")

/-- The failure record, as its registers show it. -/
def failrecWords (s : State) : List Nat :=
  (List.range 6).map (fun i => (reg s (.fltFailClu i)).toNat) ++ [(reg s .fltFailRgn).toNat, (reg s .fltFailD2d).toNat]

/-- FAILREC. -/
def execFailrec (s : State) : Host.Outcome State Fault Refusal :=
  .next (monitorLine s fun s => if secState s = 2 then monErr s "BUSY" else monOk s (failrecWords s))

/-- The 64 bits at an aligned offset, the MSI-X structures included. -/
def read64 (s : State) (off : Nat) : Nat :=
  if inMsix off then (msixRead s off).toNat + (msixRead s (off + 4)).toNat * 2 ^ 32 else (readAt s off).toNat

/-- REGR: a misaligned read fails (R464). -/
def execRegr (offset : BitVec 26) (s : State) : Host.Outcome State Fault Refusal :=
  .next (openOnly s fun s =>
    let s := dropLatch s .monitor
    if offset.toNat % 8 = 0 then monOk s [read64 s offset.toNat] else monFailed s)

/-- The window of the SEC block (R463). -/
def inSec (off : Nat) : Bool := decide (0x800000 ≤ off) && decide (off < 0x900000)

/-- REGW: the SEC block is LOCKED; a misaligned write is logged (R464). -/
def execRegw (offset : BitVec 26) (value : Word) (s : State) : Host.Outcome State Fault Refusal :=
  .next (openOnly s fun s =>
    if inSec offset.toNat then monErr s "LOCKED"
    else
      let s := barWrite s .monitor offset.toNat 8 value
      if offset.toNat % 8 = 0 then monOk s [] else monFailed s)

/-- MEMR: what BAR4 would refuse fails and is counted; a poisoned line fails with POISON_IN (R290). -/
def execMemr (addr : Addr) (n : Nat) (s : State) : Host.Outcome State Fault Refusal :=
  .next (openOnly s fun s =>
    if ¬ (1 ≤ n ∧ n ≤ 256) then monErr s "ARGS"
    else if (bar4Targets s addr.toNat n).contains .refused then monFailed (bump s .hifBar4ErrCnt)
    else if anyPoison s addr.toNat n then emit s (.monitor (some "FAILED") [stPoisonIn])
    else monOk s ((readBytes s addr.toNat n).map BitVec.toNat))

/-- RESET: as FLT_RESET at SCOPE 3, 4 or 5 and TARGET 0; the reply precedes the reset. -/
def execReset (scope : Nat) (s : State) : Host.Outcome State Fault Refusal :=
  .next (openOnly s fun s =>
    if 3 ≤ scope ∧ scope ≤ 5 then resetWrite (monOk s []) (resetWord scope 0) else monErr s "ARGS")

/-- MONITOR_UNKNOWN_LINE. -/
def execMonitorUnknownLine (long : Bool) (s : State) : Host.Outcome State Fault Refusal :=
  .next (monitorLine s fun s => monErr s (if long then "LONG" else "UNKNOWN"))

/-! ## Boundary scan (R456) -/

/-- EXTEST drives pins in STANDBY; at other times the port answers BYPASS. -/
def execExtest (s : State) : Host.Outcome State Fault Refusal :=
  .next (smb s fun s => emit s (.scan none (s.power.state == .standby)))

/-- IDCODE. -/
def execIdcode (s : State) : Host.Outcome State Fault Refusal :=
  .next (smb s fun s => emit s (.scan (some (rf s .idIdcode 0 32)) false))

/-- BYPASS. -/
def execBypass (s : State) : Host.Outcome State Fault Refusal := .next (smb s fun s => emit s (.scan none false))

end Sys2Proof.Machine
end

