-- ==== Sys2Proof/Machine/Rings.lean ====
section
/-! DEFINITION. The rows of the ring processor: each reads its command at SUB_HEAD of a ring, checks it and runs it
(R295, R299). -/

namespace Sys2Proof.Machine

/-! ## MOVE (R177 to R179) -/

/-- COPY (R178). -/
def execCopy (c : MoveRow) (s : State) : Host.Outcome State Fault Refusal :=
  .next (withHalt c.cut (ringRow .copy runCopy c.cmd) s)

/-- ZERO (R178). -/
def execZero (c : MoveRow) (s : State) : Host.Outcome State Fault Refusal :=
  .next (withHalt c.cut (ringRow .zero runZero c.cmd) s)

/-- PIN (R179). -/
def execPin (c : Cmd) (s : State) : Host.Outcome State Fault Refusal :=
  .next (ringRow .pin runPin c s)

/-- UNPIN (R179). -/
def execUnpin (c : Cmd) (s : State) : Host.Outcome State Fault Refusal :=
  .next (ringRow .unpin runUnpin c s)

/-- PLANES (R179). -/
def execPlanes (c : Cmd) (s : State) : Host.Outcome State Fault Refusal :=
  .next (ringRow .planes runPlanes c s)

/-- RELEASE (R179). -/
def execMoveRelease (c : Cmd) (s : State) : Host.Outcome State Fault Refusal :=
  .next (ringRow .moveRelease runMoveRelease c s)

/-! ## MMA (R85) -/

/-- MMA, with what goes wrong in its arrays (R75 to R79, R85 to R101). -/
def execMma (c : Cmd) (ev : List ArrEvent) (s : State) : Host.Outcome State Fault Refusal :=
  .next (ringRowWith .mma runMma ev c s)

/-! ## VEC (R102, R103) -/

/-- ADD. -/
def execAdd (c : Cmd) (s : State) : Host.Outcome State Fault Refusal :=
  .next (ringRow .add (runVec .add) c s)

/-- MUL. -/
def execMul (c : Cmd) (s : State) : Host.Outcome State Fault Refusal :=
  .next (ringRow .mul (runVec .mul) c s)

/-- AXPBY. -/
def execAxpby (c : Cmd) (s : State) : Host.Outcome State Fault Refusal :=
  .next (ringRow .axpby (runVec .axpby) c s)

/-- SCALE. -/
def execScale (c : Cmd) (s : State) : Host.Outcome State Fault Refusal :=
  .next (ringRow .scale (runVec .scale) c s)

/-- CONVERT. -/
def execConvert (c : Cmd) (s : State) : Host.Outcome State Fault Refusal :=
  .next (ringRow .convert (runVec .convert) c s)

/-- TRANSPOSE. -/
def execTranspose (c : Cmd) (s : State) : Host.Outcome State Fault Refusal :=
  .next (ringRow .transpose (runVec .transpose) c s)

/-- RELU. -/
def execRelu (c : Cmd) (s : State) : Host.Outcome State Fault Refusal :=
  .next (ringRow .relu (runVec .relu) c s)

/-- GELU. -/
def execGelu (c : Cmd) (s : State) : Host.Outcome State Fault Refusal :=
  .next (ringRow .gelu (runVec .gelu) c s)

/-- SILU. -/
def execSilu (c : Cmd) (s : State) : Host.Outcome State Fault Refusal :=
  .next (ringRow .silu (runVec .silu) c s)

/-- RELU_BWD. -/
def execReluBwd (c : Cmd) (s : State) : Host.Outcome State Fault Refusal :=
  .next (ringRow .reluBwd (runVec .reluBwd) c s)

/-- GELU_BWD. -/
def execGeluBwd (c : Cmd) (s : State) : Host.Outcome State Fault Refusal :=
  .next (ringRow .geluBwd (runVec .geluBwd) c s)

/-- SILU_BWD. -/
def execSiluBwd (c : Cmd) (s : State) : Host.Outcome State Fault Refusal :=
  .next (ringRow .siluBwd (runVec .siluBwd) c s)

/-- RMSNORM. -/
def execRmsnorm (c : Cmd) (s : State) : Host.Outcome State Fault Refusal :=
  .next (ringRow .rmsnorm (runVec .rmsnorm) c s)

/-- LAYERNORM. -/
def execLayernorm (c : Cmd) (s : State) : Host.Outcome State Fault Refusal :=
  .next (ringRow .layernorm (runVec .layernorm) c s)

/-- RMSNORM_BWD. -/
def execRmsnormBwd (c : Cmd) (s : State) : Host.Outcome State Fault Refusal :=
  .next (ringRow .rmsnormBwd (runNormBwd false) c s)

/-- LAYERNORM_BWD. -/
def execLayernormBwd (c : Cmd) (s : State) : Host.Outcome State Fault Refusal :=
  .next (ringRow .layernormBwd (runNormBwd true) c s)

/-- ROWMAX. -/
def execRowmax (c : Cmd) (s : State) : Host.Outcome State Fault Refusal :=
  .next (ringRow .rowmax (runVec .rowmax) c s)

/-- EXP_SUB. -/
def execExpSub (c : Cmd) (s : State) : Host.Outcome State Fault Refusal :=
  .next (ringRow .expSub (runVec .expSub) c s)

/-- ROWSUM. -/
def execRowsum (c : Cmd) (s : State) : Host.Outcome State Fault Refusal :=
  .next (ringRow .rowsum (runVec .rowsum) c s)

/-- ROWDIV. -/
def execRowdiv (c : Cmd) (s : State) : Host.Outcome State Fault Refusal :=
  .next (ringRow .rowdiv (runVec .rowdiv) c s)

/-- TOPK. -/
def execTopk (c : Cmd) (s : State) : Host.Outcome State Fault Refusal :=
  .next (ringRow .topk runTopk c s)

/-- DISTILL_GRAD with MODE STATS (R205); a reserved MODE is refused here too. -/
def execDistillGradStats (c : Cmd) (s : State) : Host.Outcome State Fault Refusal :=
  .next (if rowMode c s = 1 then s else ringRow .distillStats runDistill c s)

/-- DISTILL_GRAD with MODE GRAD (R205). -/
def execDistillGradGrad (c : Cmd) (s : State) : Host.Outcome State Fault Refusal :=
  .next (if rowMode c s = 1 then ringRow .distillStats runDistill c s else s)

/-- SUM. -/
def execSum (c : Cmd) (s : State) : Host.Outcome State Fault Refusal :=
  .next (ringRow .sum (runVec .sum) c s)

/-- SUMSQ. -/
def execSumsq (c : Cmd) (s : State) : Host.Outcome State Fault Refusal :=
  .next (ringRow .sumsq (runVec .sumsq) c s)

/-- AMAX. -/
def execAmax (c : Cmd) (s : State) : Host.Outcome State Fault Refusal :=
  .next (ringRow .amax (runVec .amax) c s)

/-- SCALE_SET. -/
def execScaleSet (c : Cmd) (s : State) : Host.Outcome State Fault Refusal :=
  .next (ringRow .scaleSet runScaleSet c s)

/-- SGD_MOM. -/
def execSgdMom (c : Cmd) (s : State) : Host.Outcome State Fault Refusal :=
  .next (ringRow .sgdMom (runOpt .sgdMom) c s)

/-- ADAM. -/
def execAdam (c : Cmd) (s : State) : Host.Outcome State Fault Refusal :=
  .next (ringRow .adam (runOpt .adam) c s)

/-- ADAMW. -/
def execAdamw (c : Cmd) (s : State) : Host.Outcome State Fault Refusal :=
  .next (ringRow .adamw (runOpt .adamw) c s)

/-! ## ATTN (R111) -/

/-- FWD. -/
def execFwd (c : Cmd) (s : State) : Host.Outcome State Fault Refusal :=
  .next (ringRow .fwd runFwd c s)

/-- BWD. -/
def execBwd (c : Cmd) (s : State) : Host.Outcome State Fault Refusal :=
  .next (ringRow .bwd (runBwd false) c s)

/-- BWD_P. -/
def execBwdP (c : Cmd) (s : State) : Host.Outcome State Fault Refusal :=
  .next (ringRow .bwdP (runBwd true) c s)

/-- APPEND. -/
def execAppend (c : Cmd) (s : State) : Host.Outcome State Fault Refusal :=
  .next (ringRow .append runAppend c s)

/-- ATTN_COMBINE. -/
def execAttnCombine (c : Cmd) (s : State) : Host.Outcome State Fault Refusal :=
  .next (ringRow .attnCombine runCombine c s)

/-! ## COLL (R273) -/

/-- ALLREDUCE. -/
def execAllreduce (c : Cmd) (s : State) : Host.Outcome State Fault Refusal :=
  .next (ringRow .allreduce (runColl .allreduce) c s)

/-- REDUCE_SCATTER. -/
def execReduceScatter (c : Cmd) (s : State) : Host.Outcome State Fault Refusal :=
  .next (ringRow .reduceScatter (runColl .reduceScatter) c s)

/-- ALLGATHER. -/
def execAllgather (c : Cmd) (s : State) : Host.Outcome State Fault Refusal :=
  .next (ringRow .allgather (runColl .allgather) c s)

/-- ALLTOALL. -/
def execAlltoall (c : Cmd) (s : State) : Host.Outcome State Fault Refusal :=
  .next (ringRow .alltoall (runColl .alltoall) c s)

/-- DISPATCH. -/
def execDispatch (c : Cmd) (s : State) : Host.Outcome State Fault Refusal :=
  .next (ringRow .dispatch (runColl .dispatch) c s)

/-- COLL_COMBINE. -/
def execCollCombine (c : Cmd) (s : State) : Host.Outcome State Fault Refusal :=
  .next (ringRow .collCombine (runColl .collCombine) c s)

/-- COMPRESSED. -/
def execCompressed (c : Cmd) (s : State) : Host.Outcome State Fault Refusal :=
  .next (ringRow .compressed (runColl .compressed) c s)

/-! ## SYNC, STEP, ADMIT (R300, R219, R130) -/

/-- SYNC. -/
def execSync (c : Cmd) (s : State) : Host.Outcome State Fault Refusal :=
  .next (ringRow .sync runSync c s)

/-- STEP. -/
def execStep (c : Cmd) (s : State) : Host.Outcome State Fault Refusal :=
  .next (ringRow .step runStep c s)

/-- ADMIT. -/
def execAdmitTable (c : Cmd) (s : State) : Host.Outcome State Fault Refusal :=
  .next (ringRow .admitTable runAdmit c s)

/-! ## SNAP (R370) -/

/-- TAKE. -/
def execTake (c : Cmd) (s : State) : Host.Outcome State Fault Refusal :=
  .next (ringRow .take runTake c s)

/-- RESTORE; `failsAt` is the slab whose read fails (R372). -/
def execRestore (c : Cmd) (failsAt : Option Nat) (s : State) : Host.Outcome State Fault Refusal :=
  .next (ringRow .restore (runRestore failsAt) c s)

/-- RESTORE_FROM (R373). -/
def execRestoreFrom (c : Cmd) (parts : List SnapPart) (lost : Bool) (s : State) : Host.Outcome State Fault Refusal :=
  .next (restoreRow c parts lost s)

/-! ## CALL (R303) -/

/-- INVOKE; the events strike the arrays while its program runs. -/
def execInvoke (c : CallRow) (s : State) : Host.Outcome State Fault Refusal :=
  .next (ringRowWith .invoke runInvoke c.ev c.cmd s)

/-- REGISTER. -/
def execRegister (c : Cmd) (s : State) : Host.Outcome State Fault Refusal :=
  .next (ringRow .register runRegister c s)

/-- CALL_RELEASE. -/
def execCallRelease (c : Cmd) (s : State) : Host.Outcome State Fault Refusal :=
  .next (ringRow .callRelease runCallRelease c s)

/-! ## TEL (R308) -/

/-- ASSAY_READ. -/
def execAssayRead (c : Cmd) (s : State) : Host.Outcome State Fault Refusal :=
  .next (ringRow .assayRead runAssayRead c s)

/-- ASSAY_CLEAR. -/
def execAssayClear (c : Cmd) (s : State) : Host.Outcome State Fault Refusal :=
  .next (ringRow .assayClear runAssayClear c s)

/-- ASSAY_READ_CLEAR. -/
def execAssayReadClear (c : Cmd) (s : State) : Host.Outcome State Fault Refusal :=
  .next (ringRow .assayReadClear runAssayReadClear c s)

/-- CTX_READ. -/
def execCtxRead (c : Cmd) (s : State) : Host.Outcome State Fault Refusal :=
  .next (ringRow .ctxRead runCtxRead c s)

end Sys2Proof.Machine
end

