-- ==== Sys2Proof/Machine/Dispatch.lean ====
section
/-! DEFINITION. The meaning of every command, one arm per constructor of Instr. -/

namespace Sys2Proof.Machine

/-- The effect of a command on everything but the queue. -/
def exec (i : Instr) (s : State) : Host.Outcome State Fault Refusal :=
  match i with
  | .copy c => Sys2Proof.Machine.execCopy c s
  | .zero c => Sys2Proof.Machine.execZero c s
  | .pin c => Sys2Proof.Machine.execPin c s
  | .unpin c => Sys2Proof.Machine.execUnpin c s
  | .planes c => Sys2Proof.Machine.execPlanes c s
  | .moveRelease c => Sys2Proof.Machine.execMoveRelease c s
  | .mma c ev => Sys2Proof.Machine.execMma c ev s
  | .add c => Sys2Proof.Machine.execAdd c s
  | .mul c => Sys2Proof.Machine.execMul c s
  | .axpby c => Sys2Proof.Machine.execAxpby c s
  | .scale c => Sys2Proof.Machine.execScale c s
  | .convert c => Sys2Proof.Machine.execConvert c s
  | .transpose c => Sys2Proof.Machine.execTranspose c s
  | .relu c => Sys2Proof.Machine.execRelu c s
  | .gelu c => Sys2Proof.Machine.execGelu c s
  | .silu c => Sys2Proof.Machine.execSilu c s
  | .reluBwd c => Sys2Proof.Machine.execReluBwd c s
  | .geluBwd c => Sys2Proof.Machine.execGeluBwd c s
  | .siluBwd c => Sys2Proof.Machine.execSiluBwd c s
  | .rmsnorm c => Sys2Proof.Machine.execRmsnorm c s
  | .layernorm c => Sys2Proof.Machine.execLayernorm c s
  | .rmsnormBwd c => Sys2Proof.Machine.execRmsnormBwd c s
  | .layernormBwd c => Sys2Proof.Machine.execLayernormBwd c s
  | .rowmax c => Sys2Proof.Machine.execRowmax c s
  | .expSub c => Sys2Proof.Machine.execExpSub c s
  | .rowsum c => Sys2Proof.Machine.execRowsum c s
  | .rowdiv c => Sys2Proof.Machine.execRowdiv c s
  | .topk c => Sys2Proof.Machine.execTopk c s
  | .distillGradStats c => Sys2Proof.Machine.execDistillGradStats c s
  | .distillGradGrad c => Sys2Proof.Machine.execDistillGradGrad c s
  | .sum c => Sys2Proof.Machine.execSum c s
  | .sumsq c => Sys2Proof.Machine.execSumsq c s
  | .amax c => Sys2Proof.Machine.execAmax c s
  | .scaleSet c => Sys2Proof.Machine.execScaleSet c s
  | .sgdMom c => Sys2Proof.Machine.execSgdMom c s
  | .adam c => Sys2Proof.Machine.execAdam c s
  | .adamw c => Sys2Proof.Machine.execAdamw c s
  | .fwd c => Sys2Proof.Machine.execFwd c s
  | .bwd c => Sys2Proof.Machine.execBwd c s
  | .bwdP c => Sys2Proof.Machine.execBwdP c s
  | .append c => Sys2Proof.Machine.execAppend c s
  | .attnCombine c => Sys2Proof.Machine.execAttnCombine c s
  | .allreduce c => Sys2Proof.Machine.execAllreduce c s
  | .reduceScatter c => Sys2Proof.Machine.execReduceScatter c s
  | .allgather c => Sys2Proof.Machine.execAllgather c s
  | .alltoall c => Sys2Proof.Machine.execAlltoall c s
  | .dispatch c => Sys2Proof.Machine.execDispatch c s
  | .collCombine c => Sys2Proof.Machine.execCollCombine c s
  | .compressed c => Sys2Proof.Machine.execCompressed c s
  | .sync c => Sys2Proof.Machine.execSync c s
  | .waitMet ctx ring => Sys2Proof.Machine.execWaitMet ctx ring s
  | .step c => Sys2Proof.Machine.execStep c s
  | .stepBoundary ctx lost cut => Sys2Proof.Machine.execStepBoundary ctx lost cut s
  | .stepVerdict f group counter finite => Sys2Proof.Machine.execStepVerdict f group counter finite s
  | .stepGroupTimeout ctx => Sys2Proof.Machine.execStepGroupTimeout ctx s
  | .admitTable c => Sys2Proof.Machine.execAdmitTable c s
  | .take c => Sys2Proof.Machine.execTake c s
  | .restore c failsAt => Sys2Proof.Machine.execRestore c failsAt s
  | .restoreFrom c parts lost => Sys2Proof.Machine.execRestoreFrom c parts lost s
  | .snapshotStreamEnd ctx writeFailed => Sys2Proof.Machine.execSnapshotStreamEnd ctx writeFailed s
  | .invoke c => Sys2Proof.Machine.execInvoke c s
  | .register c => Sys2Proof.Machine.execRegister c s
  | .callRelease c => Sys2Proof.Machine.execCallRelease c s
  | .assayRead c => Sys2Proof.Machine.execAssayRead c s
  | .assayClear c => Sys2Proof.Machine.execAssayClear c s
  | .assayReadClear c => Sys2Proof.Machine.execAssayReadClear c s
  | .ctxRead c => Sys2Proof.Machine.execCtxRead c s
  | .engineArbitration turn => Sys2Proof.Machine.execEngineArbitration turn s
  | .deadlineMiss ctx ring pos => Sys2Proof.Machine.execDeadlineMiss ctx ring pos s
  | .kindlingWindowEnd cluster => Sys2Proof.Machine.execKindlingWindowEnd cluster s
  | .rampStep cluster mismatch => Sys2Proof.Machine.execRampStep cluster mismatch s
  | .doorbell ctx ring place tee acc => Sys2Proof.Machine.execDoorbell ctx ring place tee acc s
  | .cancel ctx ring place tee acc => Sys2Proof.Machine.execCancel ctx ring place tee acc s
  | .eventHead offset tee acc => Sys2Proof.Machine.execEventHead offset tee acc s
  | .ringFetch ctx ring => Sys2Proof.Machine.execRingFetch ctx ring s
  | .coalescingTimeout ctx ring => Sys2Proof.Machine.execCoalescingTimeout ctx ring s
  | .ptmDialogue rootTime => Sys2Proof.Machine.execPtmDialogue rootTime s
  | .hifTbSet src value => Sys2Proof.Machine.execHifTbSet src value s
  | .bar4Read offset len => Sys2Proof.Machine.execBar4Read offset len s
  | .bar4Write offset data ep => Sys2Proof.Machine.execBar4Write offset data ep s
  | .registerWrite src offset size value => Sys2Proof.Machine.execRegisterWrite src offset size value s
  | .contextEnable src ctx value => Sys2Proof.Machine.execContextEnable src ctx value s
  | .contextDisable src ctx value => Sys2Proof.Machine.execContextDisable src ctx value s
  | .contextLock src ctx value => Sys2Proof.Machine.execContextLock src ctx value s
  | .ringEnable src ctx ring value => Sys2Proof.Machine.execRingEnable src ctx ring value s
  | .ringDisable src ctx ring value => Sys2Proof.Machine.execRingDisable src ctx ring value s
  | .forceRings src ctx rings => Sys2Proof.Machine.execForceRings src ctx rings s
  | .forceCtx src ctx => Sys2Proof.Machine.execForceCtx src ctx s
  | .teardown ctx => Sys2Proof.Machine.execTeardown ctx s
  | .semTimeout ctx ring => Sys2Proof.Machine.execSemTimeout ctx ring s
  | .tierCxScript src ctx value => Sys2Proof.Machine.execTierCxScript src ctx value s
  | .tierCxEmber src ctx value => Sys2Proof.Machine.execTierCxEmber src ctx value s
  | .stageSlabReady ctx slab => Sys2Proof.Machine.execStageSlabReady ctx slab s
  | .slabMoveDone page slab => Sys2Proof.Machine.execSlabMoveDone page slab s
  | .placementEpoch => Sys2Proof.Machine.execPlacementEpoch s
  | .imbalanceWindow ctx bytes => Sys2Proof.Machine.execImbalanceWindow ctx bytes s
  | .tierTimeout ctx req => Sys2Proof.Machine.execTierTimeout ctx req s
  | .backgroundSpill ctx => Sys2Proof.Machine.execBackgroundSpill ctx s
  | .bringBack ctx undecodable => Sys2Proof.Machine.execBringBack ctx undecodable s
  | .create ctx adapter => Sys2Proof.Machine.execCreate ctx adapter s
  | .importAdapter ctx adapter => Sys2Proof.Machine.execImportAdapter ctx adapter s
  | .rebuild adapter => Sys2Proof.Machine.execRebuild adapter s
  | .load ctx entry readFails => Sys2Proof.Machine.execLoad ctx entry readFails s
  | .unload ctx entry => Sys2Proof.Machine.execUnload ctx entry s
  | .read f => Sys2Proof.Machine.execRead f s
  | .postedWrite f => Sys2Proof.Machine.execPostedWrite f s
  | .readData f failed => Sys2Proof.Machine.execReadData f failed s
  | .writeAcknowledge f => Sys2Proof.Machine.execWriteAcknowledge f s
  | .writeFailure f cause => Sys2Proof.Machine.execWriteFailure f cause s
  | .creditAndAcknowledge f credits => Sys2Proof.Machine.execCreditAndAcknowledge f credits s
  | .negativeAcknowledge f => Sys2Proof.Machine.execNegativeAcknowledge f s
  | .hello f domain sender => Sys2Proof.Machine.execHello f domain sender s
  | .sendHello => Sys2Proof.Machine.execSendHello s
  | .missedHellos subport pkg => Sys2Proof.Machine.execMissedHellos subport pkg s
  | .collective f part => Sys2Proof.Machine.execCollective f part s
  | .abandonNotice f group seqNo => Sys2Proof.Machine.execAbandonNotice f group seqNo s
  | .faultReport f code sev info => Sys2Proof.Machine.execFaultReport f code sev info s
  | .pauseFrame subport priority quanta => Sys2Proof.Machine.execPauseFrame subport priority quanta s
  | .retryTimeout subport pkg => Sys2Proof.Machine.execRetryTimeout subport pkg s
  | .postedWriteTimeout ctx tag => Sys2Proof.Machine.execPostedWriteTimeout ctx tag s
  | .collectiveTimeout ctx group => Sys2Proof.Machine.execCollectiveTimeout ctx group s
  | .peerCtlEn src value => Sys2Proof.Machine.execPeerCtlEn src value s
  | .patrolRead store line found => Sys2Proof.Machine.execPatrolRead store line found s
  | .engineHang engine => Sys2Proof.Machine.execEngineHang engine s
  | .heartbeatMiss u => Sys2Proof.Machine.execHeartbeatMiss u s
  | .spareTakeover u => Sys2Proof.Machine.execSpareTakeover u s
  | .d2dRetrain link wire => Sys2Proof.Machine.execD2dRetrain link wire s
  | .faultMergeWindow agg => Sys2Proof.Machine.execFaultMergeWindow agg s
  | .stormHoldEnd code source => Sys2Proof.Machine.execStormHoldEnd code source s
  | .failureRecordWrite cutOff => Sys2Proof.Machine.execFailureRecordWrite cutOff s
  | .contextReset src ctx => Sys2Proof.Machine.execContextReset src ctx s
  | .engineReset src engine => Sys2Proof.Machine.execEngineReset src engine s
  | .regionReset src region => Sys2Proof.Machine.execRegionReset src region s
  | .dieWarmReset src die => Sys2Proof.Machine.execDieWarmReset src die s
  | .packageWarmReset src => Sys2Proof.Machine.execPackageWarmReset src s
  | .coldReset b => Sys2Proof.Machine.execColdReset b s
  | .functionLevelReset => Sys2Proof.Machine.execFunctionLevelReset s
  | .pciePerstN => Sys2Proof.Machine.execPciePerstN s
  | .standby => Sys2Proof.Machine.execStandby s
  | .ready => Sys2Proof.Machine.execReady s
  | .powerMeasurement windowAverage => Sys2Proof.Machine.execPowerMeasurement windowAverage s
  | .thermalSample dieTemps hubTemps stackTemps => Sys2Proof.Machine.execThermalSample dieTemps hubTemps stackTemps s
  | .thermalTrip unit temp => Sys2Proof.Machine.execThermalTrip unit temp s
  | .inputLow millivolts => Sys2Proof.Machine.execInputLow millivolts s
  | .inputLoss => Sys2Proof.Machine.execInputLoss s
  | .inputLossRecovery b => Sys2Proof.Machine.execInputLossRecovery b s
  | .inputOvercurrent amps => Sys2Proof.Machine.execInputOvercurrent amps s
  | .railFault rail => Sys2Proof.Machine.execRailFault rail s
  | .pllUnlock lockLost => Sys2Proof.Machine.execPllUnlock lockLost s
  | .tamperInput input => Sys2Proof.Machine.execTamperInput input s
  | .voltageGlitch => Sys2Proof.Machine.execVoltageGlitch s
  | .clockGlitch => Sys2Proof.Machine.execClockGlitch s
  | .temperature => Sys2Proof.Machine.execTemperature s
  | .cellLow => Sys2Proof.Machine.execCellLow s
  | .getCertificate slot => Sys2Proof.Machine.execGetCertificate slot s
  | .challenge nonce => Sys2Proof.Machine.execChallenge nonce s
  | .getMeasurements nonce => Sys2Proof.Machine.execGetMeasurements nonce s
  | .keyExchange keyHash mutualAuth => Sys2Proof.Machine.execKeyExchange keyHash mutualAuth s
  | .keyUpdate session => Sys2Proof.Machine.execKeyUpdate session s
  | .endSession session => Sys2Proof.Machine.execEndSession session s
  | .heartbeatTimeout session => Sys2Proof.Machine.execHeartbeatTimeout session s
  | .setPolicy session policy => Sys2Proof.Machine.execSetPolicy session policy s
  | .putSetKey session setId key => Sys2Proof.Machine.execPutSetKey session setId key s
  | .putAdapterKey session slot key => Sys2Proof.Machine.execPutAdapterKey session slot key s
  | .eraseKey session kind ident => Sys2Proof.Machine.execEraseKey session kind ident s
  | .preserve session => Sys2Proof.Machine.execPreserve session s
  | .endTenancy session => Sys2Proof.Machine.execEndTenancy session s
  | .readLog session => Sys2Proof.Machine.execReadLog session s
  | .ideKm session stream key => Sys2Proof.Machine.execIdeKm session stream key s
  | .lockInterface session => Sys2Proof.Machine.execLockInterface session s
  | .startInterface session => Sys2Proof.Machine.execStartInterface session s
  | .stopInterface session => Sys2Proof.Machine.execStopInterface session s
  | .ideStreamInsecure stream => Sys2Proof.Machine.execIdeStreamInsecure stream s
  | .secTenantEndGo src => Sys2Proof.Machine.execSecTenantEndGo src s
  | .tenantChange failedDdr => Sys2Proof.Machine.execTenantChange failedDdr s
  | .epochRetired => Sys2Proof.Machine.execEpochRetired s
  | .setUpdCtlGo src hostReadFails flashFails => Sys2Proof.Machine.execSetUpdCtlGo src hostReadFails flashFails s
  | .smbReadStatus => Sys2Proof.Machine.execSmbReadStatus s
  | .smbReadTemperature => Sys2Proof.Machine.execSmbReadTemperature s
  | .smbReadPower => Sys2Proof.Machine.execSmbReadPower s
  | .smbReadVoltage millivolts => Sys2Proof.Machine.execSmbReadVoltage millivolts s
  | .smbReadPowerCap => Sys2Proof.Machine.execSmbReadPowerCap s
  | .smbWritePowerCap watts => Sys2Proof.Machine.execSmbWritePowerCap watts s
  | .smbReadFailrec => Sys2Proof.Machine.execSmbReadFailrec s
  | .smbAlertResponse => Sys2Proof.Machine.execSmbAlertResponse s
  | .help => Sys2Proof.Machine.execHelp s
  | .status => Sys2Proof.Machine.execStatus s
  | .log n => Sys2Proof.Machine.execLog n s
  | .failrec => Sys2Proof.Machine.execFailrec s
  | .regr offset => Sys2Proof.Machine.execRegr offset s
  | .regw offset value => Sys2Proof.Machine.execRegw offset value s
  | .memr addr n => Sys2Proof.Machine.execMemr addr n s
  | .reset scope => Sys2Proof.Machine.execReset scope s
  | .extest => Sys2Proof.Machine.execExtest s
  | .idcode => Sys2Proof.Machine.execIdcode s
  | .bypass => Sys2Proof.Machine.execBypass s
  | .subPortUp subport => Sys2Proof.Machine.execSubPortUp subport s
  | .frameDiscarded f why => Sys2Proof.Machine.execFrameDiscarded f why s
  | .inputLowCleared => Sys2Proof.Machine.execInputLowCleared s
  | .configurationRequest op => Sys2Proof.Machine.execConfigurationRequest op s
  | .hostAer e => Sys2Proof.Machine.execHostAer e s
  | .monitorUnknownLine long => Sys2Proof.Machine.execMonitorUnknownLine long s
  | .fourByteRead src offset => Sys2Proof.Machine.execFourByteRead src offset s

end Sys2Proof.Machine
end

