-- ==== Sys2Proof/Safety.lean ====
section
/-! DEFINITION. What claims about the block are stated in: the canonical form of a state, a ring row whose command starts,
the registers that exist, and what a command leaves as it was. -/

namespace Sys2Proof.Machine

/-! ## The canonical form -/

/-- Memory, registers and poison marks are in their one form, and the battery log holds no more than its ring. -/
abbrev canonical (s : State) : Prop :=
  Memory.wf s.mem ∧ smWf 0 s.regs = true ∧ smWf false s.poison = true ∧ s.sec.log.length ≤ 512

/-! ## A ring row whose command starts (R295, R299, R329) -/

/-- A command after its ember objects' move-ins have begun and its holds have been counted. -/
def heldOf (s : State) (o : OutCmd) : State × OutCmd := countHolds (beginEmbers s o) o

/-- A command has its turn: nothing orders it behind another, and no kindling window keeps its cluster. -/
def hasPlace (s : State) (o : OutCmd) : Bool := !orderHolds s o && !windowHolds s o

/-- A command that has its turn starts: its checks pass, its data is at hand, and the host memory it needs can be reached. -/
def startsNow (s : State) (o : OutCmd) : Bool :=
  let r := heldOf s o
  hasPlace s o && (checkCmd s o).isNone && !(stageHeld r.1 (operandExts r.1 o)).any (·.failed) && !dataHolds r.1 r.2
    && (hostBarred r.1 (planOp r.2.op r.1 r.2.ctx r.2.d)).isNone

/-- The state in which the work of a command that starts begins. -/
def begun (s : State) (o : OutCmd) : State :=
  let r := heldOf s o
  let p := planOp r.2.op r.1 r.2.ctx r.2.d
  touchReads (emberUse (backPlan (countBypass r.1 r.2) r.2.ctx p) p.exts) p

/-- The command that a ring row reads, and the state once it has been read. -/
def readHere (s : State) (c : Cmd) : State × OutCmd := takeCmd s c.ctx c.ring c.d

/-- The ring can be read, its descriptor spells the row's command, and no cancel word covers it. -/
def reads (s : State) (op : RingOp) (c : Cmd) : Bool :=
  RingOp.ofDesc c.d == some op && canRead s c.ctx c.ring c.d
    && !cancelled s c.ctx c.ring (readHere s c).2.pos (readHere s c).2.d.tag

/-- The command has its turn as it is read: its deadline has not passed and no other waits for its engine. -/
def turnAtRead (s : State) (c : Cmd) : Bool :=
  let r := readHere s c
  !deadlinePassed r.1 r.2 && !engineChooses r.1 r.2

/-- The command of a ring row starts as it is read. -/
def starts (s : State) (op : RingOp) (c : Cmd) : Bool :=
  reads s op c && turnAtRead s c && startsNow (readHere s c).1 (readHere s c).2

/-- Where the work of a ring row's command begins, and the command. -/
def workState (s : State) (c : Cmd) : State := begun (readHere s c).1 (readHere s c).2
def workCmd (s : State) (c : Cmd) : OutCmd := (heldOf (readHere s c).1 (readHere s c).2).2

/-- The rows of the ring processor whose meaning is reading one descriptor, with the operation that each spells; nothing
strikes the arrays, and no MOVE is interrupted. The two rows of DISTILL_GRAD and RESTORE_FROM, which ask for more, are not among
them. -/
def ringRows (failsAt : Option Nat) : List (RingOp × (Cmd → Instr)) :=
  [(.copy, fun c => .copy ⟨c, none⟩), (.zero, fun c => .zero ⟨c, none⟩), (.pin, .pin), (.unpin, .unpin), (.planes, .planes), (.moveRelease, .moveRelease),
   (.mma, fun c => .mma c []), (.add, .add), (.mul, .mul), (.axpby, .axpby), (.scale, .scale), (.convert, .convert),
   (.transpose, .transpose), (.relu, .relu), (.gelu, .gelu), (.silu, .silu), (.reluBwd, .reluBwd), (.geluBwd, .geluBwd),
   (.siluBwd, .siluBwd), (.rmsnorm, .rmsnorm), (.layernorm, .layernorm), (.rmsnormBwd, .rmsnormBwd),
   (.layernormBwd, .layernormBwd), (.rowmax, .rowmax), (.expSub, .expSub), (.rowsum, .rowsum), (.rowdiv, .rowdiv),
   (.topk, .topk), (.sum, .sum), (.sumsq, .sumsq), (.amax, .amax), (.scaleSet, .scaleSet), (.sgdMom, .sgdMom),
   (.adam, .adam), (.adamw, .adamw)] ++
  [(.fwd, .fwd), (.bwd, .bwd), (.bwdP, .bwdP), (.append, .append), (.attnCombine, .attnCombine),
   (.allreduce, .allreduce), (.reduceScatter, .reduceScatter), (.allgather, .allgather), (.alltoall, .alltoall),
   (.dispatch, .dispatch), (.collCombine, .collCombine), (.compressed, .compressed), (.sync, .sync), (.step, .step),
   (.admitTable, .admitTable), (.take, .take), (.restore, fun c => .restore c failsAt), (.invoke, fun c => .invoke ⟨c, []⟩),
   (.register, .register), (.callRelease, .callRelease), (.assayRead, .assayRead), (.assayClear, .assayClear),
   (.assayReadClear, .assayReadClear), (.ctxRead, .ctxRead)]

/-- No command is outstanding and no key erasure waits. -/
def quietBlock (s : State) : Bool := s.outs.isEmpty && s.sec.erases.isEmpty

/-! ## Frames from peers (R260 to R270) -/

/-- A frame that its receiver takes: for this package, whole, of this version and next in its connection's order. -/
def accepts (s : State) (f : Frame) : Bool :=
  subUp s f.subport.val && (conn s f.subport.val f.src.val).up && f.dst.val == ownPkg s && f.crcOk && f.version == 1
    && f.seq.toNat == (conn s f.subport.val f.src.val).rxSeq

/-- The state in which an accepted frame of a channel takes effect: it is counted, and its acknowledgement and credit are
answered. -/
def received (s : State) (f : Frame) (vc : Nat) : State :=
  let sub := f.subport.val
  let pkg := f.src.val
  let c := conn s sub pkg
  let u := setConn s sub pkg { c with rxSeq := (c.rxSeq + 1) % 2 ^ 24, naked := false }
  sendCredit (acked u sub pkg f.ack.toNat) sub pkg vc (ceilDiv f.payload.length 64)

/-- An unsequenced frame that its receiver takes. -/
def acceptsControl (s : State) (f : Frame) : Bool :=
  subUp s f.subport.val && (conn s f.subport.val f.src.val).up && f.dst.val == ownPkg s && f.crcOk && f.version == 1

/-! ## Registers (R463) -/

/-- The index of a register lies in its table's range (R463). -/
def Reg.inTable : Reg → Bool
  | .arrCluStat x => decide (x < 324)
  | .tierCxHmask x | .tierCxDmask x | .tierCxWmask x | .tierCxQuota x | .tierCxScript x | .tierCxEmber x
  | .tierCxHeld x | .tierCxPfLate x | .tierCxEmbCnt x | .tierCxExch x | .tierCxFail x | .peerGrpMem x
  | .peerGrpCfg x | .peerCxAllow x | .peerRoute x | .schCxShift x | .schCxForce x | .schCxStat x | .fltCxSnapCfg x
  | .fltCxSnapList x | .fltCxSnapArea x | .fltCxSnapSize x | .fltCxSnapNewest x | .fltCxSnapPrev x
  | .fltCxSnapStat x | .fltCxFaults x | .secCxPkg x | .secCxPkgStat x | .telCxVoids x | .telCxReroutes x
  | .telCxMisses x | .ctxCxEq x | .ctxCxEqCfg x | .ctxCxEqStat x | .ctxCxCtl x | .ctxCxSetupStat x | .ctxCxStep x
  | .ctxCxSteprec x | .ctxCxSeed x | .ctxCxScale x | .ctxCxJournal x | .ctxCxJrnlStat x | .ctxCxPmap x
  | .ctxCxAdp x | .ctxCxSemTmo x => decide (x < 64)
  | .idRgn x => decide (x < 36)
  | .strmSplit x | .idDdr x => decide (x < 12)
  | .fltFailClu x | .idRomDigest x => decide (x < 6)
  | .ctxCxSq x n | .ctxCxCq x n | .ctxCxRing x n | .ctxCxRstat x n | .ctxCxWinBase x n | .ctxCxWinSize x n => decide (x < 64) && decide (n < 16)
  | _ => true

/-! ## What a command leaves as it was -/

/-- Every byte and poison mark of the device address space reads as before, and no page has moved. -/
def sameStore (s t : State) : Prop :=
  (∀ a, readByte t a = readByte s a) ∧ (∀ a, poisoned t a = poisoned s a) ∧ t.tier = s.tier

/-- The host's side is as it was: contexts, commands, adapters and packages. -/
def sameWork (s t : State) : Prop :=
  t.ctxs = s.ctxs ∧ t.outs = s.outs ∧ t.adapters = s.adapters ∧ t.packages = s.packages

/-- Every register but some reads as before. -/
def sameRegsBut (rs : List Reg) (s t : State) : Prop := ∀ r, r.inTable = true → r ∉ rs → regRaw t r = regRaw s r

end Sys2Proof.Machine
end

