-- ==== Sys2Proof/Certificates/Slice0/Obligations.lean ====
section
/-! DEFINITION. The statements for the provers: the block and its registers and stores, the ring processor's commands, the
host's windows and writes, tiers and peers, faults and power, security and management, and frames. -/

open Sys2Proof Sys2Proof.Machine

/-! ## The block -/

/-- A step takes the command at the front of the queue: it is exec of that command with the queue's rest. -/
def Obligations.StepTakesTheFrontCommand : Prop :=
  ∀ (s : State) (c : Instr) (rest : List Instr),
    step (s.withFront c) = exec c s ∧ (s.pending = c :: rest → step s = exec c { s with pending := rest })

/-- With an empty queue a step is a tick of 1 ns (the model's choice, DESIGN CHOICE, log entry 7): the always-on clock moves on, and with
the clock domains running everything that can go on by itself does and the timebase counts 1, but for what slewing asks of it.
With the domains stopped nothing else happens. -/
def Obligations.EmptyQueueStepTicks : Prop :=
  ∀ s : State, s.pending = [] →
    let u := { s with sec := { s.sec with rtc := s.sec.rtc + 1 } }
    let t := settle u
    (clocksRun u = false → step s = .next u)
    ∧ (clocksRun u = true → t.ptm.left = 0 → step s = .next (setReg t .hifTb (reg t .hifTb + 1)))
    ∧ (clocksRun u = true → t.ptm.left ≠ 0 → ∃ v, step s = .next v ∧ sameStore t v ∧ sameWork t v
      ∧ regRaw v .hifTb = reg t .hifTb + (if t.ptm.frac + rf t .hifPtmCtl 16 16 < 1000000 then 1 else if 0 < t.ptm.left then 2 else 0))

/-- Right after reset every register holds what its Reset column gives, and every field of it reads so; the device address
space reads 0 (the model's choice for bytes that nothing has written, DESIGN CHOICE, log entry 2), and nothing waits or is outstanding. -/
def Obligations.ResetHoldsTheResetColumns : Prop :=
  (∀ r : Reg, regRaw State.reset r = r.resetVal ∧ reg State.reset r = r.resetVal)
    ∧ (∀ a : Nat, readByte State.reset a = 0 ∧ poisoned State.reset a = false)
    ∧ State.reset.pending = [] ∧ State.reset.outs = [] ∧ secState State.reset = 0 ∧ isUp State.reset = false

/-- The state after reset is in canonical form. -/
def Obligations.ResetIsCanonical : Prop := canonical State.reset

/-- Every step keeps the canonical form: memory, registers and poison marks stay in their one form, and the battery log
within its ring. -/
def Obligations.StepKeepsTheCanonicalForm : Prop :=
  ∀ s t : State, canonical s → step s = .next t → canonical t

/-- Every command answers a next state in every state: none faults and none is refused. None changes the queue of waiting
commands or the fuses of the part. -/
def Obligations.EveryCommandAnswersAndKeepsTheQueue : Prop :=
  ∀ (c : Instr) (s : State), ∃ t, exec c s = .next t ∧
    t.pending = s.pending ∧ t.part.badClusters = s.part.badClusters ∧ t.part.badRegions = s.part.badRegions
      ∧ t.part.boardKeyHash = s.part.boardKeyHash

/-- The battery log is a ring of 512 entries that no command clears: its count of entries never falls, what it holds never
shrinks, and it never holds more than 512. A new entry goes behind the others, in its fields, and a full ring loses its
oldest. -/
def Obligations.NoCommandClearsTheBatteryLog : Prop :=
  (∀ (c : Instr) (s t : State), exec c s = .next t → s.sec.log.length ≤ 512 →
    s.sec.logCount ≤ t.sec.logCount ∧ s.sec.log.length ≤ t.sec.log.length ∧ t.sec.log.length ≤ 512)
  ∧ ∀ (s : State) (code detail : Nat), ∃ e : BitVec 128,
      (s.sec.log.length < 512 → (logEntry s code detail).sec.log = s.sec.log ++ [e])
      ∧ (s.sec.log.length = 512 → (logEntry s code detail).sec.log = s.sec.log.tail ++ [e])
      ∧ bitsAt e.toNat 0 32 = rtcSeconds s ∧ bitsAt e.toNat 48 8 = code % 256 ∧ bitsAt e.toNat 64 64 = detail % 2 ^ 64
      ∧ e.toNat.testBit 47 = onCell s

/-! ## Registers, memory and descriptors -/

/-- Every register of the tables stands at its own offset of BAR0, which the decoder of offsets answers with it; a register
that is stored holds the value, and no other register changes. -/
def Obligations.RegistersStandAtTheirOffsets : Prop :=
  (∀ r : Reg, r.inTable = true → regAt r.offset = some r ∧ r.offset % 8 = 0 ∧ r.offset < 2 ^ 26)
  ∧ ∀ (s : State) (r q : Reg) (v : Word), r.inTable = true → q.inTable = true →
      regRaw (setReg s r v) q = if q = r then v else regRaw s q

/-- Bytes stored at addresses that are their own homes read back, and no other byte changes; a store to an exhausted DDR
frame is the one that is refused, and is excluded here. -/
def Obligations.StoredBytesReadBack : Prop :=
  ∀ (s : State) (a : Nat) (bs : List Byte) (x : Nat),
    (∀ i, i < bs.length → resolve s (a + i) = a + i ∧ exhausted s (a + i) = false) →
    readByte (storeBytes s a bs) x
      = if a ≤ resolve s x ∧ resolve s x < a + bs.length then bs.getD (resolve s x - a) 0 else readByte s x

/-- The poison mark of a line under a store: poisoned data sets it, a full 64-byte write of clean data clears it, and a
partial write of clean data leaves it. A line of poisoned data may be named through any window of its home. -/
def Obligations.PoisonMarksFollowStores : Prop :=
  ∀ (s : State) (l : Nat) (cells : List Host.Cell) (bad : List Nat),
    (∀ c ∈ cells, c.1 / 64 = l ∧ resolve s c.1 = c.1 ∧ exhausted s c.1 = false) → cells ≠ [] → resolve s (l * 64) = l * 64 →
    poisoned (storeQuiet s cells bad).1 (l * 64)
      = ((bad.any fun k => resolve s (k * 64) / 64 == l)
        || (poisoned s (l * 64) && !(List.range 64).all fun i => cells.any fun c => c.1 == l * 64 + i))

/-- A descriptor with the class and operation code of a command spells that command, whatever its other bits hold, and they
stay; and a descriptor that spells a command has its class and code. DISTILL_GRAD's two modes share one code, which spells
its STATS row. -/
def Obligations.DescriptorsSpellTheirCommands : Prop :=
  (∀ (d : Desc) (op : RingOp), op ≠ .distillGrad →
    RingOp.ofDesc (d.withOp op) = some op ∧ (d.withOp op).w1 = d.w1 ∧ (d.withOp op).w3 = d.w3 ∧ (d.withOp op).w4 = d.w4
      ∧ (d.withOp op).w5 = d.w5 ∧ (d.withOp op).w6 = d.w6 ∧ (d.withOp op).w7 = d.w7
      ∧ (d.withOp op).region = d.region ∧ (d.withOp op).cluster = d.cluster ∧ (d.withOp op).irq = d.irq
      ∧ (d.withOp op).deadline = d.deadline)
  ∧ ∀ (d : Desc) (op : RingOp), RingOp.ofDesc d = some op → op.code = (d.cls, d.opCode)

/-- The extent of a non-empty stream, by its formula. -/
def Obligations.StreamExtentIsItsFormula : Prop :=
  ∀ (t : Strm) (write : Bool), t.counts.length = t.strides.length → t.empty = false →
    (t.extent write).lo = t.base + ((t.counts.zip t.strides).map fun p => min 0 (((p.1 : Int) - 1) * p.2)).sum
    ∧ (t.extent write).hi
        = t.base + ((t.counts.zip t.strides).map fun p => max 0 (((p.1 : Int) - 1) * p.2)).sum + unitBytes t.fmt - 1

/-- Every unit of a stream lies in its extent, and a stream has as many units as the product of its counts. -/
def Obligations.StreamUnitsLieInTheirExtent : Prop :=
  ∀ (t : Strm) (write : Bool), t.counts.length = t.strides.length →
    (∀ a ∈ unitAddrs (t.counts.zip t.strides).reverse t.base,
      (t.extent write).lo ≤ a ∧ a + unitBytes t.fmt - 1 ≤ (t.extent write).hi)
    ∧ t.addrs.length = t.counts.prod

/-- While a block's expert-enable bit is clear, its expert registers read back their defaults, and writes to them are
ignored. -/
def Obligations.ExpertFieldsKeepTheirDefaults : Prop :=
  ∀ (s : State) (src : Source) (r : Reg) (v : Word), r.expert = true → expertOn s r.block = false → r.writeOnly = false →
    reg s r = r.resetVal ∧ writeReg s src r v = s

/-- The first violation found in the order BAD_DESC, UNSUPPORTED, BOUNDS, QUOTA is the one reported. -/
def Obligations.ViolationsAreReportedInOrder : Prop :=
  ∀ v : List Nat, chooseViolation v
    = ([stBadDesc, stUnsupported, stBounds, stQuota].filter v.contains).head?

/-! ## Rows of the ring processor -/

/-- Descriptors that do not run. A ring that cannot be read leaves the block as it was (the model's choice, DESIGN CHOICE, log entry 10),
and so does a row whose descriptor spells another command. One that a cancel word covers is read and ends CANCELLED. One
whose check fails as its turn comes ends with the code of the first check that failed, and nothing of it starts. One whose
staging slabs, ember objects or pass image are not at hand is held: it stays queued; one whose staging has failed ends
TIER_FAIL, and so does one that needs host memory which the function may not reach. -/
def Obligations.DescriptorsThatDoNotRun : Prop :=
  ∀ (failsAt : Option Nat), ∀ p ∈ ringRows failsAt, ∀ (c : Cmd) (s : State),
    let u := (readHere s c).1
    let o := (readHere s c).2
    let h := heldOf u o
    let stuck := stageHeld h.1 (operandExts h.1 o)
    (canRead s c.ctx c.ring c.d = false → exec (p.2 c) s = .next s)
    ∧ (∀ q, RingOp.ofDesc c.d = some q → q ≠ p.1 → exec (p.2 c) s = .next s)
    ∧ (RingOp.ofDesc c.d = some p.1 → canRead s c.ctx c.ring c.d = true → cancelled s c.ctx c.ring o.pos o.d.tag = true →
        exec (p.2 c) s = .next (settle (endCommand u o stCancelled)))
    ∧ (reads s p.1 c = true → turnAtRead s c = true → hasPlace u o = true →
      (∀ v, checkCmd u o = some v → exec (p.2 c) s = .next (settle (refuseCmd u o v)))
      ∧ (checkCmd u o = none → (stuck.any (·.failed)) = true → exec (p.2 c) s = .next (settle (endCommand h.1 h.2 stTierFail)))
      ∧ (checkCmd u o = none → (stuck.any (·.failed)) = false → dataHolds h.1 h.2 = true → exec (p.2 c) s = .next (settle h.1))
      ∧ ∀ a, checkCmd u o = none → (stuck.any (·.failed)) = false → dataHolds h.1 h.2 = false →
        hostBarred h.1 (planOp h.2.op h.1 h.2.ctx h.2.d) = some a →
        exec (p.2 c) s = .next (settle (endCommand (requestFails h.1 h.2.ctx a (cmdRef h.2)) h.2 stTierFail)))

/-- PIN sets the pin of every page it names and UNPIN clears that of backed pages; PLANES records the setting, and codes a
page held in DDR anew; RELEASE unbacks the pages, a moving one when its move completes. Each completes OK. -/
def Obligations.PlacementCommandsSetTheirPages : Prop :=
  ∀ (c : Cmd) (s : State),
    (starts s .pin c = true → exec (.pin c) s = .next (settle (complete
      ((placementPages (workCmd s c).d).foldl (fun u p => setTier u p { tierAt u p with pin := true }) (workState s c))
      (workCmd s c) stOk 0)))
    ∧ (starts s .unpin c = true → exec (.unpin c) s = .next (settle (complete
      ((placementPages (workCmd s c).d).foldl (fun u p =>
        if (tierAt u p).backed then setTier u p { tierAt u p with pin := false } else u) (workState s c))
      (workCmd s c) stOk 0)))
    ∧ (starts s .planes c = true → exec (.planes c) s = .next (settle (complete
      ((placementPages (workCmd s c).d).foldl (fun u p => setTier u p
        { tierAt u p with
          planes := fld (workCmd s c).d.w2 4 3
          coded := if (tierAt u p).backed && (tierAt u p).ddr then recode u p (fld (workCmd s c).d.w2 4 3) else (tierAt u p).coded })
        (workState s c))
      (workCmd s c) stOk 0)))
    ∧ (starts s .moveRelease c = true → exec (.moveRelease c) s = .next (settle (complete
      ((placementPages (workCmd s c).d).foldl (fun u p =>
        if (tierAt u p).backed && (tierAt u p).state == 1 then setTier u p { tierAt u p with release := true, pin := false }
        else unbackPage u p) (workState s c))
      (workCmd s c) stOk 0)))

/-- COPY moves the units of its source stream to those of its destination, pair by pair, when every line of the source is
local, and otherwise sends a read for every remote line and waits; ZERO writes zeros over every unit of its destination. Each
posts what lies in a peer's window, marks the context's step when a poisoned line is written, and counts in DETAIL the 64 KiB
units moved. The write that finds an exhausted DDR frame ends the command KEY_EXHAUSTED: the units before it have landed. A
command that is interrupted after so many 64 KiB units has written those and stays outstanding. -/
def Obligations.MoveCommandsRunTheirStreams : Prop :=
  ∀ (c : Cmd) (s : State) (copy : Bool) (cut : Option Nat) (t u : Strm), s.halt = none →
    let h := { s with halt := cut }
    let v := workState h c
    let o := workCmd h c
    let w := unitBytes u.fmt
    let units := if copy then t.addrs.zip u.addrs else u.addrs.map fun a => (a, a)
    let cells (ps : List (Nat × Nat)) : List Host.Cell := ps.flatMap fun p => (List.range w).map fun i =>
      (p.2 + i, if copy then sourceByte v o.got (p.1 + i) else 0)
    let bad (ps : List (Nat × Nat)) : List Nat :=
      if copy then dedup ((ps.filter fun p => sourcePoisoned v o.gotBad p.1).map fun p => p.2 / 64) else []
    let stop (n : Nat) : Option Nat := (List.range (min n units.length)).find? fun i =>
      (List.range w).any fun k => !isRemote v ((units.getD i (0, 0)).2 + k) && exhausted v ((units.getD i (0, 0)).2 + k)
    let landed (ps : List (Nat × Nat)) : State :=
      let r := storeOut { v with halt := none } o.ctx o.d.tag (cells ps) (bad ps)
      if (bad ps).isEmpty then r.1 else mark r.1 o.ctx markPoison o.d.tag
    let cmd : Instr := if copy then .copy ⟨c, cut⟩ else .zero ⟨c, cut⟩
    starts h (if copy then .copy else .zero) c = true → v.halt = cut →
    (copy = true → (planStream v o.ctx (moveSrc o.d) false).2 = some t) →
    (planStream v o.ctx (moveDst o.d) true).2 = some u → t.fmt = u.fmt →
    (copy = true → remoteLines v t ≠ [] → cut = none → exec cmd s = .next (settle
      ((remoteLines v t).foldl (fun x a => sendRead x o.ctx o.ident a) (putOut v { o with st := .peerRead }))))
    ∧ ((copy = true → remoteLines v t = []) →
      (∀ i, cut = none → stop units.length = some i → exec cmd s
        = .next (settle (complete (landed (units.take i)) o stKeyExhausted (i / (slabBytes / w)))))
      ∧ (cut = none → stop units.length = none → exec cmd s
        = .next (settle (complete (landed units) o (workStatus (!(bad units).isEmpty) false) (movedSlabs u))))
      ∧ (∀ k, cut = some k → k < movedSlabs u → stop (k * (slabBytes / w)) = none →
        let ps := units.take (k * (slabBytes / w))
        exec cmd s = .next { settle (putOut (landed ps) { o with st := .moving k (!(bad ps).isEmpty) }) with halt := none }))

/-- An MMA with work to do lands, member by member in the order of its logical clusters, each member's results under RES_TID
and then its rank-lane rows, once every pass of every member has passed its checks, and leaves each array the tile of the
last pass; with no element in a dimension it completes OK at once; where a pass fails again on its retry it completes
CHECKSUM_FAIL, and its result extents hold free bytes. The events that strike its arrays are spent. A result element with
nothing going wrong is the epilogue of the sums of its passes, the first as it comes and the others added in issue order. -/
def Obligations.MmaLandsItsMembersResults : Prop :=
  (∀ (c : Cmd) (ev : List ArrEvent) (s : State), starts (strike s ev) .mma c = true →
    let u := workState (strike s ev) c
    let o := workCmd (strike s ev) c
    let d := o.d
    let x := o.ctx
    let empty := decide (mmaT d = 0 ∨ mmaK d = 0 ∨ mmaN d = 0)
    let m := mmaDims u x d
    let mine (e : ArrEvent) : Bool := ((mmaMembers d).filterMap (arrOf u d.region)).contains e.cluster
    let v := { u with glitches := u.glitches.filter fun e => !mine e }
    let r := checkPasses v x d m (cmdRef o) (u.glitches.filter mine)
    let banks (t : State) (last : Option Pass) : State :=
      (mmaMembers d).foldl (fun t k => arrAfter v t x d m (memberOf v x d k) last) t
    let q := (mmaMembers d).foldl (fun (q : State × Bool × Bool) k =>
      let mb := memberOf q.1 x d k
      let out := memberResults q.1 x d m mb (feedOf v d (u.glitches.filter mine) r.2 k)
      let a := if mmaResMode d = 1 then landOut q.1 x d.tag (evalPhase d) out.1
        else landTensor q.1 x d.tag (evalPhase d) (mmaResTensor q.1 x d) out.1
      let b := if mmaRankOn d then landTensor a.1 x d.tag (evalPhase d) (tensor a.1 x (mmaRankTid d)) out.2
        else (a.1, false, false)
      (b.1, q.2.1 || a.2.1 || b.2.1, q.2.2 || a.2.2 || b.2.2)) (r.1, false, false)
    (empty = true → exec (.mma c ev) s = .next (settle (complete u o stOk 0)))
    ∧ (∀ i, empty = false → r.2.dead = some i → exec (.mma c ev) s = .next (settle (complete
        (banks ((((mmaMembers d).flatMap (memberExts v x m d)).filter (·.write)).foldl
          (fun x e => freeExtent x e.lo.toNat e.len) r.1) (mmaPasses m d)[i]?) o stChecksum 0)))
    ∧ (empty = false → r.2.dead = none → exec (.mma c ev) s = .next (settle (complete
        (banks q.1 (mmaPasses m d).getLast?) o (workStatus q.2.1 q.2.2) 0))))
  ∧ ∀ (s : State) (x : Nat) (d : Desc) (m : MmaDims) (mb : Member) (n row j : Nat), heldHit s x d m mb = none →
    mmaCplx d = 0 →
    finalSum s x d m mb ⟨[], []⟩ false n row j = epilogue (mmaEpi d) (drainFold
      (((mmaPasses m d).filter fun p => p.n = n && p.lo ≤ row && row < p.lo + p.len).map fun p =>
        passSum m.geo.group p.asl p.wsl
          ((actRow s x d m mb .re p.k row).map fun v => operandOf m.afmt (mmaF16A d) v.1)
          ((List.range m.geo.inW).map fun i => operandOf m.wfmt (mmaF16W d) (wtElem s x d m mb .re p.k n i j).1)))

/-- The rows of VEC whose result is a matrix or a column lay element (i, j) of their result at D_ADDR in D's format, count
it for D's tensor, and write their row statistics behind it. SUM, SUMSQ and AMAX write one FP32 value at D_ADDR: the sum of
A, the sum of its squares, and its largest finite magnitude. With no row or no column each completes OK. -/
def Obligations.VectorCommandsLandTheirResults : Prop :=
  (∀ p ∈ [(RingOp.add, Instr.add), (.mul, .mul), (.axpby, .axpby), (.scale, .scale), (.convert, .convert),
      (.transpose, .transpose), (.relu, .relu), (.gelu, .gelu), (.silu, .silu), (.reluBwd, .reluBwd), (.geluBwd, .geluBwd),
      (.siluBwd, .siluBwd), (.rmsnorm, .rmsnorm), (.layernorm, .layernorm), (.rowmax, .rowmax), (.expSub, .expSub),
      (.rowsum, .rowsum), (.rowdiv, .rowdiv)],
    ∀ (c : Cmd) (s : State), starts s p.1 c = true →
    let u := workState s c
    let o := workCmd s c
    let d := o.d
    let shape := match p.1 with
      | .transpose => (vecCols d, vecRows d)
      | .rowmax | .rowsum => (vecRows d, 1)
      | _ => (vecRows d, vecCols d)
    let t := tensorAt u o.ctx (vecDTid d) (vecD d)
    let r := landTensor u o.ctx d.tag (evalPhase d) t
      (savedOut u t (rowLay t.fmt (vecD d) shape.1 shape.2) (vecD d)
        (outRows t (srKey u o.ctx (vecDTid d)) (vecD d) shape.1 shape.2 (fun i j => i * vecCols d + j) (vecValue u o.ctx p.1 d)))
    let q := landOut r.1 o.ctx d.tag (evalPhase d) (outStats (vecStatAddr u o.ctx p.1 d) (vecRowStats u o.ctx p.1 d))
    exec (p.2 c) s = .next (settle (
      if vecRows d = 0 ∨ vecCols d = 0 then complete u o stOk 0
      else complete q.1 o (workStatus (r.2.1 || q.2.1) (r.2.2 || q.2.2)) 0)))
  ∧ ∀ p ∈ [(RingOp.sum, Instr.sum), (.sumsq, .sumsq), (.amax, .amax)], ∀ (c : Cmd) (s : State), starts s p.1 c = true →
    let u := workState s c
    let o := workCmd s c
    let es := (List.range (vecRows o.d)).flatMap fun i => vecRowA u o.ctx o.d i
    let v := match p.1 with
      | .sum => reduceSum (es.map (·.1))
      | .sumsq => reduceSum ((es.map (·.1)).map fun v => fmul v v)
      | _ => fAmax (es.map (·.1))
    let r := landOut u o.ctx o.d.tag (evalPhase o.d) (outStats (vecD o.d) [(v, es.any (·.2))])
    exec (p.2 c) s = .next (settle (
      if vecRows o.d = 0 ∨ vecCols o.d = 0 then complete u o stOk 0 else complete r.1 o (workStatus r.2.1 r.2.2) 0))

/-- What each element of VEC's results is, by the table of its operations: A, B and the row of A widened to FP32. -/
def Obligations.VectorResultsAreTheTables : Prop :=
  ∀ (s : State) (x : Nat) (d : Desc) (i j : Nat), j < vecCols d →
    let a := (vecElem s x (vecATid d) (vecA d) (vecRows d) (vecCols d) i j).1
    let b := (vecElem s x (vecBTid d) (vecB d) (vecRows d) (vecCols d) i j).1
    let b1 := (vecElem s x (vecBTid d) (vecB d) (vecRows d) 1 i 0).1
    let row := (vecRowA s x d i).map (·.1)
    (vecValue s x .add d i j).1 = fadd a b ∧ (vecValue s x .mul d i j).1 = fmul a b
      ∧ (vecValue s x .axpby d i j).1 = fadd (fmul (vecImm0 d) a) (fmul (vecImm1 d) b)
      ∧ (vecValue s x .scale d i j).1 = fmul (vecImm0 d) a ∧ (vecValue s x .convert d i j).1 = a
      ∧ vecValue s x .transpose d i j = vecElem s x (vecATid d) (vecA d) (vecRows d) (vecCols d) j i
      ∧ (vecValue s x .relu d i j).1 = fRelu a ∧ (vecValue s x .gelu d i j).1 = fGelu a
      ∧ (vecValue s x .silu d i j).1 = fSilu a
      ∧ (vecValue s x .rmsnorm d i j).1
          = fmul (fmul a (rmsStat (vecImm0 d) row)) (vecElem s x (vecBTid d) (vecB d) 1 (vecCols d) 0 j).1
      ∧ (vecValue s x .reluBwd d i j).1 = (if flt .zero a then b else .zero)
      ∧ (vecValue s x .geluBwd d i j).1 = fmul (fGeluD a) b ∧ (vecValue s x .siluBwd d i j).1 = fmul (fSiluD a) b
      ∧ (vecValue s x .expSub d i j).1 = fexp (fmul (fsub a b1) (vecImm0 d))
      ∧ (vecValue s x .rowdiv d i j).1 = fmul a (frecip b1)
      ∧ (vecValue s x .rowmax d i j).1 = reduceMax row ∧ (vecValue s x .rowsum d i j).1 = reduceSum row

/-- The norm-backward rows land the input gradient of each row at D_ADDR and add the column sums to the gain and bias
accumulators of their block. -/
def Obligations.NormBackwardLandsItsGradients : Prop :=
  ∀ p ∈ [(RingOp.rmsnormBwd, Instr.rmsnormBwd, false), (.layernormBwd, .layernormBwd, true)], ∀ (c : Cmd) (s : State),
    starts s p.1 c = true →
    let u := workState s c
    let o := workCmd s c
    let b := normBlock u o.d
    let ns := (List.range (vecRows o.d)).map (normRow u o.ctx p.2.2 o.d b)
    let bad := ns.any (·.bad)
    let gain := accColumns u (fld (b.getD 3 0) 0 48) (vecCols o.d) bad fun j =>
      reduceSum (ns.map fun n => fmul (n.dy.getD j .zero) (n.xh.getD j .zero))
    let bias := accColumns u (fld (b.getD 4 0) 0 48) (vecCols o.d) bad fun j => reduceSum (ns.map fun n => n.dy.getD j .zero)
    let t := tensorAt u o.ctx (vecDTid o.d) (vecD o.d)
    let r := landTensor u o.ctx o.d.tag (evalPhase o.d) t
      (savedOut u t (rowLay t.fmt (vecD o.d) (vecRows o.d) (vecCols o.d)) (vecD o.d)
        (outRows t (srKey u o.ctx (vecDTid o.d)) (vecD o.d) (vecRows o.d) (vecCols o.d) (fun i j => i * vecCols o.d + j)
          fun i j => (((ns.map (normDx p.2.2)).getD i []).getD j .zero, (ns.getD i ⟨[], [], [], .zero, false⟩).bad)))
    let q := landOut r.1 o.ctx o.d.tag (evalPhase o.d) (gain.join bias)
    exec (p.2.1 c) s = .next (settle (
      if vecRows o.d = 0 ∨ vecCols o.d = 0 then complete u o stOk 0
      else complete q.1 o (workStatus (r.2.1 || q.2.1) (r.2.2 || q.2.2)) 0))

/-- TOPK folds each row into its record and writes it back, finished when the block asks. DISTILL_GRAD in STATS folds each row's
logits into its student state, begun anew when the block says FIRST, and writes it back; in GRAD it lands the gradient of each
logit at D_ADDR and behind it each row's loss, which the block that begins at column 0 gives and the others leave 0. Each of
its modes is a row of commands, and does nothing for a descriptor whose block names the other (the model's choice, DESIGN
CHOICE, log entry 10). With no row or no column each completes OK. -/
def Obligations.TopkAndDistillRunTheirPasses : Prop :=
  ∀ (c : Cmd) (s : State),
    (starts s .topk c = true →
      let u := workState s c
      let o := workCmd s c
      let k := (topkK o.d).getD 1
      let b := topkBlock u o.d
      let one (i : Nat) : Out :=
        let a := recordAddr (vecD o.d) k i
        let row := vecRowA u o.ctx o.d i
        let f := topkFold k b (readRecord u a k) (row.map (·.1))
        let f := if b.finish then topkFinish f else f
        let out := outBytes a (recordImage k f)
          (anyPoison u (vecB o.d) 64 || row.any (·.2) || (!b.first && anyPoison u a (recordBytes k)))
        { out with stats := { Stats.empty with wrote := f.values.any fun v => !v.isFinite } }
      let r := landOut u o.ctx o.d.tag (evalPhase o.d) (Out.concat ((List.range (vecRows o.d)).map one))
      exec (.topk c) s = .next (settle (
        if vecRows o.d = 0 ∨ vecCols o.d = 0 then complete u o stOk 0 else complete r.1 o (workStatus r.2.1 r.2.2) 0)))
    ∧ (rowMode c s ≠ 1 → exec (.distillGradGrad c) s = .next s) ∧ (rowMode c s = 1 → exec (.distillGradStats c) s = .next s)
    ∧ (starts s .distillStats c = true →
      let u := workState s c
      let o := workCmd s c
      let d := o.d
      let k := (topkK d).getD 1
      let b := distillBlock u d
      let noWork := decide (vecRows d = 0 ∨ vecCols d = 0)
      (rowMode c s ≠ 1 → dgMode b ≠ 1 →
        let one (i : Nat) : Out :=
          let a := studentAddr (dgState b) k i
          let t := if dgFirst b then
              studentFirst k (if dgLabel b = 0 then -1 else signed (readLe u (dgLabel b + 4 * i) 4) 32)
            else readStudent u a k
          let t := statsFold (ofBits32 (dgInv b)) (dgBase b) (readRecord u (recordAddr (dgRec b) k i) k) t
            ((vecRowA u o.ctx d i).map (·.1))
          let out := outBytes a (studentImage k t) (distillBad u o.ctx d b k i)
          { out with stats := { Stats.empty with wrote := t.values.any fun v => !v.isFinite } }
        let r := landOut u o.ctx d.tag (evalPhase d) (Out.concat ((List.range (vecRows d)).map one))
        exec (.distillGradStats c) s = .next (settle (
          if noWork then complete u o stOk 0 else complete r.1 o (workStatus r.2.1 r.2.2) 0)))
      ∧ (rowMode c s = 1 → dgMode b = 1 →
        let t := tensor u o.ctx (vecDTid d)
        let row (i : Nat) : GradRow := ((List.range (vecRows d)).map (gradRow u b k)).getD i
          ⟨⟨.zero, .zero, 0, 0, false, false, 0, []⟩, ⟨.zero, .zero, .zero, .zero, .zero, -1, 0, false, false, []⟩,
            .zero, .zero, .zero, .zero, [], .zero⟩
        let r := landTensor u o.ctx d.tag (evalPhase d) t (outRows t (srKey u o.ctx (vecDTid d)) (vecD d) (vecRows d) (vecCols d)
          (fun i j => i * dgVocab b + dgBase b + j) fun i j =>
            (gradValue (row i) (dgBase b + j)
              (vecElem u o.ctx (vecATid d) (vecA d) (vecRows d) (vecCols d) i j).1, distillBad u o.ctx d b k i))
        let q := landOut r.1 o.ctx d.tag (evalPhase d)
          (outStats (roundUp (vecD d + rowBytes t.fmt (vecD d) (vecRows d) (vecCols d)) 64) ((List.range (vecRows d)).map fun i =>
            (if dgBase b = 0 then gradLoss (row i) else .zero, distillBad u o.ctx d b k i)))
        exec (.distillGradGrad c) s = .next (settle (
          if noWork then complete u o stOk 0
          else complete q.1 o (workStatus (r.2.1 || q.2.1) (r.2.2 || q.2.2)) 0))))

/-- SCALE_SET and the optimizer rows stage their effect in the context's journal, to take effect when the step commits, and
complete: the entry's 256 bytes hold the descriptor and from byte 64 the image or block read, poisoned where that was, and
the journal's count goes up. With no entry left, or none that can be backed, they complete QUOTA and stage nothing; with no
row or no column they complete OK. No tensor and no scale table changes before the commit. -/
def Obligations.DeferredCommandsJournalTheirEffect : Prop :=
  ∀ p ∈ [(RingOp.scaleSet, Instr.scaleSet), (.sgdMom, .sgdMom), (.adam, .adam), (.adamw, .adamw)], ∀ (c : Cmd) (s : State),
    starts s p.1 c = true →
    let u := workState s c
    let o := workCmd s c
    let d := o.d
    let block := if p.1 = .scaleSet then readBytes u (vecA d) 32 else readBytes u (vecB d) 128
    let poison := if p.1 = .scaleSet then anyPoison u (vecA d) 32 else anyPoison u (vecB d) 128
    let entry : JEntry := if p.1 = .scaleSet then .scaleSet (vecDTid d) block else .opt p.1 d block
    let used := (ctx u o.ctx).journal.length
    let a := journalAddr u o.ctx + 256 * used
    let body := (d.words.flatMap fun w => leBytes 8 w.toNat) ++ block
    let staged (v : State) : State :=
      let w := modCtx (storeBytes v a (body ++ List.replicate (256 - body.length) 0)) o.ctx fun c =>
        { c with journal := c.journal ++ [entry] }
      setRf w (.ctxCxJrnlStat o.ctx) 0 17 (ctx w o.ctx).journal.length
    (vecRows d = 0 ∨ vecCols d = 0 → exec (p.2 c) s = .next (settle (complete u o stOk 0)))
    ∧ (vecRows d ≠ 0 → vecCols d ≠ 0 →
      (journalLen u o.ctx ≤ used ∨ backPages u o.ctx (pagesOf u a 256) = none →
        exec (p.2 c) s = .next (settle (complete u o stQuota 0)))
      ∧ (∀ v, used < journalLen u o.ctx → backPages u o.ctx (pagesOf u a 256) = some v →
        exec (p.2 c) s = .next (settle (complete (if poison then poisonExtent (staged v) (a + 64) block.length else staged v) o
          (workStatus poison false) 0))))

/-- FWD attends each row of its heads to the cache, head chunk by head chunk, and lands O with its row statistics; with
NPART the unnormalised sums in FP32 and the pair (m, l) instead; with SAVE_P it also stores, block by block of each chunk, the
key codes of its rows and then their running maxima, which BWD_P reads again. BWD and BWD_P run their chunks one after another,
each adding its keys' and values' gradients, and land the gradient of Q. -/
def Obligations.AttentionForwardAndBackwardLand : Prop :=
  ∀ (c : Cmd) (s : State),
    let u := workState s c
    let o := workCmd s c
    let d := o.d
    let x := o.ctx
    let k := cacheAt u (atCache d)
    let live := rowLive (atSeqs u x d) d (atG d)
    atSeqs u x d ≠ [] →
    (starts s .fwd c = true →
      let chs := atChunks u x d k false
      let rs := chs.flatMap fun ch => (List.range ch.n).map fun i => (ch.head, ch.row + i, fwdRow u x d k ch (ch.row + i))
      let row (h r : Nat) : FwdRow := (findRow rs h r).getD ⟨.zero, .zero, [], false, []⟩
      let t := tensorAt u x (atOTid d) (opbAt u d 0)
      let store := Out.concat ((storeOffsets d k (opbAt u d 2) chs).flatMap fun q =>
        (List.range (chunkBlocks d k q.1).length).map fun b =>
          let rows := (List.range q.1.n).map fun i => row q.1.head (q.1.row + i)
          let img := (rows.flatMap fun f => (f.log.getD b ([], .zero)).1.map (BitVec.ofNat 8))
            ++ rows.flatMap fun f => leBytes 4 (bits32 (f.log.getD b ([], .zero)).2)
          outBytes (q.2 + b * storeBlock q.1.n) (img ++ List.replicate (storeBlock q.1.n - img.length) 0) (rows.any (·.bad)))
      let save (stats : Out) : Out := if atSaveP d then stats.join store else stats.join Out.empty
      (atPartial d = false →
        let main := opOut u t (srKey u x (atOTid d)) k.d (atRows d) (opbAt u d 0) (atHeads d) live fun h r i =>
          ((fwdOut (row h r)).1.getD i .zero, (row h r).bad)
        let stats := Out.concat (rs.map fun p =>
          outF32 (opbAt u d 1 + 4 * (p.1 * atRows d + p.2.1)) [((fwdOut p.2.2).2, p.2.2.bad)])
        let a := landTensor u x d.tag (evalPhase d) t (quiet main)
        let b := landOut a.1 x d.tag (evalPhase d) (quiet (save stats))
        exec (.fwd c) s = .next (settle (complete (touchArray b.1 d) o (workStatus (a.2.1 || b.2.1) (a.2.2 || b.2.2)) 0)))
      ∧ (atPartial d = true →
        let main := opOut u f32Tensor 0 k.d (atRows d) (opbAt u d 0) (atHeads d) live fun h r i =>
          ((row h r).acc.getD i .zero, (row h r).bad)
        let stats := Out.concat (rs.map fun p =>
          outF32 (opbAt u d 1 + 8 * (p.1 * atRows d + p.2.1)) [(p.2.2.m, p.2.2.bad), (p.2.2.l, p.2.2.bad)])
        let a := landOut u x d.tag (evalPhase d) { main with stats := Stats.empty }
        let b := landOut a.1 x d.tag (evalPhase d) (quiet (save stats))
        exec (.fwd c) s = .next (settle (complete (touchArray b.1 d) o (workStatus (a.2.1 || b.2.1) (a.2.2 || b.2.2)) 0))))
    ∧ ∀ p ∈ [(RingOp.bwd, Instr.bwd, false), (.bwdP, .bwdP, true)], starts s p.1 c = true →
      let stored := if p.2.2 then some (storeOffsets d k (opbAt u d 6) (atChunks u x d k false)) else none
      let r := (atChunks u x d k true).foldl (fun (st : State × List (Nat × Nat × (List Fv × Bool)) × Bool × Bool) ch =>
        let q := bwdChunk u x d k (atSeqs u x d) ch stored st.1
        (q.1, st.2.1 ++ q.2.1, st.2.2.1 || q.2.2.1, st.2.2.2 || q.2.2.2)) (u, [], false, false)
      let row (h n : Nat) := (findRow r.2.1 h n).getD ([], false)
      let t := tensorAt u x (atOTid d) (opbAt u d 3)
      let q := landTensor r.1 x d.tag (evalPhase d) t (quiet (opOut r.1 t (srKey u x (atOTid d)) k.d (atRows d) (opbAt u d 3)
        (atHeads d) live fun h n i => ((row h n).1.getD i .zero, (row h n).2)))
      exec (p.2.1 c) s = .next (settle (complete (touchArray q.1 d) o
        (workStatus (q.2.1 || r.2.2.1 || r.2.1.any fun p => p.2.2.2) (r.2.2.2 || q.2.2)) 0))

/-- APPEND lands the new keys and then the new values of its sequences in the pages of their cache, and COMBINE joins the
partial rows and lands them with the joined statistic. An attention row whose admission table gives it no sequence completes
OK. -/
def Obligations.AttentionAppendAndCombineLand : Prop :=
  ∀ (c : Cmd) (s : State),
    let u := workState s c
    let o := workCmd s c
    let d := o.d
    let k := cacheAt u (atCache d)
    let seqs := atSeqs u o.ctx d
    (∀ p ∈ [(RingOp.fwd, Instr.fwd), (.bwd, .bwd), (.bwdP, .bwdP), (.append, .append), (.attnCombine, .attnCombine)],
      starts s p.1 c = true → seqs = [] → exec (p.2 c) s = .next (settle (complete u o stOk 0)))
    ∧ (starts s .append c = true → seqs ≠ [] →
      let side (n : Nat) : Out := Out.concat (seqs.flatMap fun e => (List.range (atHeads d)).map fun h =>
        appendSide u o.ctx k (headAt u (headAddr e.pageRec k.slot)) ⟨atLayer d, atFirst d + h, n⟩
          ((List.range ((seqSpan d e).2 - (seqSpan d e).1)).map fun i =>
            ⟨e.cachePos + (atTokBase d + ((seqSpan d e).1 + i)) - e.start,
              opRow u (tensorAt u o.ctx (atAuxTid d) (opbAt u d n)) k.d (atTokCount d) (atHeads d) (opbAt u d n) h
                ((seqSpan d e).1 + i)⟩))
      let rk := landTensor u o.ctx d.tag (evalPhase d) (tensor u o.ctx k.kTid) (quiet (side 0))
      let rv := landTensor rk.1 o.ctx d.tag (evalPhase d) (tensor u o.ctx k.vTid) (quiet (side 1))
      exec (.append c) s = .next (settle (complete rv.1 o (workStatus (rk.2.1 || rv.2.1) (rk.2.2 || rv.2.2)) 0)))
    ∧ (starts s .attnCombine c = true → seqs ≠ [] →
      let live := rowLive seqs d (atG d)
      let rs := (List.range (atHeads d)).flatMap fun h => ((List.range (atRows d)).filter live).map fun r =>
        (h, r, combineRow u k d h r)
      let row (h r : Nat) := (findRow rs h r).getD ([], .zero, false)
      let t := tensorAt u o.ctx (atOTid d) (opbAt u d 2)
      let main := opOut u t (srKey u o.ctx (atOTid d)) k.d (atRows d) (opbAt u d 2) (atHeads d) live
        fun h r i => ((row h r).1.getD i .zero, (row h r).2.2)
      let stats := Out.concat (rs.map fun p => outF32 (opbAt u d 3 + 4 * (p.1 * atRows d + p.2.1)) [(p.2.2.2.1, p.2.2.2.2)])
      let a := landTensor u o.ctx d.tag (evalPhase d) t (quiet main)
      let b := landOut a.1 o.ctx d.tag (evalPhase d) (quiet stats)
      exec (.attnCombine c) s = .next (settle (complete b.1 o (workStatus (a.2.1 || b.2.1) (a.2.2 || b.2.2)) 0)))

/-- A COLL of this package alone completes at once with its number as DETAIL: a reduction lands its own values in the
destination's format and counts them, ALLGATHER and ALLTOALL copy their units as they are, DISPATCH lays its rows out at the
experts with the assignments and the summary, and counts what it rerouted, COMBINE lands its gated sums, and COMPRESSED lands
the merged values and the new residual. One of a group with other members tells each of them its parameters, and waits while
nothing of theirs has come; one whose exchange a member has abandoned already ends REMOTE_FAIL, its context marked.
COMPRESSED journals the turn of its block first, and completes QUOTA where there is no room for it. -/
def Obligations.CollectivesExchangeWithTheirGroup : Prop :=
  ∀ p ∈ [(RingOp.allreduce, Instr.allreduce), (.reduceScatter, .reduceScatter), (.allgather, .allgather), (.alltoall, .alltoall),
      (.dispatch, .dispatch), (.collCombine, .collCombine), (.compressed, .compressed)],
    ∀ (c : Cmd) (s : State), starts s p.1 c = true →
    let v := workState s c
    let o := workCmd s c
    let d := o.d
    let x := o.ctx
    let g := clGroup d
    let flip := journalAdd v x d [] (.flip (clAux d))
    let w := if p.1 = .compressed then flip.getD v else v
    let u := forgetPast w g
    let none' : Nat → Lines := fun _ => ⟨[], []⟩
    let land (y : State) (counted plain : Out) : State :=
      let eval := p.1 = .dispatch || p.1 = .collCombine
      let a := storeOut y x d.tag counted.cells counted.bad
      let z := countStats (landMarks a.1 x d.tag eval counted) x (tensor y x (clDTid d)) eval counted.stats
      let b := storeOut z x d.tag plain.cells plain.bad
      forgetPast (complete (landMarks b.1 x d.tag eval plain) o
        (workStatus (!counted.bad.isEmpty || !plain.bad.isEmpty) (a.2 || b.2)) o.seqNo) g
    (p.1 = .compressed → flip = none →
      exec (p.2 c) s = .next (settle (forgetPast (complete (clAbandon v o) o stQuota o.seqNo) g)))
    ∧ ((p.1 = .compressed → flip ≠ none) → collFetch w o = [] →
      (clMembers w d = [ownPkg w] →
        (p.1 = .allreduce ∨ p.1 = .reduceScatter → exec (p.2 c) s = .next (settle (land u
          (outRows (tensor u x (clDTid d)) (srKey u x (clDTid d)) (clDst d) 1 (clCount d) (fun _ j => j) fun _ j => srcValue u x d j)
          Out.empty)))
        ∧ (p.1 = .allgather ∨ p.1 = .alltoall → exec (p.2 c) s = .next (settle (land u Out.empty
          (Out.concat [outCopy u (clSrc d) (clDst d) (clCount d * unitBytes (tensor u x (clSTid d)).fmt)]))))
        ∧ (p.1 = .dispatch → exec (p.2 c) s = .next (settle (
          let b := expertBlock u (clAux d)
          let as := assignAll u x d b
          land (bumpBy u (.telCxReroutes x) 0 48 (as.filter (rerouted u b)).length) Out.empty (Out.concat
            (((servedBy u b (ownPkg u)).map fun e => placeExpert (tensor u x (clSTid d)).fmt (clCount d) b (expertAt u b.map e)
                (rowsFor u x d b as e))
              ++ [assignOut u b as fun _ => 0,
                  summaryOut u b (realTokens u x d b).length as])))))
        ∧ (p.1 = .collCombine → combineLines u x d = [] → exec (p.2 c) s = .next (settle (land u
          (let b := expertBlock u (clAux d)
           Out.concat ((realTokens u x d b).map fun k =>
             outRowAt (tensor u x (clDTid d)) (srKey u x (clDTid d)) (clDst d) b.count (clCount d) k (combineRowOf u x d b k)))
          Out.empty)))
        ∧ (p.1 = .compressed → exec (p.2 c) s = .next (settle (land u (compressedOut u x d none').1 (compressedOut u x d none').2))))
      ∧ (1 < (clMembers u d).length → u.abandoned.contains (g, o.seqNo) = false → (∀ q ∈ u.collIn, q.2.group.val ≠ g) →
        (∃ k ∈ clMembers u d, k ≠ ownPkg u) →
        exec (p.2 c) s = .next (settle (putOut ((clPeers u d).foldl (fun y k => sendMessage y k 4 8 x d.tag 0
          (messageLine 0 g o.seqNo (paramBits (collParams u o)))) u) { o with st := .coll .shake })))
      ∧ (1 < (clMembers u d).length → u.abandoned.contains (g, o.seqNo) = true →
        exec (p.2 c) s = .next (settle (forgetPast (complete (setRemotePoisoned
          (clAbandon { u with abandoned := u.abandoned.filter (· != (g, o.seqNo)) } o) x true) o stRemoteFail o.seqNo) g))))

/-- What the ring processor's own rows do as they start. A SYNC with a barrier and earlier commands outstanding waits at it;
then one with a fence waits until every posted write before it is answered, and ends REMOTE_FAIL in a remote-poisoned context;
then one whose value has not come waits for it; and otherwise it signals, marks its layer, selects its map and completes OK. A
STEP waits at its fence; an ADMIT backs and pins the pools that it names first and is staged for the boundary; a TAKE takes its
cut, whose dirty slabs stream, or waits for the stream that runs; a CALL begins its registered program; a RESTORE that names
no generation at hand completes BAD_DESC, and one whose pages cannot be backed QUOTA, its context's other commands aborted. -/
def Obligations.RingProcessorRowsBegin : Prop :=
  ∀ (c : Cmd) (s : State) (failsAt : Option Nat) (ev : List ArrEvent),
    let u := workState s c
    let o := workCmd s c
    let d := o.d
    let x := o.ctx
    let fenced : OutCmd := { o with st := .syncFence, seqNo := u.nextId }
    let barrier := syBarrier d && !(earlierOuts u o).isEmpty
    let clear := !(ctx u x).posted.any fun p => decide (p.stamp < u.nextId)
    let met := match syWaitOp d with
      | 1 => decide (d.w4.toNat ≤ readLe u (syWaitAddr d) 8)
      | 2 => readLe u (syWaitAddr d) 8 == d.w4.toNat
      | _ => true
    let signalled := match sySigOp d with
      | 0 => u
      | op =>
        let a := sySigAddr d
        if isRemote u a then postWrite u x d.tag a (leBytes 8 d.w6.toNat) false
        else storeBytes u a (leBytes 8 (if op = 1 then readLe u a 8 + d.w6.toNat else d.w6.toNat))
    let layered := if syLayer d then layerMark signalled x else signalled
    let mapped := if syMapSet d then modRing layered x o.ring fun r => { r with map := syMap d } else layered
    (starts s .sync c = true →
      (barrier = true → exec (.sync c) s = .next (settle (putOut u { o with st := .syncBarrier })))
      ∧ (barrier = false → syFence d = true → clear = false → exec (.sync c) s = .next (settle (putOut u fenced)))
      ∧ (barrier = false → syFence d = true → clear = true → remotePoisoned u x = true →
        exec (.sync c) s = .next (settle (complete u fenced stRemoteFail 0)))
      ∧ ∀ q, barrier = false → (syFence d = true → clear = true ∧ remotePoisoned u x = false) →
        q = (if syFence d then fenced else o) →
        (met = false → exec (.sync c) s = .next (settle (putOut u { q with st := .syncWait })))
        ∧ (met = true → exec (.sync c) s = .next (settle (complete mapped q stOk 0))))
    ∧ (starts s .step c = true → exec (.step c) s = .next (settle (putOut u { o with st := .stepFence })))
    ∧ (starts s .admitTable c = true → exec (.admitTable c) s = .next (settle (putOut
        (((admCaches d).map fun p => poolFrom u p.1 p.2).foldl (fun y p =>
          if (ctx y x).pools.any p.same then y
          else
            let ps := poolPages y p
            modCtx (ps.foldl (fun z k => setTier z k { tierAt z k with pin := true }) ((backPages y x ps).getD y)) x fun c =>
              { c with pools := c.pools ++ [p] }) u)
        { o with st := .staged })))
    ∧ (starts s .take c = true →
      let v := putOut u { o with st := .streaming }
      ((ctx v x).stream.isSome = true → exec (.take c) s = .next (settle v))
      ∧ ((ctx v x).stream = none →
        let all := slabsOf v (snapExtents v x)
        let every := snFull d || (ctx v x).snapList != snapEntries v x || !(ctx v x).everSnap || (ctx v x).snapFull
        let set := if every then all else all.filter (slabDirty v x)
        let w := setDirty v x false all
        exec (.take c) s = .next (settle (setStreaming (modCtx w x fun c =>
          { c with stream := some ⟨captureGen v x, set, some o.ident, now w⟩, lastCut := now w, snapFull := false
                   cutDue := false, snapList := snapEntries w x }) x true set.length))))
    ∧ (∀ p, starts (strike s ev) .invoke c = true →
        let v := workState (strike s ev) c
        let q := workCmd (strike s ev) c
        progOf v q.ctx (callProg q.d) = some p →
        exec (.invoke ⟨c, ev⟩) s = .next (settle (putOut v { q with st := .call 0 p.count none false })))
    ∧ (starts s .restore c = true →
      let v := abortOthers u o
      (restoreGen v x d = none → exec (.restore c failsAt) s = .next (settle (complete v o stBadDesc 0)))
      ∧ ∀ g, restoreGen v x d = some g → backPages v x (genPages v g) = none →
        exec (.restore c failsAt) s = .next (settle (complete v o stQuota 0)))

/-- RESTORE returns its context to a generation of its own, and RESTORE_FROM to the one that its sources hold, slab by slab; one
that waits is served as its sources answer, and one that is read is served at once. The context's other commands are aborted
and a staged ADMIT is cancelled; the journal and the marks are dropped, the adapters, the captured bytes and marks, the
counter, the maps unless they are to be kept, and the histories return, pending magnitudes are cleared, the context's groups
begin anew, and the remote-poison mark is lifted; each completes OK. A read that fails poisons what has not come back,
reports it, and ends TIER_FAIL, or REMOTE_FAIL where a source is lost. Parts that do not join end BAD_DESC, those of a lost
source REMOTE_FAIL. -/
def Obligations.RestoreFromIsServedByItsSources : Prop :=
  ∀ (c : Cmd) (s : State) (failsAt : Option Nat) (parts : List SnapPart) (lost : Bool),
    let back (v : State) (o : OutCmd) (g : Gen) (failsAt : Option Nat) (failSt : Nat) : State :=
      let x := o.ctx
      let v := (v.outs.filter fun p => p.ctx == x && p.st == .staged).foldl (fun s p => complete s p stCancelled 0) v
      let w := (backPages v x (genPages v g)).getD v
      let w := refreshUsed (modCtx w x fun c => { c with journal := [], marks := [], nextMarks := [], counted := 0 }) x
      let w := setReg w (.ctxCxSteprec x) (setFld 0 4 1 (if remotePoisoned w x then 1 else 0))
      let w := restoreAdapters w x g (o.op == .restoreFrom)
      let skip := if snKeepMaps o.d then (rf w (.ctxCxPmap x) 0 48, 256) else (0, 0)
      let slabs := slabsOf w g.extents
      let n := match failsAt with | some k => min k slabs.length | none => slabs.length
      let r := (slabs.take n).foldl (restoreSlab g skip) (w, false)
      match failsAt with
      | some _ => complete (report ((slabs.drop n).foldl (fun s k => poisonExtent s (k * slabBytes) slabBytes) r.1) 0x49 1
          (if failSt = stRemoteFail then srcOf 10 (snSrc o.d) else tierSource r.1 (rf w (.fltCxSnapArea x) 0 48))
          (some x) 4 0 0) o failSt 0
      | none =>
        let y := setRemotePoisoned (clearAmax (setReg r.1 (.ctxCxStep x) g.gen) x) x false
        let y := { y with verdicts := y.verdicts.filter fun v => !grpOpen y x v.1 }
        let y := modCtx y x fun c =>
          { c with maps := if snKeepMaps o.d then c.maps else g.maps, hist := g.hist
                   rings := c.rings.map fun p => (p.1, { p.2 with map := 0 }) }
        let y := resetGroups (setDirty y x false slabs) x
        complete (if snPrev o.d then showGens (modCtx y x fun c => { c with newest := c.prev, prev := none }) x else y) o
          (workStatus false r.2) 0
    let served (v : State) (o : OutCmd) (t : State) : Prop :=
      (∀ g, joinParts v o.ctx o.d parts = some g → backPages v o.ctx (genPages v g) ≠ none →
        t = settle (back v o g (if lost then some 0 else none) stRemoteFail))
      ∧ (∀ g, joinParts v o.ctx o.d parts = some g → backPages v o.ctx (genPages v g) = none →
        t = settle (complete v o stQuota 0))
      ∧ (joinParts v o.ctx o.d parts = none → t = settle (complete v o (if lost then stRemoteFail else stBadDesc) 0))
    (starts s .restore c = true →
      let o := workCmd s c
      let v := abortOthers (workState s c) o
      ∀ g, restoreGen v o.ctx o.d = some g → backPages v o.ctx (genPages v g) ≠ none →
        exec (.restore c failsAt) s = .next (settle (back v o g failsAt stTierFail)))
    ∧ (∀ o, waitingRestore s c = some o → ∃ t, exec (.restoreFrom c parts lost) s = .next t ∧ served s o t)
    ∧ (waitingRestore s c = none → starts s .restoreFrom c = true → ∃ t, exec (.restoreFrom c parts lost) s = .next t
      ∧ served (abortOthers (workState s c) (workCmd s c)) (workCmd s c) t)

/-- REGISTER stores where a program lies, how many descriptors it holds and its digest, and advances the epoch; RELEASE of
a program that is not running drops it and advances the epoch, and one that is running waits for it. Both complete with
DETAIL 0xFFFFFFFF. -/
def Obligations.ProgramsAreRegisteredAndReleased : Prop :=
  ∀ (c : Cmd) (s : State),
    let u := workState s c
    let o := workCmd s c
    (starts s .register c = true →
      let n := imageCount u (callImage o.d)
      exec (.register c) s = .next (settle (complete (advanceEpoch (setProg u o.ctx (callProg o.d)
        (some ⟨resolve u (callImage o.d), n, Config.sha384 (readBytes u (callImage o.d) (64 + 64 * n))⟩))) o stOk 0xFFFFFFFF)))
    ∧ (starts s .callRelease c = true → exec (.callRelease c) s = .next (settle (
        if progRuns u o.ctx (callProg o.d) then putOut u { o with st := .release }
        else complete (advanceEpoch (setProg u o.ctx (callProg o.d) none)) o stOk 0xFFFFFFFF)))

/-- The telemetry rows: READ writes the records of the tensors and sets named, CLEAR clears those sets, READ_CLEAR does
both, and CTX_READ writes the context's one record. Each record is 64 bytes, and TEL_RECORDS counts those written. -/
def Obligations.TelemetryRowsWriteRecords : Prop :=
  ∀ (c : Cmd) (s : State),
    let u := workState s c
    let o := workCmd s c
    let write (rs : List Nat) : State × Bool :=
      let bytes := rs.flatMap (leBytes 64)
      let r := storeOut u o.ctx o.d.tag ((List.range bytes.length).map fun i => (telDst o.d + i, bytes.getD i 0)) []
      (bumpBy r.1 .telRecords 0 48 rs.length, r.2)
    let r := write ((telItems o.d).map (assayRecordNow u o.ctx))
    (starts s .assayRead c = true → exec (.assayRead c) s = .next (settle (complete r.1 o (workStatus false r.2) 0)))
    ∧ (starts s .assayClear c = true → exec (.assayClear c) s = .next (settle (complete (clearSets u o.ctx (telItems o.d)) o stOk 0)))
    ∧ (starts s .assayReadClear c = true →
        exec (.assayReadClear c) s = .next (settle (complete (clearSets r.1 o.ctx (telItems o.d)) o (workStatus false r.2) 0)))
    ∧ (starts s .ctxRead c = true →
        exec (.ctxRead c) s = .next (settle (complete (write [ctxRecord u o.ctx]).1 o (workStatus false (write [ctxRecord u o.ctx]).2) 0)))

/-! ## Scheduling, waits and steps -/

/-- An engine with nothing of its own in hand starts the first command of the lane that its arbitration chooses, as the row that
reads such a command does when it starts at once; a gang starts when its last member has reserved itself, and a member before
that only reserves itself. At a miss the event, MISSED and the counts are recorded, and with DROP_LATE a command that can still
be stopped ends CANCELLED. A cancel word ends every command of the ring that it matches and that can still be stopped, and stays
for what is unread; where no host gate stands in its way it always takes effect. -/
def Obligations.SchedulingEventsAct : Prop :=
  (∀ (failsAt : Option Nat), ∀ p ∈ ringRows failsAt, ∀ (c : Cmd) (s : State), starts s p.1 c = true → failsAt = none →
    exec (p.2 c) s = .next (settle (runOp p.1 (workState s c) (workCmd s c))))
  ∧ ∀ s : State,
    (∀ (e : Fin 612) (ev : List ArrEvent) (o : OutCmd), s.failed = false → movingOn s e.val = none → gangOn s e.val = none →
      engineHeld s e.val = false → arbitrate s e.val = some o →
      let t := strike s ev
      let g : OutCmd := { o with held := o.held ++ [e.val] }
      ((enginesOf o.d).length ≤ 1 → startsNow t o = true →
        exec (.engineArbitration ⟨e, ev, none⟩) s = .next (settle (runOp o.op (begun t o) (heldOf t o).2)))
      ∧ (1 < (enginesOf o.d).length → (enginesOf o.d).all g.held.contains = false →
        exec (.engineArbitration ⟨e, ev, none⟩) s = .next (putOut t g))
      ∧ (1 < (enginesOf o.d).length → (enginesOf o.d).all g.held.contains = true → startsNow (putOut t g) g = true →
        exec (.engineArbitration ⟨e, ev, none⟩) s = .next (settle (runOp g.op (begun (putOut t g) g) (heldOf (putOut t g) g).2))))
    ∧ (∀ (x : Fin 64) (n : Fin 16) (pos : Word32) (o : OutCmd),
      (s.outs.find? fun o => o.ctx == x.val && o.ring == n.val && o.pos == pos.toNat && !o.missed && deadlinePassed s o) = some o →
      exec (.deadlineMiss x n pos) s = .next (settle (
        let r := missNow s o (landedUnits o).1
        if ringDropLate s o.ctx o.ring && stoppable s o then endCommand r.1 r.2 stCancelled else r.1)))
    ∧ (∀ (x : Fin 64) (n : Fin 16) (tee : Bool) (value mask : Word32), hostGate s tee = .serve →
      let hit := s.outs.filter fun o => o.ctx == x.val && o.ring == n.val && o.parent.isNone
        && cancelMatches value.toNat mask.toNat o.d.tag && stoppable s o
      let u := (hit.map fun o => o.ident).foldl (fun u i => match findOut u i with
        | some o => endCommand u o stCancelled
        | none => u) s
      let tail := (ringSt u x.val n.val).subTail
      exec (.cancel x n 8 tee (.write (leBytes 4 value.toNat ++ leBytes 4 mask.toNat))) s
        = .next (settle (
        if subHead u x.val n.val = tail then u
        else modRing u x.val n.val fun r => { r with cancels := r.cancels ++ [(tail, value.toNat, mask.toNat)] })))

/-- The end of a kindling window without real work starts the ramp down of an array in service. A ramp step of a working
array moves its governor once: down by 1, to rest from 1; up by 1 towards its ceiling, a held budget first turning to rise; and
a budget above its ceiling comes down by 1. While kindling is on a working array launches a pair in it; one that fails its
check is counted and reported, and the second in a row fails the cluster. -/
def Obligations.RampEventsMoveTheGovernor : Prop :=
  ∀ (s : State) (p : Fin 324),
    let once (u : State) : State :=
      let a := arrSt u p.val
      let b := budget u p.val
      let top := ceiling u p.val
      let turn (v : State) (r : Ramp) : State := setArr v p.val { a with ramp := r }
      match a.ramp with
      | .down => if b ≤ 1 then setArr (setBudget u p.val 0) p.val { a with ramp := .steady, window := false }
        else setBudget u p.val (b - 1)
      | .hold => if b < top then turn (setBudget u p.val (b + 1)) .up else turn u .up
      | .up => if top < b then setBudget u p.val (b - 1)
        else if b < top then setBudget u p.val (b + 1)
        else if b = 16 then turn u .steady else u
      | .steady => if b = 0 ∨ b = top then u else if top < b then setBudget u p.val (b - 1) else setBudget u p.val (b + 1)
    let pair := setArr s p.val { arrSt s p.val with lfsr := Config.lfsrNext (arrSt s p.val).lfsr }
    (cluInService s p.val = true → (arrSt s p.val).window = true → budget s p.val ≠ 0 →
      exec (.kindlingWindowEnd p) s = .next (setArr s p.val { arrSt s p.val with window := false, ramp := .down }))
    ∧ (cluInService s p.val = true → cluFailed s p.val = false →
      (∀ mismatch : Bool, budget s p.val = 0 ∨ kindleOn s = false → exec (.rampStep p mismatch) s = .next (once s))
      ∧ (budget s p.val ≠ 0 → kindleOn s = true → exec (.rampStep p false) s = .next (once pair))
      ∧ (budget s p.val ≠ 0 → kindleOn s = true →
        let u := report (bumpBy pair (.arrCluStat p.val) 16 8 1) 0x03 0 (srcOf 0 p.val) none 0 0 0
        let n := (arrSt pair p.val).kindles + 1
        let v := setArr u p.val { arrSt u p.val with kindles := n }
        exec (.rampStep p true) s = .next (once (if 2 ≤ n then failCluster v p.val [(none, 0)] else v))))

/-- A ramp step moves the launch budget by at most 1, never above its ceiling nor above 16 when it rises, and changes no
byte, no poison mark and no outstanding command. -/
def Obligations.RampStepsMoveTheBudgetByOne : Prop :=
  ∀ (s t : State) (p : Fin 324), exec (.rampStep p false) s = .next t → budget s p.val ≤ 16 →
    budget t p.val ≤ budget s p.val + 1 ∧ budget s p.val ≤ budget t p.val + 1 ∧ budget t p.val ≤ 16
      ∧ (budget s p.val < budget t p.val → budget t p.val ≤ ceiling s p.val)
      ∧ sameStore s t ∧ sameWork s t

/-- A SYNC whose waited value has come signals and completes OK; one that waits too long writes a SEM_TIMEOUT event, and its
context is torn down. A context that is being disabled is torn down when its rings have drained: its commands end, what it owns
is released and scrubbed, and it is idle. A STEP whose fence has drained ends REMOTE_FAIL in a remote-poisoned context; in a
group it sends its verdict and waits for the others', and voids with cause PEER where one differs, is not finite or does not
come in time; with a cause it voids, which discards what is staged; a map load loads the maps; and otherwise it commits the
journal, the exponents and the images, counts the step, and lets due rebuilds run first. Every boundary then makes finished
adapters LIVE, retires, performs the staged ADMIT, exports, begins the next record and completes the STEP. The verdict of one
that is no member, and the package's own, change nothing. -/
def Obligations.WaitsAndStepEventsAct : Prop :=
  ∀ (s : State) (x : Fin 64),
    let torn (v : State) (fault : Option Nat) : State :=
      let w := setRf (setRf v (.schCxStat x.val) 0 16 0xFFFF) (.schCxStat x.val) 32 1 1
      let w := match fault.bind (findOut w) with | some o => endCommand w o stCtxFault | none => w
      let w := dropStream (endAll w stAborted ((w.outs.filter fun o => o.ctx == x.val && o.parent.isNone).map (·.ident))) x.val
      let w := match fault.bind (findOut v) with | some o => writeEvent w x.val (cmdEvent o 0x0A stCtxFault) | none => w
      let w := unloadAll (dropTiles (releaseGroups (retireAll w x.val) x.val) x.val) x.val
      let j := journalExt w x.val
      let w := scrubSram (zeroExtent (scrubPages w x.val) j.lo.toNat j.len) x.val
      let w := modCtx w x.val fun c => trimRings (tornCtx c)
      let w := setReg (setRf w (.ctxCxSteprec x.val) 4 1 0) (.ctxCxJrnlStat x.val) 0
      let w := setRf (setRf (setRf w .ctxEnabled x.val 1 0) (.ctxCxSetupStat x.val) 16 1 0) (.ctxCxCtl x.val) 1 1 0
      settle (advanceEpoch (setRf (setRf w (.schCxStat x.val) 32 1 0) (.schCxStat x.val) 33 1 1))
    let finish (u : State) (o : OutCmd) (status cause : Nat) (lost : List Addr) : State :=
      let tag := match stepMarks u o with | m :: _ => m.tag | [] => 0
      let u := { u with attCtl := reg u .attCtl, attSpill := reg u .attSpillCtl }
      let u := ((adaptersOf u x.val .pending).filter (·.2.finished)).foldl (fun u p =>
        advanceEpoch (setAdp u p.1 { p.2 with state := .live, finished := false })) u
      let es := admittedEntries u x.val
      let u := ((ctx u x.val).adpReqs.filter fun q => q.op == 4 && !es.any fun e => e.adpV && e.adapter == q.adapter).foldl
        (fun u q => retireNow u x.val q) u
      let u := match u.outs.find? fun o => o.ctx == x.val && o.st == .staged with
        | some a => performAdmit u a (lost.map BitVec.toNat)
        | none => u
      let u := nextRecord (readAdapterTable (outgoingArchives u x.val) x.val) o
      let n := reg u (.ctxCxStep x.val)
      let v := complete u o status (n.toNat % 2 ^ 32)
      if status = stStepVoid then
        writeEvent v x.val ⟨0x02, some o.ring, if o.parent.isSome then some o.prog else none, tag, n.toNat + cause * 2 ^ 64⟩
      else v
    let empty (u : State) : State := setRf (modCtx u x.val fun c => { c with journal := [] }) (.ctxCxJrnlStat x.val) 0 17 0
    let commit (u : State) (o : OutCmd) (cut : List (Nat × SpareUnit)) : State × Nat :=
      let jr := (ctx u x.val).journal
      let r := ((List.range jr.length).zip jr).foldl (commitEntry x.val cut) (u, ⟨false, false, false⟩)
      let q := commitScales ((journalAdapters u x.val).foldl advanceVersion r.1) x.val
      let i := commitImages q.1 x.val
      let poisoned := r.2.poisoned || q.2 || i.2
      let v := zeroAccs (empty i.1) o.d
      let v := modCtx (setReg v (.ctxCxStep x.val) (regRaw v (.ctxCxStep x.val) + 1)) x.val fun c => { c with snapSince := false }
      (if poisoned then addReport v 42 ⟨0x40, 1, 0, some x.val, 3, 0, cmdRef o, [0], 0, now v⟩ else v,
       if r.2.cut then stChecksum else if r.2.exhausted then stKeyExhausted else if poisoned then stPoisonIn else stOk)
    let decide' (u : State) (o : OutCmd) (cause : Nat) (lost : List Addr) (cut : List (Nat × SpareUnit)) : State :=
      if cause ≠ 0 then
        finish (zeroAccs (bump (empty (clearAmax u x.val)) (.telCxVoids x.val)) o.d) o stStepVoid cause lost
      else if spMapLoad o.d then
        let v := zeroAccs (clearAmax u x.val) o.d
        finish (modCtx v x.val fun c =>
          { c with maps := tableMaps v x.val, rings := c.rings.map fun p => (p.1, { p.2 with map := 0 }) }) o stOk 0 lost
      else
        let r := commit u o cut
        if rebuildWaits r.1 x.val then putOut r.1 { o with st := .stepRebuild r.2 }
        else finish (cutAtCommit r.1 x.val (r.2 == stOk)) o r.2 0 lost
    let judged (u : State) (o : OutCmd) (cause : Nat) (lost : List Addr) (cut : List (Nat × SpareUnit)) : State :=
      let v := takeVerdicts u (spGroup o.d) (groupPeers u o.d)
      if !countersAgree u o then decide' (setRemotePoisoned v x.val true) o (cause ||| causePeer) lost cut
      else decide' v o (if peersFinite u o.d then cause else cause ||| causePeer) lost cut
    (∀ (n : Fin 16) (o : OutCmd),
      (s.outs.find? fun o => o.ctx == x.val && o.ring == n.val && o.st == .syncWait && waitMetNow s o.d) = some o →
      exec (.waitMet x n) s = .next (settle (complete (
        let u := if syLayer o.d then layerMark (doSignal s o) o.ctx else doSignal s o
        if syMapSet o.d then modRing u o.ctx o.ring fun r => { r with map := syMap o.d } else u) o stOk 0)))
    ∧ (∀ (n : Fin 16) (o : OutCmd),
      (s.outs.find? fun o => o.ctx == x.val && o.ring == n.val && o.st == .syncWait) = some o → waitMetNow s o.d = false →
      let u := writeEvent s x.val (cmdEvent o 0x09 (syWaitAddr o.d))
      ctxIdle u x.val = false → exec (.semTimeout x n) s = .next (torn u (some o.ident)))
    ∧ ((ctx s x.val).disabling = true → ringsDrained s x.val = true → ctxIdle s x.val = false →
      exec (.teardown x) s = .next (torn s none))
    ∧ (∀ (lost : List Addr) (cut : List (Nat × SpareUnit)) (o : OutCmd), runningStep s x.val = some o →
      (o.st = .stepFence → fenceDrained s o = true → remotePoisoned s x.val = true → exec (.stepBoundary x lost cut) s
        = .next (settle (complete s o stRemoteFail ((reg s (.ctxCxStep x.val)).toNat % 2 ^ 32))))
      ∧ (o.st = .stepFence → fenceDrained s o = true → remotePoisoned s x.val = false → spGroupEn o.d = false →
        exec (.stepBoundary x lost cut) s = .next (settle (decide' s o (stepCause s o) lost cut)))
      ∧ (o.st = .stepFence → fenceDrained s o = true → remotePoisoned s x.val = false → spGroupEn o.d = true →
        let u := sendVerdict s o (stepCause s o == 0)
        let q : OutCmd := { o with st := .stepGroup (stepCause s o) }
        exec (.stepBoundary x lost cut) s
          = .next (settle (if verdictsIn u o.d then judged u q (stepCause s o) lost cut else putOut u q)))
      ∧ (∀ cause, o.st = .stepGroup cause → verdictsIn s o.d = true →
        exec (.stepBoundary x lost cut) s = .next (settle (judged s o cause lost cut)))
      ∧ (∀ status, o.st = .stepRebuild status → rebuildWaits s x.val = false →
        exec (.stepBoundary x lost cut) s = .next (settle (finish (cutAtCommit s x.val (status == stOk)) o status 0 lost)))
      ∧ (∀ cause, o.st = .stepGroup cause → verdictsIn s o.d = false →
        exec (.stepGroupTimeout x) s = .next (settle (decide' (setRemotePoisoned
          (takeVerdicts s (spGroup o.d) (groupPeers s o.d)) x.val true) o (cause ||| causePeer) [] []))))
    ∧ (∀ (f : Frame) (g : Fin 64) (k : Word) (fin : Bool), accepts s f = true →
      let u := received s f 4
      ((grpMembers u g.val).contains f.src.val = true → f.src.val ≠ ownPkg u → exec (.stepVerdict f g k fin) s
        = .next (settle { u with verdicts := u.verdicts ++ [(g.val, f.src.val, k, fin)] }))
      ∧ ((grpMembers u g.val).contains f.src.val = false ∨ f.src.val = ownPkg u →
        exec (.stepVerdict f g k fin) s = .next (settle u)))

/-- The oldest running snapshot stream ends: its generation becomes the newest and the newest the previous one, and a TAKE
that began it completes OK; or its write has failed, which is reported, and the TAKE ends TIER_FAIL and no generation
changes. -/
def Obligations.SnapshotStreamsEnd : Prop :=
  ∀ (s : State) (x : Fin 64) (t : Sys2Proof.Machine.Stream), streamRuns s x.val = true → (ctx s x.val).stream = some t →
    (exec (.snapshotStreamEnd x false) s = .next (settle (
      let u := showGens (setStreaming (modCtx s x.val fun c =>
        { c with stream := none, prev := c.newest, newest := some t.cut, everSnap := true, lastDur := now s - t.start
                 snapSince := t.cut.gen == reg s (.ctxCxStep x.val) }) x.val false 0) x.val
      nextCut (match t.byTake.bind (findOut u) with | some o => complete u o stOk 0 | none => u) x.val)))
    ∧ (exec (.snapshotStreamEnd x true) s = .next (settle (
      let u := report (dropStream s x.val) 0x48 1 (tierSource s (rf s (.fltCxSnapArea x.val) 0 48)) (some x.val) 4 0 0
      nextCut (match t.byTake.bind (findOut u) with | some o => complete u o stTierFail 0 | none => u) x.val)))

/-! ## The host's windows -/

/-- Doorbells, event heads, interrupts held back by coalescing, failed fetches and accesses of BAR4 take their effect where
the host's gate lets them through. Each value of a doorbell is judged on its own: a new tail or head within its rule is taken,
one that breaks it is counted and raises an event, and one for a ring that is not enabled is counted. A read answers what was
last accepted. BAR4 answers the bytes, zeros from unbacked pages, with the poison bit, and takes a write's served part; one
refused byte refuses the access whole and is counted. -/
def Obligations.HostEventsAct : Prop :=
  ∀ (s : State) (x : Fin 64) (n : Fin 16) (tee : Bool),
    let bad (u : State) (which v : Nat) : State :=
      writeEvent (bump u .hifDbErrCnt) x.val ⟨0x08, none, none, 0, (if which = 2 then 0 else n.val) + which * 2 ^ 4 + v % 2 ^ 32 * 2 ^ 32⟩
    let tail (u : State) (v : Word32) : State :=
      if !ringEn u x.val n.val then bump u .hifDbErrCnt
      else if cnt32 v.toNat (subHead u x.val n.val) ≤ ringSize u (.ctxCxSq x.val n.val) then
        modRing u x.val n.val fun r => { r with subTail := v.toNat }
      else bad u 0 v.toNat
    let head (u : State) (v : Word32) : State :=
      if !ringEn u x.val n.val then bump u .hifDbErrCnt
      else if consumedOk (cplWr u x.val n.val) (ringSt u x.val n.val).cplHead (ringSize u (.ctxCxCq x.val n.val)) v.toNat then
        modRing u x.val n.val fun r => { r with cplHead := v.toNat }
      else bad u 1 v.toNat
    (hostGate s tee = .serve →
      (∀ a b : Word32, exec (.doorbell x n 0 tee (.write (leBytes 4 a.toNat ++ leBytes 4 b.toNat))) s
          = .next (head (tail s a) b)
        ∧ exec (.doorbell x n 0 tee (.write (leBytes 4 a.toNat))) s = .next (tail s a)
        ∧ exec (.doorbell x n 4 tee (.write (leBytes 4 b.toNat))) s = .next (head s b))
      ∧ exec (.doorbell x n 0 tee (.read 8)) s = .next (emit s (.barRead (some
          (leBytes 4 (ringSt s x.val n.val).subTail ++ leBytes 4 (ringSt s x.val n.val).cplHead)) false))
      ∧ (∀ v : Word32, exec (.eventHead (BitVec.ofNat 22 (x.val * 0x10000 + 16)) tee (.write (leBytes 4 v.toNat))) s = .next (
        if !bitOf (reg s (.ctxCxEqCfg x.val)) 0 then bump s .hifDbErrCnt
        else if consumedOk (evtWr s x.val) (ctx s x.val).evtHead (ringSize s (.ctxCxEq x.val)) v.toNat then
          flushOverflow (modCtx s x.val fun c => { c with evtHead := v.toNat }) x.val
        else bad s 2 v.toNat)))
    ∧ (coalesced s x.val n.val = true → exec (.coalescingTimeout x n) s
        = .next (signal (modRing s x.val n.val fun r => { r with pend := 0 }) (x.val * 32 + n.val)))
    ∧ (ringOpen s x n = true → rngOf (ringBase s (.ctxCxSq x n)) = some .host → exec (.ringFetch x n) s
        = .next (report (setIntakeOff (modRing s x n fun r => { r with fetchFault := true }) x n true)
            0x32 1 (srcOf 8 0) (some x) 4 n.val 0))
    ∧ (barOpen s = true → bar4Present s = true → ∀ (offset : BitVec 34) (data : List Byte) (len : Nat) (ep : Bool),
        let a := bar4Addr s offset
        (offset.toNat + len ≤ 2 ^ 34 → exec (.bar4Read offset len) s = .next (
          if (bar4Targets s a len).contains .refused then emit (bump s .hifBar4ErrCnt) (.barRead none false)
          else emit s (.barRead (some (readBytes s a len)) (anyPoison s a len))))
        ∧ (offset.toNat + data.length ≤ 2 ^ 34 → exec (.bar4Write offset data ep) s = .next (settle (
          let ts := bar4Targets s a data.length
          let cells := ((List.range data.length).map fun i => (a + i, data.getD i 0)).filter fun c => bar4Target s c.1 == .served
          let r := storeQuiet s cells (if ep then dedup (cells.map fun c => c.1 / 64) else [])
          if ts.contains .refused then bump s .hifBar4ErrCnt
          else if ts.contains .unbacked || r.2 then bump r.1 .hifBar4ErrCnt else r.1))))

/-- The timebase is never stepped while a context is enabled. A PTM dialogue records the offset of the root's time from it;
with no context enabled the timebase steps to that time and is locked, and with one enabled PTM_LOCK says whether the offset
is below 1 µs, and the ticks work it off. A write of HIF_TB_SET is ignored and logged with a context enabled, and sets the
timebase with none. -/
def Obligations.TimeIsNotSteppedUnderWork : Prop :=
  ∀ (s : State) (root : Word) (src : Source),
    let w : Source := if src = .outside then .host else src
    let may : Bool := match src with
      | .host => hostGate s true == .serve
      | .outside => hostGate s false == .serve
      | _ => sourceMay s src Reg.hifTbSet.offset
    (ptmOn s = true → anyEnabled s = false →
      exec (.ptmDialogue root) s = .next
        (setRf { setReg (setReg s .hifPtmOfs (root - reg s .hifTb)) .hifTb root with ptm := ⟨0, 0⟩ } .hifStat 9 1 1))
    ∧ (ptmOn s = true → anyEnabled s = true → ∃ t, exec (.ptmDialogue root) s = .next t
      ∧ regRaw t .hifTb = regRaw s .hifTb ∧ regRaw t .hifPtmOfs = root - reg s .hifTb ∧ t.ptm = ⟨(root - reg s .hifTb).toInt, 0⟩
      ∧ rf t .hifStat 9 1 = (if (root - reg s .hifTb).toInt.natAbs < 1000 then 1 else 0) ∧ sameStore s t ∧ sameWork s t)
    ∧ (may = true → anyEnabled s = true → ∃ t, exec (.hifTbSet src root) s = .next t
      ∧ t = logAccess (dropLatch s w) w Reg.hifTbSet.offset 3 ∧ regRaw t .hifTb = regRaw s .hifTb
      ∧ sameStore s t ∧ sameWork s t)
    ∧ (may = true → anyEnabled s = false →
      exec (.hifTbSet src root) s = .next { setReg (dropLatch s w) .hifTb root with ptm := ⟨0, 0⟩ })

/-- What a write of a control register does where its source's gate serves it. Enabling an idle context, its lock set first if the
write sets both, is the host's: it is refused with its reason, or its tables are written, its area backed and its counts
restarted; from another source it is logged. Disabling stops its intake, and tears it down when nothing is left; locking keeps
its set-up. Enabling a ring zeroes its counts, and disabling it stops its intake; under a lock the write is logged, and the
locked fields stay. A force ends the rings named, or all of them and the context. A staging script and an ember table are
taken. Clearing the peer enable takes the connections and the ports down. The end of a tenancy starts the change to OPEN. -/
def Obligations.HostControlWritesAct : Prop :=
  ∀ (s : State) (src : Source) (x : Fin 64) (n : Fin 16) (v : Word),
    let from' : Source := if src = .outside then .host else src
    let may (r : Reg) : Bool := match src with
      | .host => hostGate s true == .serve
      | .outside => hostGate s false == .serve
      | _ => sourceMay s src r.offset
    let u := dropLatch s from'
    let new (r : Reg) : Word := (regRaw u r &&& ~~~BitVec.ofNat 64 (r.rwMask ||| r.rwlMask))
      ||| (v &&& BitVec.ofNat 64 (r.rwMask ||| r.rwlMask))
    let ctl := Reg.ctxCxCtl x.val
    let ring := Reg.ctxCxRing x.val n.val
    let y := if bitOf v 1 && !bitOf (reg u ctl) 1 then advanceEpoch (setRf u ctl 1 1 1) else u
    let z := if regLocked u ring then logAccess u from' ring.offset 2 else u
    let m := BitVec.ofNat 64 (ring.rwMask ||| if regLocked u ring then 0 else ring.rwlMask)
    let w0 := (regRaw u ring &&& ~~~m) ||| (v &&& m)
    let w1 := if fld w0 3 2 = 3 then setFld w0 3 2 (rf u ring 3 2) else w0
    let w := if fld w1 8 8 = 0 then setFld w1 8 8 1 else w1
    let enabled (a : State) : State :=
      let b := backArea (initScale a x.val) x.val
      let b := showGens (modCtx b x.val (freshCtx b)) x.val
      let b := (List.range 16).foldl (fun b k => zeroRing b x.val k) b
      let b := setRf b (.ctxCxEqStat x.val) 0 32 0
      let b := setReg (setReg (setReg b (.ctxCxStep x.val) 0) (.ctxCxSteprec x.val) 0) (.ctxCxJrnlStat x.val) 0
      let b := setReg (setReg (setReg b (.telCxVoids x.val) 0) (.telCxReroutes x.val) 0) (.telCxMisses x.val) 0
      let b := setRf (setReg b (.ctxCxSetupStat x.val) 0) (.ctxCxSetupStat x.val) 16 1 1
      let b := setRf (setRf b .ctxEnabled x.val 1 1) (.schCxStat x.val) 33 1 0
      runScript (advanceEpoch (setRf b (.schCxStat x.val) 0 16 0)) x.val
    let forced (a : State) (k : Nat) : State :=
      let b := setIntakeOff (setRf a (.ctxCxRing x.val k) 0 1 0) x.val k true
      endAll b stAborted ((outsOf b x.val k).map fun o => o.ident)
    (may ctl = true → bitOf v 0 = true → ctxEnabled u x.val = false → ctxIdle u x.val = true →
      exec (.contextEnable src x v) s = .next (
        if from' ≠ .host then logAccess y from' ctl.offset 3
        else match enableFails y x.val (bitOf (reg y ctl) 1) with
          | some f => setReg (setReg y (.ctxCxSetupStat x.val) (BitVec.ofNat 64 (f.2 + f.1 * 2 ^ 8))) ctl 0
          | none => enabled (setRf y ctl 0 1 1)))
    ∧ (may ctl = true → bitOf v 0 = false → ctxEnabled s x.val = true → bitOf (reg u ctl) 0 = true →
      let a := setRf (modCtx (setRf y ctl 0 1 0) x.val fun c => { c with disabling := true }) (.schCxStat x.val) 0 16 0xFFFF
      exec (.contextDisable src x v) s = .next (if ringsDrained a x.val then teardownNow a x.val none else a))
    ∧ (may ctl = true → bitOf v 0 = false → bitOf v 1 = true → ctxEnabled s x.val = false → bitOf (reg u ctl) 1 = false →
      exec (.contextLock src x v) s = .next (setRf y ctl 0 1 0))
    ∧ (may ring = true → bitOf v 0 = true → ringEn u x.val n.val = false → ringConfigured u x.val n.val = true →
      ringBusy u x.val n.val = false →
      let a := modRing (setReg z ring w) x.val n.val fun r =>
        { r with subTail := 0, cplHead := 0, fetchFault := false, pend := 0, cancels := [] }
      let b := refreshBusy (setReg a (.ctxCxRstat x.val n.val) 0) x.val n.val
      exec (.ringEnable src x n v) s = .next (setIntakeOff b x.val n.val (ctx b x.val).disabling))
    ∧ (may ring = true → bitOf v 0 = false → ringEn u x.val n.val = true →
      exec (.ringDisable src x n v) s = .next (setIntakeOff (setReg z ring w) x.val n.val true))
    ∧ (may (.schCxForce x.val) = true → ctxIdle u x.val = false →
      (∀ rings : BitVec 16, exec (.forceRings src x rings) s
        = .next (settle ((setBits (fld (rings.setWidth 64) 0 16) 16).foldl forced u)))
      ∧ exec (.forceCtx src x) s = .next (teardownNow ((List.range 16).foldl forced u) x.val none))
    ∧ (may (.tierCxScript x.val) = true →
      let q := new (.tierCxScript x.val)
      let a := modCtx (setReg u (.tierCxScript x.val) (if fld q 48 4 = 0 then setFld q 48 4 1 else q)) x.val fun c =>
        { c with cursor := 0, issued := 0, stage := [] }
      exec (.tierCxScript src x v) s = .next (if ctxEnabled s x.val then settle (runScript a x.val) else a))
    ∧ (may (.tierCxEmber x.val) = true →
      let q := new (.tierCxEmber x.val)
      fld q 48 13 ≤ 4096 →
      (∀ os b, emberTable u x.val q = .ok (os, b) → exec (.tierCxEmber src x v) s
        = .next (settle (modCtx (setReg (dropEmbers b x.val os) (.tierCxEmber x.val) q) x.val fun c =>
            { c with embers := os.map (keepEmber c.embers) })))
      ∧ ∀ e, emberTable u x.val q = .error e → exec (.tierCxEmber src x v) s
        = .next (writeEvent u x.val ⟨0x06, none, none, 0, e.1 % 4096 + e.2 * 2 ^ 12⟩))
    ∧ (may .peerCtl = true →
      let a := expertChange u .peer (new .peerCtl)
      let b := setReg a .peerCtl (new .peerCtl)
      peerConsent a = true → settingsBar a = false →
      exec (.peerCtlEn src v) s = .next (
        if peerEn a && !bitOf (new .peerCtl) 1 then
          let c := b.conns.foldl (fun c p => connDown c (p.1 / 64) (p.1 % 64)) b
          let c := (List.range 64).foldl (fun c p => setReg c (.peerRoute p) 0) c
          settle (setRf { c with pauses := [] } .peerStat 0 8 0)
        else b))
    ∧ (may .secTenantEnd = true → secState u ≠ 2 → exec (.secTenantEndGo src) s = .next (startChange u 0))

/-- The resets that are written where their source's gate serves it: a context's tears it down, an engine's ends what it runs and
clears the banks of an array, a region's ends its commands, moves its written ember objects out and loses its SRAM, a
die's ends its commands and the streams, zeroes its regions, rebuilds its map and trains its links, and the package's is a
package-warm reset: the registers and state that it keeps stay, the settings are applied again, and the map and the DDR tier
are built anew. -/
def Obligations.WrittenResetsAct : Prop :=
  ∀ (s : State) (src : Source),
    let from' : Source := if src = .outside then .host else src
    let may : Bool := match src with
      | .host => hostGate s true == .serve
      | .outside => hostGate s false == .serve
      | _ => sourceMay s src Reg.fltReset.offset
    let u := dropLatch s from'
    let ended (v : State) (hit : OutCmd → Bool) : State := endAll v stAborted ((v.outs.filter hit).map fun o => o.ident)
    may = true →
    (∀ x : Fin 64, exec (.contextReset src x) s = .next (teardownNow u x.val none))
    ∧ (∀ e : Fin 612, exec (.engineReset src e) s = .next (settle (
        let v := ended u fun o => o.st.onEngine && (enginesOf o.d).any [e.val].contains
        match (if e.val < 256 then physCluster v (e.val / 8) (e.val % 8) else none) with
        | some p => setArr v p { arrSt v p with active := none, shadow := none }
        | none => v)))
    ∧ (∀ (g : Fin 36) (r : Nat), regionNumber u g.val = some r →
      let es := regionEngines u g.val
      let v := (regionEngines u g.val).foldl clearEngine (ended u (runsOrWaitsOn es))
      exec (.regionReset src g) s = .next (settle (loseExtent
        (loseExtent (moveOutEmbers v r) (r * 0x1000000) 0x1000000) (0x40000000 + r * 0x2000000) 0x2000000)))
    ∧ (∀ d : Fin 4,
      let es := (List.range 9).flatMap fun k => regionEngines u (9 * d.val + k)
      let v := ((ended u (runsOrWaitsOn es)).ctxs.map Prod.fst).foldl abandonStream (ended u (runsOrWaitsOn es))
      let v := ((List.range 8).map (8 * d.val + ·)).foldl (fun v r =>
        zeroExtent (zeroExtent (loseEmbers v r) (r * 0x1000000) 0x1000000) (0x40000000 + r * 0x2000000) 0x2000000) v
      let v := ((List.range 81).map (81 * d.val + ·)).foldl (fun v c => setBudget (setArr v c ArrSt.reset) c 0) v
      let v := (dieLinks d.val).foldl trainLink (buildDie v d.val)
      exec (.dieWarmReset src d) s = .next (settle { v with ways := rf v .tierWays 0 5 }))
    ∧ (secState u ≠ 2 → clocksRun u = true →
        let v := setReg (warmCore u) .secStat (setFld (setFld 0 0 2 (secState u)) 13 1 (fld (reg u .secStat) 13 1))
        let v := useSlot v (if secState u != 1 then chooseSlot v else slotInUse u)
        exec (.packageWarmReset src) s = .next (refreshSec (recountHeld (trainTier (buildMap v))))
        ∧ (warmCore u).part = u.part ∧ (warmCore u).outs = [] ∧ (warmCore u).power.rails = u.power.rails)

/-! ## Registers from outside -/

/-- An 8-byte write of a source that its gate serves writes the register at its offset; one that is misaligned or of another
size is logged, and a 4-byte write of a register is logged and writes nothing. A 4-byte read answers the half that it names:
the low half of a register as it reads then, whose high half is held for the next read. -/
def Obligations.RegisterAccessesReachTheirRegister : Prop :=
  ∀ (s : State) (r : Reg) (v : Word) (src : Source), r.inTable = true →
    let from' : Source := if src = .outside then .host else src
    let may (off : Nat) : Bool := match src with
      | .host => hostGate s true == .serve
      | .outside => hostGate s false == .serve
      | _ => sourceMay s src off
    let u := dropLatch s from'
    let held := { u with latches := u.latches ++ [(latchOwner src, r.offset, (readReg s r >>> 32).setWidth 32)] }
    let low := (readReg s r).setWidth 32
    (may r.offset = true →
      exec (.registerWrite src (BitVec.ofNat 26 r.offset) 8 v) s = .next (writeReg u from' r v)
      ∧ exec (.registerWrite src (BitVec.ofNat 26 r.offset) 4 v) s = .next (logAccess u from' r.offset 1))
    ∧ (∀ (off : BitVec 26) (size : Nat), may off.toNat = true → (size ≠ 4 ∧ size ≠ 8) ∨ off.toNat % size ≠ 0 →
        exec (.registerWrite src off size v) s = .next (logAccess u from' off.toNat 4))
    ∧ (src = .host ∨ src = .outside → barOpen s = true → readServed s (src == .host) r.offset = true →
        exec (.fourByteRead src (BitVec.ofNat 26 r.offset)) s = .next (emit held (.barRead (some (leBytes 4 low.toNat)) false)))
    ∧ (monitorRuns s = true → secState s = 0 → src = .monitor →
        exec (.fourByteRead .monitor (BitVec.ofNat 26 r.offset)) s = .next (emit held (.monitor none [low.toNat])))
    ∧ (clocksRun s = true → src = .smbus →
        exec (.fourByteRead .smbus (BitVec.ofNat 26 r.offset)) s = .next (emit held (.smbus [low.toNat])))

/-! ## Memory tiers, adapters and packages -/

/-- A staged slab that has come lands at its destination, bytes and marks, and is staged no more. A slab of an exchange has
moved: into its new frame, raw in HBM and coded or raw in DDR under a new counter; the last one ends the exchange, and an
exhausted frame fails it. The last slab of an ember object makes it resident. At the end of an epoch every page cools, and with
placement on exchanges begin. A window of channels is judged channel by channel. A failed request takes its failure: the
command that it is for ends TIER_FAIL, a staged slab stays not ready and those held on it end TIER_FAIL, an exchange leaves both
pages in their frames, an ember object stays where it is, a BAR4 access is refused and counted, a posted write is answered with
its cause, and each is reported. Pages spill and come back in the pools of an enabled context. -/
def Obligations.TierEventsAct : Prop :=
  ∀ (s : State) (x : Fin 64),
    let fail (v : State) (a cmd : Nat) : State :=
      addReport (bump v (.tierCxFail x.val)) (firstAgg v (tierSource v a))
        ⟨0x30, 1, tierSource v a, some x.val, 4, tierSource v a, cmd, [a].map (tierSource v), 0, now v⟩
    let unmoved (v : State) (up down : Nat) : State :=
      let w := setTier v up { tierAt v up with state := 0, partner := none, moved := 0, coded := 0 }
      let w := setTier w down { tierAt w down with state := 0, partner := none, moved := 0, coded := recode w down (tierAt w down).planes }
      honourRelease (honourRelease w up) down
    (∀ (a : Addr) (t : StageSlab), ((ctx s x.val).stage.find? fun t => t.dst == a.toNat && !t.failed) = some t →
      let b := resolve s t.dst
      let u := { s with mem := smFill 0 s.mem (fun k => readByte s (t.src + (k - b))) b slabBytes
                        poison := smFill false s.poison (fun l => poisoned s (t.src + (l * 64 - b))) (b / 64) 1024 }
      exec (.stageSlabReady x a) s = .next (settle (modCtx (touchExtent (slabWritten u (b / slabBytes)) t.src slabBytes) x.val
        fun c => { c with stage := c.stage.filter fun u => u.dst != a.toNat })))
    ∧ (∀ (page : Nat) (k : Fin 32),
      (emberEnding s (page * pageBytes + k.val * slabBytes) = none → ∀ up down, exchangeOf s page = some (up, down) →
        let f := (tierAt s down).frame
        let u := if page = up then countFrame s f 1 else s
        let e := tierAt u page
        let v := setTier u page { e with
          moved := BitVec.ofNat 32 (setBit e.moved.toNat k.val true)
          coded := BitVec.ofNat 32 (setBit e.coded.toNat k.val (page == up && slabCodes u e.planes (page * 32 + k.val))) }
        let done := (tierAt v up).moved = BitVec.allOnes 32 ∧ (tierAt v down).moved = BitVec.allOnes 32
        let w := setTier v up { tierAt v up with frame := (tierAt v down).frame, ddr := true, state := 0, partner := none, moved := 0 }
        let w := setTier w down { tierAt v down with frame := (tierAt v up).frame, ddr := false, state := 0, partner := none, moved := 0 }
        ((tierAt s page).moved.toNat.testBit k.val = true → exec (.slabMoveDone page k) s = .next (settle s))
        ∧ ((tierAt s page).moved.toNat.testBit k.val = false → page = up → smGet 0 s.ddrCtr f = 2 ^ 56 - 1 →
          exec (.slabMoveDone page k) s = .next (settle (tierFailed (unmoved s up down) (tierAt s page).owner
            (tierSource s (down * pageBytes)) (page * pageBytes + k.val * slabBytes) (tierSource s (down * pageBytes)) 0)))
        ∧ ((tierAt s page).moved.toNat.testBit k.val = false → (page ≠ up ∨ smGet 0 s.ddrCtr f ≠ 2 ^ 56 - 1) →
          exec (.slabMoveDone page k) s = .next (settle (
            if done then honourRelease (honourRelease (bump w (.tierCxExch (tierAt v up).owner)) up) down else v))))
      ∧ ∀ (y : Nat) (o : EmberObj), emberEnding s (page * pageBytes + k.val * slabBytes) = some (y, o) →
        exec (.slabMoveDone page k) s = .next (settle (emberPages (modEmber (touchExtent s o.addr (o.slabs * slabBytes)) y o.addr
          fun q => { q with moving := false, used := now (touchExtent s o.addr (o.slabs * slabBytes)) }) o 2)))
    ∧ (let u := { s with tierCtl := reg s .tierCtl, tier := s.tier.map fun p => (p.1, { p.2 with heat := p.2.heat / 2 }) }
      let swap (v : State) (p : Nat × Nat) : State :=
        let w := setTier v p.1 { tierAt v p.1 with state := 1, partner := some p.2, moved := 0 }
        setTier w p.2 { tierAt w p.2 with state := 1, partner := some p.1, moved := 0 }
      exec .placementEpoch s = .next (if bitOf (reg s .tierCtl) 1 then (placementPairs u).foldl swap u else u))
    ∧ (∀ bytes : List Nat, ctxEnabled s x.val = true → bytes.length = (setChannels s x.val).length →
      let all := bytes.foldl (· + ·) 0
      let judge (v : State) (cb : Nat × Nat) : State :=
        let k := smGet 0 (ctx v x.val).imb cb.1 + 1
        let put (n : Nat) : State := modCtx v x.val fun c => { c with imb := smSet 0 c.imb cb.1 n }
        if rf v .tierImbCtl 0 4 * all < cb.2 * (setChannels s x.val).length then
          if rf v .tierImbCtl 8 8 * 1000 ≤ k then
            writeEvent (put 0) x.val ⟨0x05, none, none, 0, cb.1 % 256 + cb.2 * 1000000 / all % 2 ^ 20 * 2 ^ 8⟩
          else put k
        else put 0
      exec (.imbalanceWindow x bytes) s = .next (((setChannels s x.val).zip bytes).foldl judge s))
    ∧ (∀ (n : Fin 16) (a : Addr) (o : OutCmd), oldestMoving s x.val n.val = some o → touchesByte s o a.toNat = true →
        exec (.tierTimeout x (.command n a)) s = .next (settle (endCommand (fail s a.toNat (cmdRef o)) o stTierFail)))
    ∧ (∀ (a : Addr) (t : StageSlab), ((ctx s x.val).stage.find? fun t => t.dst == a.toNat && !t.failed) = some t →
        let u := modCtx (fail s t.src 0) x.val fun c =>
          { c with stage := c.stage.map fun q => if q.dst = a.toNat then { q with failed := true } else q }
        let held := u.outs.filter fun o => o.st == .queued && !orderHolds u o
          && (stageHeld u (operandExts u o)).any fun q => q.dst == a.toNat
        exec (.tierTimeout x (.stage a)) s = .next (settle (endAll u stTierFail (held.map fun o => o.ident))))
    ∧ (∀ page up down, exchangeOf s page = some (up, down) →
        let v := unmoved s up down
        exec (.tierTimeout x (.exchange page)) s = .next (settle (requestFails v (tierAt s page).owner (page * pageBytes) 0)))
    ∧ (∀ (a : Addr) (o : EmberObj), ((ctx s x.val).embers.find? fun o => o.addr == a.toNat && o.moving) = some o →
        let held := s.outs.filter fun q => q.st == .queued && !orderHolds s q
          && (embersMoving s (operandExts s q)).any fun e => e.1 == x.val && e.2.addr == a.toNat
        exec (.tierTimeout x (.emberIn a)) s = .next (settle ((held.map fun q => q.ident).foldl startHere
          (fail (modEmber s x.val a.toNat fun o => { o with moving := false, home := none }) o.addr 0))))
    ∧ (∀ a : Addr, ((ctx s x.val).embers.any fun o => o.addr == a.toNat && o.resident && o.written) = true →
        exec (.tierTimeout x (.emberOut a)) s = .next (settle (fail s a.toNat 0)))
    ∧ (∀ a : Addr, ((ctx s x.val).pools.any fun p => decide (p.ddr ≤ a.toNat) && decide (a.toNat < p.ddr + p.ddrLen)) = true →
        exec (.tierTimeout x (.spill a)) s = .next (settle (fail s a.toNat 0)))
    ∧ (∀ (off : BitVec 34) (write : Bool), barOpen s = true → bar4Present s = true →
        let a := rf s .hifBar4Base 34 14 * 2 ^ 34 + off.toNat
        let u := bump s .hifBar4ErrCnt
        exec (.tierTimeout x (.bar4 off write)) s = .next (settle
          (report (if write then u else emit u (.barRead none false)) 0x30 1 (tierSource u a) none 4 a 0)))
    ∧ (∀ f : Frame, accepts s f = true →
        let u := received s f 0
        exec (.tierTimeout x (.peerWrite f)) s = .next (settle (settle (if remoteOk u f true f.payload.length then
          answerWrite (requestFails u f.ctx.val f.addr.toNat 0) f (some 1) else answerWrite u f (some 0)))))
    ∧ (ctxEnabled s x.val = true →
      exec (.backgroundSpill x) s = .next (settle ((ctx s x.val).pools.foldl (fun v p => backgroundSpillPool v x.val p) s))
      ∧ ∀ bad : List Addr, bitOf s.attCtl 2 = true → exec (.bringBack x bad) s = .next (settle (
        let lose (v : State) (a : Nat) : State :=
          let b := a / slabBytes * slabBytes
          if slabCoded v a then
            report (countBad (poisonExtent v b slabBytes) 1024) 0x16 1 (tierSource v a) (some x.val) 3 b 0
          else v
        (ctx s x.val).pools.foldl (fun v p => bringBackPool v x.val p) ((bad.map BitVec.toNat).foldl lose s))))

/-- A CREATE that waits zeroes both moments and builds its adapter, with the digest of its master; an IMPORT opens its archive
under the adapter's key into the state extent and builds it; each finishes with its code and, built, leaves the adapter
PENDING. An image that awaits its rebuild and is not in use is built anew. A package that loads is decrypted, placed and
recorded in a slot, or leaves its destination zeroed with its code; one that is unloaded leaves its slot when it is the
context's own. -/
def Obligations.AdapterAndPackageEventsAct : Prop :=
  ∀ (s : State) (x : Fin 64) (k : BitVec 16) (i : BitVec 8) (fails : Bool),
    let failed (v : State) (q : AdpReq) (status : Nat) : State :=
      finishRequest (setAdp v q.adapter Adapter.reset) x.val q status 0
    let built (v : State) (q : AdpReq) (n version : Nat) (origin : BitVec 384) : State :=
      let r := buildPass v x.val q.adapter (layoutOf v (entLayout n)) (entState n) (entPass n)
      if r.2 then failed r.1 q stKeyExhausted
      else finishRequest (ownKey (setAdp r.1 q.adapter
        { state := .pending, owner := x.val, version := version, origin := origin, layout := entLayout n, stAddr := entState n
          passAddr := entPass n, ember := entEmber n, finished := true, rebuildDue := false }) x.val q.adapter) x.val q stOk version
    let ends (v : State) (e status : Nat) (slot : Option Nat) : State :=
      let w := modCtx v x.val fun c => { c with loading := c.loading.filter fun q => q.1 != e }
      pkgFinish (setRf w (.secCxPkgStat x.val) 0 9 ((w.packages.filterMap Prod.snd).filter fun p => p.ctx == x.val).length) e status slot
    let zeroed (v : State) (e dst len status : Nat) : State :=
      ends (storeCells v ((List.range len).map fun i => (dst + i, (0 : Byte))) []).1 e status none
    (∀ q, pendingReq s x.val 1 k.toNat = some q → exec (.create x k) s = .next (settle (
      let n := adpEntry s q.entry
      match planFails s x.val (buildPlan s x.val n []) with
      | some st => failed s q st
      | none =>
        let u := backPlan s x.val (buildPlan s x.val n [])
        let p := adapterParams u x.val (layoutOf u (entLayout n))
        let r := storeCells u ((List.range (4 * p)).map fun i => (entState n + 4 * p + i, (0 : Byte))) []
        if r.2 then failed r.1 q stKeyExhausted
        else built r.1 q n 0 (Config.sha384 (readBytes u (entState n) (4 * p))))))
    ∧ (∀ q, pendingReq s x.val 2 k.toNat = some q →
      let n := adpEntry s q.entry
      let p := adapterParams s x.val (layoutOf s (entLayout n))
      let plan := if (buildPlan s x.val n []).exts.isEmpty then buildPlan s x.val n []
        else buildPlan s x.val n [ext false (entArch n) (archiveBytes p)]
      (adpKey s q.adapter = none → exec (.importAdapter x k) s = .next (settle (failed s q stBadDesc)))
      ∧ ∀ key, adpKey s q.adapter = some key →
        (∀ st, planFails s x.val plan = some st → exec (.importAdapter x k) s = .next (settle (failed s q st)))
        ∧ (planFails s x.val plan = none → archBarred s (entArch n) = true →
          exec (.importAdapter x k) s = .next (settle (failed (requestFails s x.val (entArch n) 0) q stTierFail)))
        ∧ (planFails s x.val plan = none → archBarred s (entArch n) = false →
          let h := fetchedBytes s (entArch n) 128
          let ct := fetchedBytes s (entArch n + 128) (8 * p)
          let tag := BitVec.ofNat 128 (leNat (fetchedBytes s (entArch n + 128 + 8 * p) 16))
          let u := { s with free := s.free + 1 }
          let nonce := BitVec.ofNat 96 (bitsAt (leNat h) 128 96)
          let opened := if archiveOk h q.adapter p then Config.gcmOpen key.key nonce h ct tag else none
          (opened = none → exec (.importAdapter x k) s = .next (settle (failed u q stBadDesc)))
          ∧ ∀ pt, opened = some pt → exec (.importAdapter x k) s = .next (settle (
            let v := backPlan u x.val plan
            let o := outBytes (entState n) ((List.range (8 * p)).map fun i => pt.getD i 0) (anyPoison v (entArch n) (archiveBytes p))
            let r := storeCells v o.cells o.bad
            if r.2 then failed r.1 q stKeyExhausted
            else built r.1 q n (bitsAt (leNat h) 64 48) (BitVec.ofNat 384 (bitsAt (leNat h) 256 384))))))
    ∧ (passInUse s k.toNat = false → (adp s k.toNat).rebuildDue = true → exec (.rebuild k) s = .next (settle (
        let u := (buildPass s (adp s k.toNat).owner k.toNat (adpLayout s (adp s k.toNat)) (adp s k.toNat).stAddr
          (adp s k.toNat).passAddr).1
        setAdp u k.toNat { adp u k.toNat with rebuildDue := false })))
    ∧ (∀ e op dst len, loadingAt s x.val i.toNat 1 = some (e, op, dst, len) →
        let n := pkgEntry s e
        let h := pkgHeader s n
        let image := fetchedBytes s (pkgArch n) (pkgBytes h)
        let u := { s with free := s.free + 1 }
        exec (.load x i fails) s = .next (
          if fails || archBarred u (pkgArch n) then zeroed (requestFails u x.val (pkgArch n) 0) e dst len stTierFail
          else match pkgPlain u h (image.take 128) (image.drop 128), freeSlot u with
            | some pt, some slot =>
              let o := outBytes dst ((List.range len).map fun i => pt.getD i 0) (anyPoison s (pkgArch n) (pkgBytes h))
              let r := storeCells u o.cells o.bad
              let p : Package := ⟨x.val, resolve u dst, len, pkgFrozen n, Config.sha384 image⟩
              if r.2 then zeroed r.1 e dst len stKeyExhausted
              else ends (advanceEpoch { r.1 with packages := smSet none r.1.packages slot (some p) }) e stOk (some slot)
            | _, _ => zeroed u e dst len stBadDesc))
    ∧ (∀ e op dst len, loadingAt s x.val i.toNat 2 = some (e, op, dst, len) →
        exec (.unload x i) s = .next (match smGet none s.packages (pkgSlot (pkgEntry s e)) with
          | some p => if p.ctx = x.val then
              ends (advanceEpoch { s with packages := smSet none s.packages (pkgSlot (pkgEntry s e)) none }) e stOk none
            else ends s e stBadDesc none
          | none => ends s e stBadDesc none))

/-! ## Peers -/

/-- What an accepted frame does. A read is answered with the lines and their poison marks, in frames of as many lines as they may
carry, or with none where the context and its bounds do not let it; a posted write stores its bytes and is acknowledged, or
answered with a cause; read data joins its command, which goes on when all has come and ends BOUNDS on a refusal; an
acknowledgement ends its posted write; a failure also marks the context, fails the COLL whose data it is for, or is counted;
what a member sends of a collective is kept, and refused as a write where the group's context does not allow it; and the last
of the members' blocks lands a reduction. -/
def Obligations.AcceptedFramesAct : Prop :=
  ∀ (s : State) (f : Frame), accepts s f = true →
    let x := f.ctx.val
    let u := received s f 0
    let r := received s f 1
    (let n := min f.lines 64
     let v := touchExtent u f.addr.toNat (64 * n)
     exec (.read f) s = .next (settle (
      if remoteOk u f false (64 * n) then
        (List.range (ceilDiv n (maxLines v))).foldl (fun w i =>
          let a := f.addr.toNat + 64 * maxLines w * i
          let k := min (maxLines w) (n - maxLines w * i)
          sendFrame w f.subport.val f.src.val 1 2 a x f.tag.toNat (poisonMask w a k) (readBytes w a (64 * k))) v
      else sendFrame u f.subport.val f.src.val 1 2 f.addr.toNat x f.tag.toNat 0 [])))
    ∧ ((remoteOk u f true f.payload.length = false → exec (.postedWrite f) s = .next (settle
          (sendFrame u f.subport.val f.src.val 1 4 f.addr.toNat x f.tag.toNat 0 (padLines (leBytes 1 0)))))
       ∧ ∀ v, remoteOk u f true f.payload.length = true →
        backPages u x (writePages u [ext true f.addr.toNat f.payload.length]) = some v →
        exec (.postedWrite f) s = .next (settle (
          let w := countBad v (popCount f.poison.toNat (min 64 ((f.payload.length + 63) / 64)))
          let r := storeCells w ((List.range f.payload.length).map fun i => (f.addr.toNat + i, f.payload.getD i 0))
            ((setBits f.poison.toNat 64).map fun i => f.addr.toNat / 64 + i)
          if r.2 then sendFrame r.1 f.subport.val f.src.val 1 4 f.addr.toNat x f.tag.toNat 0 (padLines (leBytes 1 1))
          else sendFrame r.1 f.subport.val f.src.val 1 3 f.addr.toNat x f.tag.toNat 0 [])))
    ∧ (∀ (failed : Bool) (q : PeerRead) (o : OutCmd),
      ((ctx r x).reads.find? fun q => q.pkg == f.src.val && q.tag == f.tag.toNat) = some q → findOut r q.ident = some o →
      let v := modCtx r x fun c => { c with reads := c.reads.filter fun t => t.tag != q.tag }
      let bad := f.poison.toNat.testBit 0
      let p : OutCmd := { o with got := (List.range q.len).foldl (fun m i => smSet 0 m (q.addr + i) (f.payload.getD i 0)) o.got
                                 gotBad := if bad then o.gotBad ++ [q.addr / 64] else o.gotBad }
      let w := putOut (if bad then countBad v 1 else v) p
      findOut v q.ident = some o →
      exec (.readData f failed) s = .next (settle (
        if failed then endCommand v o stBounds
        else if (ctx w p.ctx).reads.any fun t => t.ident == p.ident then w
        else if p.d.cls = 0 then copyNow w p else collFetched w p)))
    ∧ (∀ p, postFor r f = some p →
        exec (.writeAcknowledge f) s = .next (settle (modCtx r x fun c =>
          { c with posted := c.posted.filter fun q => q.stamp != p.stamp })))
    ∧ (∀ cause : BitVec 4,
      (∀ p, postFor r f = some p → exec (.writeFailure f cause) s = .next (settle (setRemotePoisoned (writeEvent (dropPost r x p) x
        ⟨0x03, none, none, p.tag, p.pkg % 64 + p.addr % 2 ^ 48 * 2 ^ 6 + cause.toNat % 16 * 2 ^ 54⟩) x true)))
      ∧ (∀ o, postFor r f = none → collFor r f = some o → exec (.writeFailure f cause) s = .next (settle (collFailed r o)))
      ∧ (postFor r f = none → collFor r f = none → exec (.writeFailure f cause) s = .next (settle (bump r .peerOrphanCnt))))
    ∧ (∀ part : CollPart,
      let g := part.group.val
      let member (v : State) : Prop := (grpMembers v g).contains f.src.val = true ∧ f.src.val ≠ ownPkg v
      let kept (v : State) : State := forgetPast { v with collIn := v.collIn ++ [(f.src.val, part)] } g
      (∀ p, part.body = .shake p → let m := received s f 4
        member m → waitingColl (kept m) g = none → exec (.collective f part) s = .next (settle (kept m)))
      ∧ (∀ bytes bad,
        (∀ last, part.body = .data bytes bad last → member u → collAllowed u f g = false →
          exec (.collective f part) s = .next (settle (answerWrite u f (some 0))))
        ∧ (∀ last, part.body = .data bytes bad last → member u → collAllowed u f g = true →
          waitingColl (kept (countBad u bad.length)) g = none →
          exec (.collective f part) s = .next (settle (kept (countBad u bad.length))))
        ∧ (∀ counts o, part.body = .block bytes bad counts → member u → collAllowed u f g = true →
          let w := kept (countBad u bad.length)
          let v := collView w o
          let ms := clMembers w o.d
          let block (k : Nat) : Option (Lines × Stats) := blockOf (bodiesFrom w g o.seqNo (ms.getD k 0))
          waitingColl w g = some o → findOut w o.ident = some o → o.st = .coll .blocks →
          (((clPeers w o.d).all fun p => (blockOf (bodiesFrom w g o.seqNo p)).isSome) = false →
            exec (.collective f part) s = .next (settle w))
          ∧ (((clPeers w o.d).all fun p => (blockOf (bodiesFrom w g o.seqNo p)).isSome) = true → 1 < ms.length →
            ∀ op, op = .allreduce ∨ op = .reduceScatter → RingOp.ofDesc o.d = some op →
            let out := reduceOut v o.ctx op o.d fun k => (block k).getD (⟨[], []⟩, Stats.empty)
            let a := storeOut w o.ctx o.d.tag out.cells out.bad
            let z := countStats (landMarks a.1 o.ctx o.d.tag false out) o.ctx (tensor w o.ctx (clDTid o.d)) false out.stats
            let b := storeOut z o.ctx o.d.tag [] []
            exec (.collective f part) s = .next (settle (forgetPast (complete (landMarks b.1 o.ctx o.d.tag false Out.empty) o
              (workStatus (!out.bad.isEmpty) (a.2 || b.2)) o.seqNo) g))))))

/-- What the links do. Frames without a place in the order carry credits and acknowledgements, or ask for what was lost
again; a hello of this domain raises a connection and its route, and one with this package's id from another MAC address is
reported; this package's own go to every sub-port that is up; a sub-port that comes up says so; a pause stops a priority until its
quanta are 0; a frame discarded by its check is counted and asked for again once; what is not acknowledged is sent again, and
after the last try the connection goes down; and a silent peer loses its connection. A connection that goes down loses its route,
is reported, and fails what uses it. -/
def Obligations.LinkEventsAct : Prop :=
  ∀ (s : State) (f : Frame) (k : Fin 8) (pkg : Fin 64),
    let sub := f.subport.val
    let src := f.src.val
    let down (v : State) (a b : Nat) : State :=
      if !(conn v a b).up then setRf v (.peerRoute b) a 1 0
      else
        let w := setConn (setRf v (.peerRoute b) a 1 0) a b Conn.reset
        let w := report (bump w .peerDownCnt) 0x28 1 (srcOf 6 a) none 4 b 0
        let w := (collsWith w (· == b)).foldl (fun y i => match findOut y i with | some o => collFailed y o | none => y) w
        (List.range 64).foldl (postsLost a b) ((List.range 64).foldl (readsLost a b) w)
    let again (v : State) (a b : Nat) : State :=
      match (conn v a b).unacked with
      | [] => v
      | g :: gs => if rf v .peerRetry 16 5 < g.tries then down v a b else (g :: gs).foldl (resend a b) v
    let nak (v : State) : State :=
      if !(conn v sub src).up || (conn v sub src).naked then v
      else sendControl (setConn v sub src { conn v sub src with naked := true }) sub src 6 []
    (acceptsControl s f = true →
      let u := setConn s sub src { conn s sub src with unacked := (conn s sub src).unacked.filter fun g => !numBefore g.seq f.ack.toNat }
      let c := conn u sub src
      (∀ credits : List Nat, exec (.creditAndAcknowledge f credits) s = .next (settle (
        let v := setConn u sub src { c with credits := (List.range 5).map fun i => c.credits.getD i 0 + credits.getD i 0 }
        pumpFrames v sub src [] (conn v sub src).waiting)))
      ∧ exec (.negativeAcknowledge f) s = .next (settle (again u sub src)))
    ∧ (subUp s sub = true →
      (∀ (domain : Byte) (peer : Fin 8) (mac : BitVec 48), f.crcOk = true → f.version = 1 → domain.toNat = rf s .peerId 8 8 →
        (src = ownPkg s → exec (.hello f domain ⟨peer, mac⟩) s
          = .next (if ownMac s mac then s else report s 0x29 1 (srcOf 6 sub) none 0 src 0))
        ∧ (src ≠ ownPkg s → exec (.hello f domain ⟨peer, mac⟩) s
          = .next (let u := setRf s (.peerRoute src) sub 1 1
            if (conn u sub src).up then u else setConn u sub src { Conn.reset with up := true, peerSub := peer.val })))
      ∧ exec (.frameDiscarded f .foreign) s = .next (bump s .peerCrcCnt)
      ∧ exec (.frameDiscarded f .crc) s = .next (nak (bump s .peerCrcCnt))
      ∧ exec (.frameDiscarded f .version) s = .next (nak s)
      ∧ exec (.frameDiscarded f .seq) s = .next (nak s))
    ∧ (peerEn s = true → peerConsent s = true → subExists s k.val = true →
        exec (.subPortUp k) s = .next (setRf s .peerStat k.val 1 1))
    ∧ (∀ (p : Fin 8) (quanta : BitVec 16), subUp s k.val = true →
        let u := { s with pauses := smSet 0 s.pauses (k.val * 8 + p.val) quanta.toNat }
        exec (.pauseFrame k p quanta) s = .next (
          if quanta.toNat ≠ 0 then u
          else (u.conns.filter fun c => c.1 / 64 == k.val && c.2.up).foldl
            (fun v c => pumpFrames v k.val (c.1 % 64) [] (conn v k.val (c.1 % 64)).waiting) u))
    ∧ ((conn s k.val pkg.val).up = true → exec (.retryTimeout k pkg) s = .next (settle (again s k.val pkg.val)))
    ∧ exec (.missedHellos k pkg) s = .next (settle (down s k.val pkg.val))
    ∧ exec .sendHello s = .next (((List.range 8).filter (subUp s)).foldl (fun v i => emit v (.frame i
        (frameOctets v i 0 0 (List.replicate 6 0xFF)
          ⟨0, 4, 7, 0, 0, 0, 0, 0, padLines ([rf v .peerId 8 8, ownPkg v, i].map (BitVec.ofNat 8))⟩))) s)

/-- A posted write unanswered for too long, and a collective whose group does not answer, fail as lost: the write's context
has an event and a mark, and each COLL that has begun ends REMOTE_FAIL with its number, its peers told, its results undefined and
its context marked. A group member's notice ends the COLL of that number, or is kept for one still to come. A peer's fault is
reported as the peer's. -/
def Obligations.LostPeersFailTheirWork : Prop :=
  ∀ (s : State) (x g : Fin 64) (f : Frame),
    let lost (v : State) (o : OutCmd) : State :=
      let w := if collBegun o then (collTargets v o).foldl (fun y e => freeExtent y e.lo.toNat e.len) (dropFlip v o) else v
      forgetPast (complete (setRemotePoisoned (clAbandon w o) o.ctx true) o stRemoteFail o.seqNo) (clGroup o.d)
    (∀ (tag : Word32) (p : Posted), ((ctx s x.val).posted.find? fun p => p.tag == tag.toNat) = some p →
      exec (.postedWriteTimeout x tag) s = .next (settle (setRemotePoisoned (writeEvent (modCtx s x.val fun c =>
        { c with posted := c.posted.filter fun q => q.stamp != p.stamp }) x.val
        ⟨0x03, none, none, p.tag, p.pkg % 64 + p.addr % 2 ^ 48 * 2 ^ 6 + 4 * 2 ^ 54⟩) x.val true)))
    ∧ exec (.collectiveTimeout x g) s = .next (settle (((s.outs.filter fun o => o.ctx == x.val && clMatched o.d
        && clGroup o.d == g.val && (match o.st with | .coll _ | .peerRead => true | _ => false)).map fun o => o.ident).foldl
        (fun v i => match findOut v i with | some o => lost v o | none => v) s))
    ∧ (∀ n : Word32, accepts s f = true →
      let u := received s f 4
      (grpMembers u g.val).contains f.src.val = true → f.src.val ≠ ownPkg u →
      (∀ o, collNumbered u g.val n.toNat = some o → exec (.abandonNotice f g n) s = .next (settle (lost u o)))
      ∧ (collNumbered u g.val n.toNat = none → cnt32 n.toNat (smGet 0 u.grpSeq g.val) < 2 ^ 31 →
        u.abandoned.contains (g.val, n.toNat) = false →
        exec (.abandonNotice f g n) s = .next (settle { u with abandoned := u.abandoned ++ [(g.val, n.toNat)] })))
    ∧ (∀ (code : Byte) (sev : BitVec 2) (info : BitVec 48), accepts s f = true →
      exec (.faultReport f code sev info) s = .next (settle
        (report (received s f 3) code.toNat sev.toNat (srcOf 10 f.src.val) none 0 info.toNat 0)))

/-! ## Faults, spares and boot -/

/-- What faults do. An aggregator passes its oldest merged report up. A patrol read counts and reports what it finds: an
uncorrectable line is lost, a channel that stays down fails the package or is reported, and a coded slab holds what its bytes
decode to, or is poisoned. A hung engine is reset and reported, and one that trips again within a second fails its unit. Missed
heartbeats fail their unit: a cluster or a region is marked and reported and what runs there ends ABORTED, and a die, a hub die
or the ring processor fails the package. A failed unit's number passes to a spare, its contents lost. A wire of a die-to-die link
that fails is spared, then halves the link, then fails the package. A storm's hold ends with its held reports delivered. A host
error is reported, with the line that it brought bad. The failure record takes the failed units, unless power is cut off in the
writing. -/
def Obligations.FaultEventsAct : Prop :=
  ∀ s : State,
    let stop (v : State) (es : List Nat) : State :=
      endAll v stAborted ((v.outs.filter fun o => o.st.onEngine && (enginesOf o.d).any es.contains).map fun o => o.ident)
    let retire (v : State) (p r : Nat) : State :=
      let w := setRf (setRf v .fltStat r 1 0) (.idRgn p) 2 1 1
      let w := (List.range 9).foldl (fun w k => setRf w (.arrCluStat (9 * p + k)) 26 1 0) w
      report (refreshArrStat w) 0x3B 2 (srcOf 1 p) none 7 r 0
    let rgnMarked (v : State) (p : Nat) : State :=
      let number := ((List.range 9).map fun k => 9 * p + k).find? fun c => cluInService v c
      let w := setRf (setRf v (.idRgn p) 0 1 0) .fltFailRgn p 1 1
      let w := report w 0x38 2 (srcOf 1 p) none (if (dieSpare w p).isSome then 6 else 7) 0 0
      if rgnWorking v p then
        match number with
        | none => if rgnSpare v p then setRf w (.idRgn p) 1 1 0 else w
        | some c => if (dieSpare w p).isSome then w else retire w p (cluRegion w c)
      else v
    let cluMarked (v : State) (c : Nat) : State :=
      let w := setRf (setRf (setRf v (.arrCluStat c) 24 1 1) (.fltFailClu (c / 64)) (c % 64) 1 1) (.idRgn (c / 9)) (9 + c % 9) 1 1
      let w := report w 0x04 2 (srcOf 0 c) none (if rgnSpareClu v (c / 9) && !cluSpare v c then 6 else 7) 0 0
      if cluSpare v c then setRf (setRf w (.arrCluStat c) 25 1 0) (.idRgn (c / 9)) 8 1 0
      else if rgnSpareClu v (c / 9) then w
      else rgnMarked w (c / 9)
    let cluDown (v : State) (c : Nat) : State := if cluFailed v c then v else stop (cluMarked v c) (clusterEngines v c)
    let rgnDown (v : State) (p : Nat) : State := if rgnWorking v p then stop (rgnMarked v p) (regionEngines v p) else v
    let dieDown (v : State) (d : Nat) : State := failPackage (report v 0x39 3 (srcOf 2 d) none 9 0 0)
    let hubDown (v : State) (d : Nat) : State := { dieDown v d with pcie := { (dieDown v d).pcie with linkUp := false } }
    (∀ (a : Aggregator) (e : MergeEntry) (es : List MergeEntry), smGet [] s.merges (aggIndex a) = e :: es →
      exec (.faultMergeWindow a) s = .next (
        let u := { s with merges := smSet [] s.merges (aggIndex a) es }
        if aggIndex a = 42 then packageRecord u e else addReport u (nextAgg (aggIndex a)) e))
    ∧ (∀ (st : Store) (line : Addr) (src : Nat), storeSource s st (resolve s line.toNat / 64 * 64) = some src →
      let a := resolve s line.toNat / 64 * 64
      let b := resolve s a / slabBytes * slabBytes
      exec (.patrolRead st line .clean) s = .next s
      ∧ exec (.patrolRead st line .corrected) s = .next (report (bump s .fltCeCnt) (storeCode st) 0 src none 1 a 0)
      ∧ exec (.patrolRead st line .uncorrectable) s = .next (countErrors
          (report (bump (countBad (loseExtent s a 64) 1) .fltUeCnt) (storeCode st + 1) 1 src none 3 a 0) a)
      ∧ (st = .hbm → exec (.patrolRead st line .down) s = .next (failPackage (report s 0x39 3 src none 9 a 0)))
      ∧ (st ≠ .hbm → exec (.patrolRead st line .down) s = .next (report s 0x30 1 src none 4 a 0))
      ∧ ∀ bytes, st = .ddr → slabCoded s a = true →
        (∀ v, decodeSlab (tierAt s (b / pageBytes)).planes bytes = some v → exec (.patrolRead st line (.coded bytes)) s
          = .next { s with mem := smFill 0 s.mem (fun k => v.getD (k - b) 0) b slabBytes })
        ∧ (decodeSlab (tierAt s (b / pageBytes)).planes bytes = none → exec (.patrolRead st line (.coded bytes)) s
          = .next (slabUndecodable s none b)))
    ∧ (∀ e : Fin 612, s.failed = false →
      let recent := (smGet [] s.engTrips e.val).filter fun t => decide (now s < t + 1000000000)
      let u := { s with engTrips := smSet [] s.engTrips e.val (now s :: recent) }
      let v := report (resetEngine u e.val) 0x31 1 (srcOf 7 e.val) none 5 0 0
      exec (.engineHang e) s = .next (settle (
        if recent.isEmpty then v
        else if e.val < 512 then
          match physCluster v (e.val % 256 / 8) (e.val % 8) with | some c => cluDown v c | none => v
        else if e.val < 608 then
          match physRegion v (if e.val < 544 then e.val - 512 else (e.val - 544) / 2) with | some p => rgnDown v p | none => v
        else dieDown v (hubEngineDie e.val))))
    ∧ (∀ c : Fin 324, exec (.heartbeatMiss (.engine c)) s = .next (settle (cluDown s c.val)))
    ∧ (∀ r : Fin 36, exec (.heartbeatMiss (.regionUnit r)) s = .next (settle (rgnDown s r.val)))
    ∧ (∀ d : Fin 4, exec (.heartbeatMiss (.computeDie d)) s = .next (settle (dieDown s d.val)))
    ∧ (∀ d : Fin 2, exec (.heartbeatMiss (.hubDie d)) s = .next (settle (hubDown s (4 + d.val))))
    ∧ exec (.heartbeatMiss .ringProcessor) s = .next (settle (hubDown s 4))
    ∧ (∀ (c : Fin 324) (k : Nat), cluFailed s c.val = true → cluInService s c.val = true → rgnWorking s (c.val / 9) = true →
      spareCluster s (c.val / 9) = some k →
      let r := cluRegion s c.val
      let l := cluNumber s c.val
      let u := setClu (setClu (stop s (clusterEngines s c.val)) c.val false false 0 0) k false true r l
      let u := loseExtent (refreshArrStat (setRf u (.idRgn (c.val / 9)) 8 1 0)) ((8 * r + l) * 0x200000) 0x200000
      let u := setBudget (setArr u k ArrSt.reset) k 0
      let u := setBudget (setArr u c.val ArrSt.reset) c.val 0
      exec (.spareTakeover (.cluster c)) s = .next (settle (report u 0x3A 0 (srcOf 0 k) none 6 (8 * r + l) 0)))
    ∧ (∀ (p : Fin 36) (r q : Nat), rgnWorking s p.val = false → regionNumber s p.val = some r → dieSpare s p.val = some q →
      let u := refreshArrStat (buildRegion (buildRegion (stop s (regionEngines s p.val)) p.val none false) q (some r) false)
      let u := loseExtent (loseExtent (loseEmbers u r) (r * 0x1000000) 0x1000000) (0x40000000 + r * 0x2000000) 0x2000000
      let u := ((List.range 9).flatMap fun k => [9 * p.val + k, 9 * q + k]).foldl
        (fun u c => setBudget (setArr u c ArrSt.reset) c 0) u
      exec (.spareTakeover (.region p)) s = .next (settle (report u 0x3A 0 (srcOf 1 q) none 6 r 0)))
    ∧ (∀ (k : Fin 15) (wire : Nat), let l := d2dOf s k
      l.down = false → exec (.d2dRetrain k wire) s = .next (
        if l.half then failPackage (report (setD2d s k { l with down := true }) 0x22 3 (srcOf 5 k) none 9 0 0)
        else if l.spared < spareWires k.val then
          report (setD2d s k { l with spared := l.spared + 1 }) 0x20 0 (srcOf 5 k) none 1 wire 0
        else report (setD2d s k { l with half := true }) 0x21 2 (srcOf 5 k) none 7 0 0))
    ∧ (∀ (code : Byte) (source : BitVec 16), (stormOf s code.toNat source.toNat).holding = true →
      let t := stormOf s code.toNat source.toNat
      exec (.stormHoldEnd code source) s
        = .next (t.held.foldl deliverFault (setStorm s { t with windows := 0, holding := false, held := [] })))
    ∧ (∀ info : BitVec 48,
      exec (.hostAer ⟨info, none⟩) s = .next (report s 0x58 1 (srcOf 8 0) none 0 info.toNat 0)
      ∧ ∀ a : Addr, rngOf a.toNat = some .host → exec (.hostAer ⟨info, some a⟩) s
        = .next (report (countBad (setPoison s a.toNat true) 1) 0x58 1 (srcOf 8 0) none 0 info.toNat 0))
    ∧ exec (.failureRecordWrite false) s = .next { s with part := { s.part with
        recClusters := failedClusters s, recRegions := setBits (rf s .fltFailRgn 0 36) 36
        recHalf := setBits (rf s .fltFailD2d 0 15) 15, recSpared := setBits (rf s .fltFailD2d 16 15) 15 } }
    ∧ exec (.failureRecordWrite true) s = .next s

/-- Resets and their causes. Power-on, the release of SYS_RESET_N and recovery after an INPUT_LOSS make a cold reset, which a
sensor at 95 °C or above after a thermal trip forbids: all but the flash, the always-on domain and what lies outside the package
returns to reset, power-up is logged when the package was off, a bad reference clock stops it there, and the settings, the
sparing map, new memory keys, the DDR tier and a preserved store follow; PERST# and a Function Level Reset make the
package-warm reset that a write of FLT_RESET makes. -/
def Obligations.ResetsHaveTheirCauses : Prop :=
  ∀ (s : State) (b : Board),
    let kept : State := { State.reset with
      pending := s.pending, free := s.free, nextId := s.nextId, out := s.out
      mem := s.mem.filter fun c => decide (0x800000000000 ≤ c.1)
      d2d := s.d2d, part := s.part
      power := { PowerSt.reset with state := s.power.state, hot := s.power.hot }
      pins := { State.reset.pins with smbAlertN := s.pins.smbAlertN }
      sec := { SecSt.reset with wrapSecret := s.sec.wrapSecret, log := s.sec.log, logCount := s.sec.logCount, preserved := s.sec.preserved
                                alarmLogged := s.sec.alarmLogged, domainLost := s.sec.domainLost, rtc := s.sec.rtc } }
    let lost := if onCell s && b.domainLost then
      { kept with sec := { kept.sec with wrapSecret := none, rtc := 0, domainLost := true } } else kept
    let boot := { lost with power := { lost.power with state := .boot } }
    let told := if onCell s then logEntry boot 0x01 0 else boot
    let fitted := { told with part := { told.part with dimms := b.dimms, speed := b.speed, lanes := b.lanes } }
    let mapped := (List.range 15).foldl trainLink ((List.range 4).foldl buildDie (loadRecord (useSlot fitted (chooseSlot told))))
    let up := (List.range 12).foldl trainDdr (drawInterleave (drawMemKeys mapped))
    (coldAllowed s = false → exec (.coldReset b) s = .next s)
    ∧ (coldAllowed s = true → b.refGood = false → exec (.coldReset b) s = .next (clocksLost told false))
    ∧ (coldAllowed s = true → b.refGood = true → exec (.coldReset b) s = .next (refreshSec (restoreStore up)))
    ∧ (onCell s = true → exec (.inputLossRecovery b) s = exec (.coldReset b) s)
    ∧ exec .pciePerstN s = .next (resetWrite s 4)
    ∧ (s.pcie.linkUp = true → exec .functionLevelReset s = exec .pciePerstN s)
    ∧ (secState s ≠ 2 → clocksRun s = true → exec .pciePerstN s = .next (packageWarm s (secState s != 1)))

/-- Standby keeps only the standby rails and the link goes down. Boot ends when the presets are applied and the controls have
settled: HIF_STAT shows READY with the speed and width of the link, and the notice of SEC_STAT is sent. A configuration request
answers its capability, sets the enables and the sizes that the function supports, and assigns the BARs, when READY; covered
changes of a held interface end in its error; and it is told to come back before. -/
def Obligations.BootAndConfigurationAct : Prop :=
  ∀ s : State,
    (s.power.state ≠ .off → ∃ t, exec .standby s = .next t ∧ t.power.state = .standby ∧ t.power.rails = standbyRails
      ∧ t.pcie.linkUp = false ∧ t.failed = s.failed ∧ t.pins.sysFaultN = s.pins.sysFaultN
      ∧ t.pins.sysThermtripN = s.pins.sysThermtripN)
    ∧ (isUp s = false → clocksRun s = true →
      let p := ((bootEntries s).filter fun e => bitsAt e 0 8 == 1).foldl applyPreset s
      let u := { p with ways := rf p .tierWays 0 5, tierCtl := reg p .tierCtl, attCtl := reg p .attCtl, attSpill := reg p .attSpillCtl }
      let v := setRf u .hifStat 0 9 (if u.pcie.linkUp then 1 + (u.part.speed.val + 1) * 2 + 2 ^ u.part.lanes.val * 16 else 1)
      let w := { v with power := { v.power with state := .active }, pins := { v.pins with sysReady := true } }
      exec .ready s = .next (emit w (.notice [(reg w .secStat).toNat])) ∧ isUp w = true)
    ∧ (s.pcie.linkUp = true → clocksRun s = true →
      (isUp s = false → ∀ op : ConfigOp, exec (.configurationRequest op) s = .next (emit s (.config true [])))
      ∧ (isUp s = true →
        (∀ cap : PcieCap, exec (.configurationRequest (.read cap)) s = .next (emit s (.config false (capability s cap))))
        ∧ (let u := emit { s with pcie := { s.pcie with bars := true } } (.config false [])
           exec (.configurationRequest .assignBars) s = .next (if tdiHeld s then tdiError u else u))
        ∧ (∀ m b e k p : Bool,
          let u := { s with pcie := { s.pcie with memSpace := m, busMaster := b, msixEn := e, msixMask := k, ptmEn := p } }
          let v := emit ((u.msixPend.map Prod.fst).foldl releaseVector u) (.config false [])
          exec (.configurationRequest (.enables m b e k p)) s = .next (
            if tdiHeld s && (m != s.pcie.memSpace || b != s.pcie.busMaster || e != s.pcie.msixEn) then tdiError v else v))
        ∧ ∀ p r : Nat, exec (.configurationRequest (.sizes p r)) s = .next (emit { s with pcie := { s.pcie with
            maxPayload := if [128, 256, 512].contains p then p else s.pcie.maxPayload
            maxRead := if [128, 256, 512, 1024, 2048, 4096].contains r then r else s.pcie.maxRead } } (.config false []))))

/-! ## Power and temperature -/

/-- What the supply does, while the compute rails are on. A measurement moves the cap, keeps the average and the energy, and
reports the first window of a period that the cap cannot meet. Sensors move each die's limit, and what starts or stops throttling
and what reaches 105 °C is reported; without the rails the hottest reading alone is kept. A trip and
a failed rail turn rails off and fail the package. Low input sets the cap to 2 until it clears; overcurrent sets it to 2;
losing the input turns the device off with a power-down entry in the battery log; and losing a clock takes the domains and
the link down and fails the package. -/
def Obligations.SupplyEventsAct : Prop :=
  ∀ s : State,
    let throttle (v : State) (u t : Nat) (on : Bool) : State :=
      if v.power.throttling.getD u false == on then v
      else report { v with power := { v.power with throttling := v.power.throttling.set u on } } 0x51 0 (srcOf 9 0) none 0
        (thermUnit u % 256 + min 255 t * 2 ^ 8 + if on then 2 ^ 16 else 0) 0
    let limit (v : State) (u t : Nat) : State :=
      if v.power.limited.getD u false == decide (105 ≤ t) then v
      else
        let w := { v with power := { v.power with limited := v.power.limited.set u (decide (105 ≤ t)) } }
        if 105 ≤ t then report w 0x52 1 (srcOf 9 0) none 0 (thermUnit u % 256 + min 255 t * 2 ^ 8) 0 else w
    let other (v : State) (u t : Nat) : State :=
      let w := if 6 ≤ u ∧ 105 ≤ t then { v with power := { v.power with bTherm := v.power.bTherm.set ((u - 6) / 2) 2 } } else v
      limit (throttle w u t (decide (rf w .pwrTherm 0 8 ≤ t))) u t
    (powered s = true →
      (∀ w : Nat, exec (.powerMeasurement w) s = .next (
        let first := capExceeded s w && !s.power.capUnmet
        let u := { s with power := { s.power with bCap := newCap s w, inputW := w, energy := s.power.energy + 10 * w
                                                  capUnmet := capExceeded s w
                                                  capAt := if first then some s.sec.rtc else s.power.capAt } }
        if first then report u 0x50 1 (srcOf 9 0) none 0 w 0 else u))
      ∧ (∀ dies hubs hbms : List Nat, exec (.thermalSample dies hubs hbms) s = .next (
        let a := (List.range 4).foldl (fun v d =>
          let t := dies.getD d 0
          let b := v.power.bTherm.getD d 16
          let point := rf v .pwrTherm 0 8
          let c := if 105 ≤ t then 2
            else if point ≤ t then (if b ≤ 2 then b else b - 1)
            else if t < point - rf v .pwrTherm 8 4 then min 16 (b + 1)
            else b
          let v := { v with power := { v.power with bTherm := v.power.bTherm.set d c } }
          limit (throttle v d t (decide (point ≤ t) || (v.power.throttling.getD d false && decide (c < 16)))) d t) s
        let b := (List.range 2).foldl (fun v i => other v (4 + i) (hubs.getD i 0)) a
        let c := (List.range 8).foldl (fun v i => other v (6 + i) (hbms.getD i 0)) b
        let d := setReg c .pwrTemp (tempWord dies hubs)
        { d with power := { d.power with hot := (dies ++ hubs ++ hbms).foldl max 0 } }))
      ∧ (∀ unit temp : Byte, ∃ t, exec (.thermalTrip unit temp) s = .next t ∧ t.failed = true
        ∧ t.pins.sysThermtripN = false ∧ t.pins.sysFaultN = false ∧ temp.toNat ≤ t.power.hot
        ∧ (∀ i ∈ computeRails, i < s.power.rails.length → t.power.rails.getD i true = false) ∧ sameStore s t ∧ sameWork s t)
      ∧ (∀ mv : BitVec 16, exec (.inputLow mv) s = .next
          (report { s with power := { s.power with bCap := 2, inputLow := true } } 0x54 1 (srcOf 9 0) none 0 mv.toNat 0))
      ∧ (∀ amps : BitVec 16, exec (.inputOvercurrent amps) s = .next
          (report { s with power := { s.power with bCap := 2 } } 0x55 1 (srcOf 9 0) none 0 amps.toNat 0))
      ∧ (∀ rail : Fin 25, ∃ t, exec (.railFault rail) s = .next t ∧ t.failed = true ∧ t.pins.sysFaultN = false
        ∧ (∀ i ∈ railsOfDie rail.val, i < s.power.rails.length → t.power.rails.getD i true = false) ∧ sameStore s t ∧ sameWork s t))
    ∧ (powered s = false → ∀ dies hubs hbms : List Nat, exec (.thermalSample dies hubs hbms) s
        = .next { s with power := { s.power with hot := (dies ++ hubs ++ hbms).foldl max 0 } })
    ∧ exec .inputLowCleared s = .next { s with power := { s.power with inputLow := false } }
    ∧ (onCell s = false → exec .inputLoss s = .next (powerLoss (logEntry s 0x02 0)))
    ∧ (clocksRun s = true → ∀ lost : Bool, ∃ t, exec (.pllUnlock lost) s = .next t ∧ t.failed = true ∧ t.pcie.linkUp = false
        ∧ clocksRun t = false ∧ regRaw t .clkStat = (if lost then 1 else 0) ∧ sameStore s t ∧ sameWork s t)

/-- The cap never lowers the budget's ceiling below 2 nor raises it above 16, and moves it one step at a time: a measurement
above the cap lowers it by 1 unless it is 2, and one below 97 % of the cap raises it by 1 unless it is 16; low input holds
it at 2. It changes no byte, no mark and no command. -/
def Obligations.CapKeepsBetweenTwoAndSixteen : Prop :=
  ∀ (s t : State) (w : Nat), powered s = true → 2 ≤ s.power.bCap → s.power.bCap ≤ 16 →
    exec (.powerMeasurement w) s = .next t →
    2 ≤ t.power.bCap ∧ t.power.bCap ≤ 16
      ∧ (s.power.inputLow = true → t.power.bCap = 2)
      ∧ (s.power.inputLow = false → rf s .pwrCap 0 12 < w → t.power.bCap = max 2 (s.power.bCap - 1))
      ∧ (s.power.inputLow = false → 100 * w < 97 * rf s .pwrCap 0 12 → t.power.bCap = min 16 (s.power.bCap + 1))
      ∧ sameStore s t ∧ sameWork s t

/-! ## Security -/

/-- Alarms, the tenant change and the settings image. An alarm is logged with its code and detail and the wrap secret zeroised;
off the cell alone the stores of keys and the packages go too, and the change to OPEN starts, or the change that runs ends in
OPEN; a low cell is logged. The change ends with the tenancy's work torn down, the peer ports down, new keys, the memory scrubbed
but for the host's, the policy of its target in force, a package-warm reset and its end in the log, with each DDR channel that
failed reported. An epoch whose work is done is retired. A settings image is checked and stored, or refused with its code. -/
def Obligations.AlarmsAndTenantChangesAct : Prop :=
  ∀ s : State,
    let begin' (v : State) : State :=
      let w := setRf { v with sec := { v.sec with target := some 0, preserved := none } } .secStat 0 2 2
      refreshSec (advanceEpoch (logEntry w 0x10 0))
    (∀ p ∈ [(Instr.tamperInput 0, 3, 0), (.tamperInput 1, 3, 1), (.voltageGlitch, 4, 0), (.clockGlitch, 5, 0), (.temperature, 6, 0)],
      let a := logEntry { s with sec := { s.sec with alarmLogged := true } } p.2.1 p.2.2
      let u := if a.sec.wrapSecret.isSome then logEntry { a with sec := { a.sec with wrapSecret := none } } 0x14 0 else a
      let z := { u with sec := { u.sec with adpKeys := [], setKeys := [], erases := [], memKeys := [], interleave := none, policy := 0 }
                        packages := [] }
      exec p.1 s = .next (
        if onCell u then u
        else if secState u = 2 then refreshSec { z with sec := { z.sec with target := some 0, nextPolicy := 0 } }
        else begin' z))
    ∧ (onCell s = true → exec .cellLow s = .next (logEntry s 0x07 0))
    ∧ (∀ (bad : List (Fin 12)) (t : Nat), s.sec.target = some t → secState s = 2 → clocksRun s = true →
      let u := portsDown (((List.range 64).filter (ctxEnabled s)).foldl (fun v x => setRf (endWork v x none) .ctxEnabled x 1 0) s)
      let u := drawInterleave (drawMemKeys { u with
        sec := { u.sec with adpKeys := [], setKeys := [], erases := [] }, packages := [], ddrCtr := [], withheld := [] })
      let u := { u with
        mem := u.mem.filter fun c => decide (0x800000000000 ≤ c.1), poison := [], clean := [], tier := [], ctxs := []
        part := { u.part with dimms := (bad.map Fin.val).foldl (fun ds d => ds.modify d fun m => { m with trains := false }) u.part.dimms } }
      let p : BitVec 512 := if t = 1 then u.sec.nextPolicy else 0
      let ack := t == 1 && p.toNat.testBit 3
      let u := { u with sec := { u.sec with policy := p, nextPolicy := 0, target := none
                                            alarmLogged := u.sec.alarmLogged && !ack, domainLost := u.sec.domainLost && !ack } }
      exec (.tenantChange bad) s = .next ((bad.map Fin.val).foldl (fun v d => report v 0x30 1 (srcOf 4 d) none 4 0 0)
        (logEntry (packageWarm (setRf (setRf u .secStat 0 2 t) .secStat 13 1 (if t = 0 then 1 else 0)) true) 0x11 0)))
    ∧ exec .epochRetired s = .next (setRf s .secEpoch 48 1 0)
    ∧ (∀ (src : Source) (readFails flashFails : Bool),
      let may : Bool := match src with
        | .host => hostGate s true == .serve
        | .outside => hostGate s false == .serve
        | .monitor => sourceMay s .monitor Reg.setUpdCtl.offset
        | _ => false
      may = true →
      let u := dropLatch s (if src = .outside then .host else src)
      let img := updateImage u
      let done (v : State) (status slot : Nat) : State := setReg v .setUpdStat (BitVec.ofNat 64 (status * 2 ^ 8 + slot * 2 ^ 16))
      let k := if rf u .setStat 0 2 = 1 then 2 else 1
      let put (v : State) (bytes : List Byte) : State :=
        { v with part := if k = 1 then { v.part with flashA := bytes } else { v.part with flashB := bytes } }
      exec (.setUpdCtlGo src readFails flashFails) s = .next (
        if rf u .setUpdAddr 0 48 % 64 ≠ 0 then done u stBadDesc 0
        else if rngOf (rf u .setUpdAddr 0 48) ≠ some .host then done u stBounds 0
        else if readFails || !hostReadable u then done u stTierFail 0
        else match updateFault u img with
          | some st => done u st 0
          | none => if flashFails then done (put u []) stTierFail 0 else done (put u img) stOk k))

/-- The answers of SPDM, where the mailbox is open. Certificates, signatures and measurements; no measurement during a tenant
change; at most two sessions; and in a session its end, its new keys and its log. A silent session is closed. -/
def Obligations.AttestationAnswers : Prop :=
  ∀ s : State,
    (doeOpen s = true →
      (∀ k : Fin 8, exec (.getCertificate k) s
        = .next (emit s (if k.val = 0 then .spdm none Config.certChain else .spdm (some "InvalidRequest") [])))
      ∧ (∀ n : BitVec 256, exec (.challenge n) s
        = .next (emit s (.spdm none (Config.identitySign (leBytes 32 n.toNat ++ Config.certChain)))))
      ∧ (∀ n : BitVec 256, exec (.getMeasurements n) s = .next (emit s (
          if secState s = 2 then .spdm (some "Busy") []
          else .spdm none (measurements s ++ leBytes 32 n.toNat
            ++ Config.identitySign (measurements s ++ leBytes 32 n.toNat)))))
      ∧ (∀ (h : BitVec 384) (m : Bool),
        (2 ≤ s.sec.sessions.length → exec (.keyExchange h m) s = .next (emit s (.spdm (some "ResponseNotReady") [])))
        ∧ (s.sec.sessions.length < 2 → exec (.keyExchange h m) s = .next (emit
            (refreshSec { s with sec := { s.sec with
              sessions := s.sec.sessions ++ [⟨s.sec.nextSession, tenantSession s h m⟩], nextSession := s.sec.nextSession + 1 } })
            (.spdm none (leBytes 4 s.sec.nextSession)))))
      ∧ (∀ (n : Nat) (q : Session), sessionOf s n = some q →
        exec (.keyUpdate n) s = .next (emit s (.spdm none []))
        ∧ exec (.endSession n) s = .next (emit (closeSession s n) (.spdm none []))
        ∧ exec (.readLog n) s = .next (emit s (.keyProtocol kpOk s.sec.log))))
    ∧ ∀ n, (sessionOf s n).isSome = true → exec (.heartbeatTimeout n) s = .next (closeSession s n)

/-- The key protocol in a session that may speak it. SET_POLICY starts a tenancy under a well-formed policy; keys are stored
once and while there is space, each advancing the epoch, and erased, an adapter's when nothing uses it; PRESERVE keeps the keys of a tenancy that allows it; END_TENANCY starts the
change to OPEN. Anyone else's message in a tenancy is refused. -/
def Obligations.KeyProtocolMessagesAct : Prop :=
  ∀ (s : State) (n : Nat) (q : Session), doeOpen s = true → sessionOf s n = some q →
    let no (st : Nat) := exec (.endTenancy n) s = .next (emit s (.keyProtocol st []))
    (secState s = 1 → q.tenant = false → no kpRefused)
    ∧ (secState s ≠ 1 ∨ q.tenant = true →
      (∀ p : BitVec 512, exec (.setPolicy n p) s = .next (
        if !policyOk p then emit s (.keyProtocol kpMalformed [])
        else if secState s = 2 then emit s (.keyProtocol kpBusy [])
        else if secState s = 1 then emit s (.keyProtocol kpRefused [])
        else if (s.sec.alarmLogged || s.sec.domainLost) && !p.toNat.testBit 3 then emit s (.keyProtocol kpRefused [])
        else startChange { emit s (.keyProtocol kpOk []) with sec := { s.sec with nextPolicy := p } } 1))
      ∧ (∀ (i : Word) (key : BitVec 256), (setKeyOf s i).isSome = true →
        exec (.putSetKey n i key) s = .next (emit s (.keyProtocol kpRefused [])))
      ∧ (∀ (i : Word) (key : BitVec 256), setKeyOf s i = none → 64 ≤ s.sec.setKeys.length →
        exec (.putSetKey n i key) s = .next (emit s (.keyProtocol kpNoSpace [])))
      ∧ (∀ (i : Word) (key : BitVec 256), setKeyOf s i = none → s.sec.setKeys.length < 64 →
        exec (.putSetKey n i key) s = .next (emit
          (advanceEpoch { s with sec := { s.sec with setKeys := s.sec.setKeys ++ [(i, key)] } }) (.keyProtocol kpOk [])))
      ∧ (∀ (k : BitVec 16) (key : BitVec 256), (adpKey s k.toNat).isSome = true →
        exec (.putAdapterKey n k key) s = .next (emit s (.keyProtocol kpRefused [])))
      ∧ (∀ (k : BitVec 16) (key : BitVec 256), adpKey s k.toNat = none →
        exec (.putAdapterKey n k key) s
          = .next (emit (advanceEpoch (setAdpKey s k.toNat (some ⟨key, none, 0⟩))) (.keyProtocol kpOk [])))
      ∧ (∀ i : Word, exec (.eraseKey n 0 i) s = .next (emit
          (advanceEpoch { s with sec := { s.sec with setKeys := s.sec.setKeys.filter fun p => p.1 != i } }) (.keyProtocol kpOk [])))
      ∧ (∀ i : Word, exec (.eraseKey n 1 i) s = .next (
          if 65536 ≤ i.toNat then emit s (.keyProtocol kpMalformed [])
          else if (adp s i.toNat).state = .live ∨ (adp s i.toNat).state = .retiring then emit s (.keyProtocol kpRefused [])
          else if keyInUse s i.toNat then { s with sec := { s.sec with erases := s.sec.erases ++ [i.toNat] } }
          else
            let u := setAdpKey s i.toNat none
            emit (advanceEpoch { u with sec := { u.sec with erases := s.sec.erases.filter (· != i.toNat) } }) (.keyProtocol kpOk [])))
      ∧ (∀ (kind : Byte) (i : Word), 2 ≤ kind.toNat → exec (.eraseKey n kind i) s = .next (emit s (.keyProtocol kpMalformed [])))
      ∧ ((secState s ≠ 1 ∨ policyBit s 2 = false) → exec (.preserve n) s = .next (emit s (.keyProtocol kpRefused [])))
      ∧ (secState s = 1 → policyBit s 2 = true →
        let u := if s.sec.wrapSecret.isSome then s
          else { (drawKey s).2 with sec := { (drawKey s).2.sec with wrapSecret := some (drawKey s).1 } }
        exec (.preserve n) s = .next (emit (refreshSec (logEntry { u with sec := { u.sec with
          preserved := some (u.sec.adpKeys, u.sec.setKeys, u.sec.policy) } } 0x12 0)) (.keyProtocol kpOk [])))
      ∧ (secState s = 2 → no kpBusy)
      ∧ (secState s = 1 → exec (.endTenancy n) s = .next (startChange (emit s (.keyProtocol kpOk [])) 0))
      ∧ (secState s ≠ 1 → secState s ≠ 2 → no kpRefused))

/-- The interface's messages in a session. A key makes its stream secure; LOCK, START and STOP move the interface through its
states where each may, advancing the epoch, and answer a refusal elsewhere; a stream that loses its security under a held
interface puts it in error. -/
def Obligations.InterfaceMessagesAct : Prop :=
  ∀ (s : State) (n : Nat) (q : Session), doeOpen s = true → sessionOf s n = some q →
    (∀ (k : Fin 3) (key : BitVec 256), exec (.ideKm n k key) s = .next (emit (refreshSec (advanceEpoch
      { s with sec := { s.sec with ideKeys := s.sec.ideKeys.set k.val key, ideSecure := s.sec.ideSecure.set k.val true } }))
      (.tdisp true)))
    ∧ exec (.lockInterface n) s = .next (
        if secState s == 1 && tdispState s == 0 && !anyEnabled s && s.sec.ideSecure.any id then
          emit (setRf (advanceEpoch s) .secStat 8 2 1) (.tdisp true) else emit s (.tdisp false))
    ∧ exec (.startInterface n) s = .next (
        if tdispState s == 1 then emit (setRf (advanceEpoch s) .secStat 8 2 2) (.tdisp true) else emit s (.tdisp false))
    ∧ exec (.stopInterface n) s = .next (
        if secState s == 1 then emit (setRf (tearAll (advanceEpoch s)) .secStat 8 2 0) (.tdisp true) else emit s (.tdisp false))
    ∧ ∀ k : Fin 3,
      let u := refreshSec { s with sec := { s.sec with ideSecure := s.sec.ideSecure.set k.val false } }
      exec (.ideStreamInsecure k) s = .next (
        if s.sec.ideSecure.getD k.val false && (tdispState s == 1 || tdispState s == 2) then
          tearAll (setTdisp (advanceEpoch u) 3) else u)

/-! ## Management and the monitor -/

/-- What the management bus and the scan chain answer while the input is on. -/
def Obligations.ManagementBusAnswers : Prop :=
  ∀ s : State, s.power.state ≠ .off →
    exec .smbReadStatus s = .next (emit s (.smbus [smbStatus s]))
    ∧ exec .smbReadTemperature s = .next (emit s (.smbus [s.power.hot]))
    ∧ exec .smbReadPower s = .next (emit s (.smbus [s.power.inputW % 65536]))
    ∧ (∀ mv : BitVec 20, exec (.smbReadVoltage mv) s = .next (emit s (.smbus [mv.toNat / 10])))
    ∧ exec .smbReadPowerCap s = .next (emit s (.smbus [rf s .pwrCap 0 12]))
    ∧ (∀ w : BitVec 16, exec (.smbWritePowerCap w) s
        = .next (writeReg (dropLatch s .smbus) .smbus .pwrCap (BitVec.ofNat 64 (min 4095 w.toNat))))
    ∧ (let n := (List.range 6).foldl (fun n i => n + popCount (reg s (.fltFailClu i)).toNat 64) 0
       let rest := [popCount (rf s .fltFailRgn 0 36) 36, popCount (rf s .fltFailD2d 0 15) 15]
       (n < 256 → exec .smbReadFailrec s = .next (emit s (.smbus (n :: rest))))
       ∧ (256 ≤ n → ∃ free, exec .smbReadFailrec s = .next (emit { s with free := s.free + 1 } (.smbus (free :: rest)))))
    ∧ (s.pins.smbAlertN = false → exec .smbAlertResponse s
        = .next (emit { s with pins := { s.pins with smbAlertN := true } } (.smbus [0x58 + rf s .peerId 0 6 % 8])))
    ∧ exec .extest s = .next (emit s (.scan none (s.power.state == .standby)))
    ∧ exec .idcode s = .next (emit s (.scan (some (rf s .idIdcode 0 32)) false))
    ∧ exec .bypass s = .next (emit s (.scan none false))

/-- What the monitor answers while its clock runs. HELP lists what the state allows; LOG and FAILREC read the battery log and
the failed units; REGR, REGW, MEMR and RESET are for OPEN alone, and answer LOCKED in a tenancy and BUSY in a change. -/
def Obligations.MonitorAnswers : Prop :=
  ∀ s : State, clocksRun s = true →
    exec .help s = .next (emit s (.monitor none
      (if secState s = 0 then List.range 8 else if secState s = 1 then [0, 1, 2, 3] else [0, 1, 2])))
    ∧ exec .status s = .next (emit s (.monitor none
      [(readReg s .idPart).toNat, rf s .idLevel 0 8, rf s .idLevel 16 8, (readReg s .setStat).toNat, (readReg s .secStat).toNat,
        (readReg s .pwrStat).toNat, (readReg s .pwrTemp).toNat, (readReg s .fltStat).toNat]))
    ∧ (∀ n : Option Nat, exec (.log n) s = .next (emit s (
        if 1 ≤ n.getD 16 ∧ n.getD 16 ≤ 512 then
          .monitor none ((s.sec.log.drop (s.sec.log.length - n.getD 16)).map BitVec.toNat)
        else .monitor (some "ARGS") [])))
    ∧ exec .failrec s = .next (emit s (if secState s = 2 then .monitor (some "BUSY") [] else .monitor none
        ((List.range 6).map (fun i => (reg s (.fltFailClu i)).toNat) ++ [(reg s .fltFailRgn).toNat, (reg s .fltFailD2d).toNat])))
    ∧ (∀ long : Bool, exec (.monitorUnknownLine long) s
        = .next (emit s (.monitor (some (if long then "LONG" else "UNKNOWN")) [])))
    ∧ (secState s = 0 →
      (∀ off : BitVec 26, off.toNat % 8 = 0 → exec (.regr off) s
        = .next (emit (dropLatch s .monitor) (.monitor none [read64 (dropLatch s .monitor) off.toNat])))
      ∧ (∀ (off : BitVec 26) (v : Word), inSec off.toNat = true → exec (.regw off v) s
        = .next (emit s (.monitor (some "LOCKED") [])))
      ∧ (∀ off : BitVec 26, off.toNat % 8 ≠ 0 → ∃ code, exec (.regr off) s = .next (emit
        { dropLatch s .monitor with free := (dropLatch s .monitor).free + 1 } (.monitor (some "FAILED") [code])))
      ∧ (∀ (off : BitVec 26) (v : Word), inSec off.toNat = false → off.toNat % 8 ≠ 0 → ∃ code,
        let u := barWrite s .monitor off.toNat 8 v
        exec (.regw off v) s = .next (emit { u with free := u.free + 1 } (.monitor (some "FAILED") [code])))
      ∧ (∀ (a : Addr) (n : Nat), n = 0 ∨ 256 < n → exec (.memr a n) s = .next (emit s (.monitor (some "ARGS") [])))
      ∧ (∀ (a : Addr) (n : Nat), 1 ≤ n → n ≤ 256 → (bar4Targets s a.toNat n).contains .refused = true → ∃ code,
        let u := bump s .hifBar4ErrCnt
        exec (.memr a n) s = .next (emit { u with free := u.free + 1 } (.monitor (some "FAILED") [code])))
      ∧ (∀ (a : Addr) (n : Nat), 1 ≤ n → n ≤ 256 → (bar4Targets s a.toNat n).contains .refused = false →
        anyPoison s a.toNat n = true → exec (.memr a n) s = .next (emit s (.monitor (some "FAILED") [stPoisonIn])))
      ∧ (∀ k : Nat, k < 3 ∨ 5 < k → exec (.reset k) s = .next (emit s (.monitor (some "ARGS") [])))
      ∧ (∀ (off : BitVec 26) (v : Word), inSec off.toNat = false → off.toNat % 8 = 0 →
        exec (.regw off v) s = .next (emit (barWrite s .monitor off.toNat 8 v) (.monitor none [])))
      ∧ (∀ (a : Addr) (n : Nat), 1 ≤ n → n ≤ 256 → (bar4Targets s a.toNat n).contains .refused = false →
        anyPoison s a.toNat n = false →
        exec (.memr a n) s = .next (emit s (.monitor none ((readBytes s a.toNat n).map BitVec.toNat))))
      ∧ (∀ k : Nat, 3 ≤ k → k ≤ 5 →
        exec (.reset k) s = .next (resetWrite (emit s (.monitor none [])) (BitVec.ofNat 64 k))))
    ∧ (secState s ≠ 0 → ∀ (off : BitVec 26) (v : Word) (a : Addr) (n : Nat),
      ∀ c ∈ [Instr.regr off, .regw off v, .memr a n, .reset n],
        exec c s = .next (emit s (.monitor (some (if secState s = 1 then "LOCKED" else "BUSY")) [])))

/-! ## Frames -/

/-- Commands that only answer leave everything as it was but what the block has said, and how many free values it has
drawn. -/
def Obligations.AnswersChangeNothingElse : Prop :=
  ∀ (s t : State) (k : Fin 8) (nonce : BitVec 256) (n : Nat) (m : Option Nat) (mv : BitVec 20) (long : Bool),
    ∀ c ∈ [Instr.smbReadStatus, .smbReadTemperature, .smbReadPower, .smbReadVoltage mv, .smbReadPowerCap, .smbReadFailrec,
        .extest, .idcode, .bypass, .help, .status, .log m, .failrec, .monitorUnknownLine long, .getCertificate k,
        .challenge nonce, .getMeasurements nonce, .keyUpdate n, .readLog n, .sendHello],
      exec c s = .next t → t = { s with out := t.out, free := t.free } ∧ s.out <+: t.out

/-- A result that a command lands changes the bytes of its cells, and, where it is counted for a tensor, that tensor's
pending magnitude in its scale-table entry; no other byte changes, nor the commands outstanding, the adapters, the packages,
the connections, the supply or the security unit. -/
def Obligations.ResultsChangeOnlyTheirCells : Prop :=
  ∀ (s : State) (x tag : Nat) (q : Tensor) (eval : Bool) (o : Out) (a : Nat), x < 64 →
    (∀ c ∈ o.cells, resolve s c.1 ≠ resolve s a) →
    let t := (landOut s x tag eval o).1
    let u := (landTensor s x tag eval q o).1
    readByte t a = readByte s a
    ∧ ((∀ i, i < 4 → resolve s (entryAddr s x q.tid + 8 + i) ≠ resolve s a) → readByte u a = readByte s a)
    ∧ t.outs = s.outs ∧ t.adapters = s.adapters ∧ t.packages = s.packages ∧ t.conns = s.conns ∧ t.power = s.power ∧ t.sec = s.sec
    ∧ u.outs = s.outs ∧ u.adapters = s.adapters ∧ u.packages = s.packages ∧ u.conns = s.conns ∧ u.power = s.power ∧ u.sec = s.sec

/-- A command read from a ring completes with one record of 16 bytes at the entry of CPL_WR, in the fields of the record, its
pages backed first where they are not, and CPL_WR counts it; no other byte changes. Where the pages cannot be backed the record
is lost and CPL_WR counts it all the same. -/
def Obligations.CompletionRecordsAreWritten : Prop :=
  ∀ (s : State) (o : OutCmd) (status detail : Nat), o.parent = none → o.ctx < 64 → o.ring < 16 →
    let a := ringBase s (.ctxCxCq o.ctx o.ring)
      + (rf s (.ctxCxRstat o.ctx o.ring) 32 32 % ringSize s (.ctxCxCq o.ctx o.ring)) * 16
    let st := withMiss o.missed status
    let phase := if rf s (.ctxCxRstat o.ctx o.ring) 32 32 / ringSize s (.ctxCxCq o.ctx o.ring) % 2 = 0 then 1 else 0
    let record := leBytes 4 o.d.tag ++ leBytes 4 (st % 256 + phase * 256 + (if o.missed then 512 else 0)
        + o.pos % ringSize s (.ctxCxSq o.ctx o.ring) % 65536 * 65536)
      ++ leBytes 4 detail ++ leBytes 4 (rf s (.ctxCxRstat o.ctx o.ring) 0 32)
    let u := markOutcome (dropOut s o.ident) o st
    let t := complete s o status detail
    (∀ v, backPages u o.ctx (pagesOf u a 16) = some v → (∀ i, i < 16 → resolve s (a + i) = a + i ∧ exhausted v (a + i) = false) →
      (∀ i, i < 16 → readByte t (a + i) = record.getD i 0)
      ∧ (∀ b, resolve s b < a ∨ a + 16 ≤ resolve s b → readByte t b = readByte v b))
    ∧ (backPages u o.ctx (pagesOf u a 16) = none → ∀ b, readByte t b = readByte s b)
    ∧ rf t (.ctxCxRstat o.ctx o.ring) 32 32 = (rf s (.ctxCxRstat o.ctx o.ring) 32 32 + 1) % 2 ^ 32
    ∧ rf t (.ctxCxRstat o.ctx o.ring) 0 32 = rf s (.ctxCxRstat o.ctx o.ring) 0 32
    ∧ findOut t o.ident = none
end

