-- ==== Sys2Proof/Laws/SMap.lean ====
section
/-! SUPPORT. What reading after writing a sparse list gives, and that writing keeps its canonical form. The reading
laws hold of every list, canonical or not. -/

namespace Sys2Proof.Laws

open Sys2Proof.Machine

/-! ## Reading -/

@[simp] theorem smGet_nil {α : Type} (d : α) (a : Nat) : smGet d [] a = d := rfl

/-- A list without a key reads it as unlisted. -/
theorem smGet_absent {α : Type} (d : α) (m : List (Nat × α)) (a : Nat) (h : ∀ p ∈ m, p.1 ≠ a) : smGet d m a = d := by
  induction m with
  | nil => rfl
  | cons p m ih =>
    obtain ⟨k, v⟩ := p
    have hk : ¬ a = k := fun e => h (k, v) (by simp) e.symm
    simp only [smGet, hk, if_false]
    exact ih fun q hq => h q (by simp [hq])

/-- A filter that keeps a key does not change what it reads as. -/
theorem smGet_filter_kept {α : Type} (d : α) (f : Nat × α → Bool) (m : List (Nat × α)) (a : Nat)
    (h : ∀ v, f (a, v) = true) : smGet d (m.filter f) a = smGet d m a := by
  induction m with
  | nil => rfl
  | cons p m ih =>
    obtain ⟨k, v⟩ := p
    by_cases hk : a = k
    · subst hk
      simp [h v, smGet]
    · by_cases hf : f (k, v) = true <;> simp [List.filter, hf, smGet, hk, ih]

/-- A filter that drops a key leaves it unlisted. -/
theorem smGet_filter_dropped {α : Type} (d : α) (f : Nat × α → Bool) (m : List (Nat × α)) (a : Nat)
    (h : ∀ v, f (a, v) = false) : smGet d (m.filter f) a = d := by
  refine smGet_absent d _ a fun p hp e => ?_
  obtain ⟨k, v⟩ := p
  cases e
  have h2 := (List.mem_filter.mp hp).2
  rw [h v] at h2
  cases h2

/-- The first of two lists that lists a key answers for it. -/
theorem smGet_append_left {α : Type} (d : α) (l r : List (Nat × α)) (a : Nat) (h : ∀ p ∈ r, p.1 ≠ a) :
    smGet d (l ++ r) a = smGet d l a := by
  induction l with
  | nil => exact smGet_absent d r a h
  | cons p l ih => simp [smGet, ih]

theorem smGet_append_right {α : Type} (d : α) (l r : List (Nat × α)) (a : Nat) (h : ∀ p ∈ l, p.1 ≠ a) :
    smGet d (l ++ r) a = smGet d r a := by
  induction l with
  | nil => rfl
  | cons p l ih =>
    obtain ⟨k, v⟩ := p
    have hk : ¬ a = k := fun e => h (k, v) (by simp) e.symm
    simp only [List.cons_append, smGet, hk, if_false]
    exact ih fun q hq => h q (by simp [hq])

theorem smGet_smIns_same {α : Type} (d : α) (m : List (Nat × α)) (a : Nat) (v : α) (h : ∀ p ∈ m, p.1 ≠ a) :
    smGet d (smIns m a v) a = v := by
  induction m with
  | nil => simp [smIns, smGet]
  | cons p m ih =>
    obtain ⟨k, w⟩ := p
    have hk : ¬ a = k := fun e => h (k, w) (by simp) e.symm
    by_cases h2 : a < k
    · simp [smIns, h2, smGet]
    · simp only [smIns, h2, if_false, smGet, hk]
      exact ih fun q hq => h q (by simp [hq])

theorem smGet_smIns_other {α : Type} (d : α) (m : List (Nat × α)) (a b : Nat) (v : α) (hne : b ≠ a) :
    smGet d (smIns m a v) b = smGet d m b := by
  induction m with
  | nil => simp [smIns, smGet, hne]
  | cons p m ih =>
    obtain ⟨k, w⟩ := p
    by_cases h2 : a < k
    · simp [smIns, h2, smGet, hne]
    · simp [smIns, h2, smGet, ih]

/-- A read after a write of the same key gives the value written. -/
@[simp] theorem smGet_smSet_same {α : Type} [DecidableEq α] (d : α) (m : List (Nat × α)) (a : Nat) (v : α) :
    smGet d (smSet d m a v) a = v := by
  by_cases hv : v = d
  · simp only [smSet, hv, if_true]
    exact smGet_filter_dropped d _ m a fun v => by simp
  · simp only [smSet, hv, if_false]
    exact smGet_smIns_same d _ a v fun p hp => by simpa using (List.mem_filter.mp hp).2

/-- A write leaves every other key alone. -/
theorem smGet_smSet_other {α : Type} [DecidableEq α] (d : α) (m : List (Nat × α)) (a b : Nat) (v : α) (hne : b ≠ a) :
    smGet d (smSet d m a v) b = smGet d m b := by
  have hf : smGet d (m.filter fun p => p.1 != a) b = smGet d m b := smGet_filter_kept d _ m b fun v => by simp [hne]
  by_cases hv : v = d
  · simp only [smSet, hv, if_true, hf]
  · simp only [smSet, hv, if_false, smGet_smIns_other d _ a b v hne, hf]

/-- A read after a write, either way. -/
theorem smGet_smSet {α : Type} [DecidableEq α] (d : α) (m : List (Nat × α)) (a b : Nat) (v : α) :
    smGet d (smSet d m a v) b = if b = a then v else smGet d m b := by
  by_cases h : b = a
  · subst h; simp
  · simp [h, smGet_smSet_other]

/-- Erased keys read as unlisted, and the others as before. -/
theorem smGet_smErase {α : Type} (d : α) (m : List (Nat × α)) (a n b : Nat) :
    smGet d (smErase m a n) b = if a ≤ b ∧ b < a + n then d else smGet d m b := by
  by_cases h : a ≤ b ∧ b < a + n
  · simp only [h, smErase]
    exact smGet_filter_dropped d _ m b fun v => by simp [h.1, h.2]
  · simp only [h, if_false, smErase]
    refine smGet_filter_kept d _ m b fun v => ?_
    by_cases h1 : a ≤ b
    · have h2 : ¬ b < a + n := fun e => h ⟨h1, e⟩
      simp [h1, h2]
    · simp [h1]

theorem smRun_mem {α : Type} [DecidableEq α] (d : α) (f : Nat → α) (a n : Nat) (p : Nat × α) (h : p ∈ smRun d f a n) :
    a ≤ p.1 ∧ p.1 < a + n := by
  simp only [smRun, List.mem_filterMap, List.mem_range'_1] at h
  obtain ⟨k, hk, hf⟩ := h
  split at hf
  · cases hf
  · cases hf
    exact hk

theorem smRun_succ {α : Type} [DecidableEq α] (d : α) (f : Nat → α) (a n : Nat) :
    smRun d f a (n + 1) = (if f a = d then [] else [(a, f a)]) ++ smRun d f (a + 1) n := by
  by_cases hf : f a = d <;> simp [smRun, List.range'_succ, hf]

theorem smGet_smRun {α : Type} [DecidableEq α] (d : α) (f : Nat → α) (a n b : Nat) (h : a ≤ b ∧ b < a + n) :
    smGet d (smRun d f a n) b = f b := by
  induction n generalizing a with
  | zero => omega
  | succ n ih =>
    rw [smRun_succ]
    by_cases hb : b = a
    · subst hb
      have hr : ∀ p ∈ smRun d f (b + 1) n, p.1 ≠ b := fun p hp e => by
        have := (smRun_mem d f (b + 1) n p hp).1
        omega
      rw [smGet_append_left d _ _ b hr]
      by_cases hf : f b = d <;> simp [hf, smGet]
    · rw [smGet_append_right]
      · exact ih (a + 1) (by omega)
      · intro p hp e
        by_cases hf : f a = d
        · simp [hf] at hp
        · simp [hf] at hp
          subst hp
          exact hb e.symm

/-- A filled run reads as its function, and the other keys as before. -/
theorem smGet_smFill {α : Type} [DecidableEq α] (d : α) (m : List (Nat × α)) (f : Nat → α) (a n b : Nat) :
    smGet d (smFill d m f a n) b = if a ≤ b ∧ b < a + n then f b else smGet d m b := by
  have hrun (c : Nat) (h : ¬ (a ≤ c ∧ c < a + n)) : ∀ p ∈ smRun d f a n, p.1 ≠ c := fun p hp e =>
    h (e ▸ smRun_mem d f a n p hp)
  have hlow (c : Nat) (h : a ≤ c) : ∀ p ∈ m.filter (fun p => decide (p.1 < a)), p.1 ≠ c := fun p hp e => by
    have := (List.mem_filter.mp hp).2
    simp at this
    omega
  have hhigh (c : Nat) (h : c < a + n) : ∀ p ∈ m.filter (fun p => decide (a + n ≤ p.1)), p.1 ≠ c := fun p hp e => by
    have := (List.mem_filter.mp hp).2
    simp at this
    omega
  by_cases h : a ≤ b ∧ b < a + n
  · simp only [h, and_self, if_true, smFill]
    rw [smGet_append_right d _ _ b (hlow b h.1), smGet_append_left d _ _ b (hhigh b h.2)]
    exact smGet_smRun d f a n b h
  · simp only [h, if_false, smFill]
    by_cases h1 : a ≤ b
    · have h2 : a + n ≤ b := by omega
      rw [smGet_append_right d _ _ b (hlow b h1), smGet_append_right d _ _ b (hrun b h)]
      exact smGet_filter_kept d _ m b fun v => by simp [h2]
    · have hr : ∀ p ∈ smRun d f a n ++ m.filter (fun p => decide (a + n ≤ p.1)), p.1 ≠ b := fun p hp => by
        rcases List.mem_append.mp hp with hp | hp
        · exact hrun b h p hp
        · exact hhigh b (by omega) p hp
      rw [smGet_append_left d _ _ b hr]
      exact smGet_filter_kept d _ m b fun v => by simp; omega

/-! ## The canonical form -/

theorem smAbove_mono {α : Type} (m : List (Nat × α)) (a b : Nat) (hab : a ≤ b) (h : smAbove b m = true) :
    smAbove a m = true := by
  induction m with
  | nil => rfl
  | cons p m ih =>
    obtain ⟨k, v⟩ := p
    simp [smAbove] at h ⊢
    exact ⟨by omega, ih h.2⟩

theorem smAbove_filter {α : Type} (f : Nat × α → Bool) (m : List (Nat × α)) (a : Nat)
    (h : smAbove a m = true) : smAbove a (m.filter f) = true := by
  induction m with
  | nil => rfl
  | cons p m ih =>
    obtain ⟨k, v⟩ := p
    simp [smAbove] at h
    by_cases hf : f (k, v) = true <;> simp [List.filter, hf, smAbove, h.1, ih h.2]

/-- Removing entries keeps the canonical form. -/
theorem smWf_filter {α : Type} [DecidableEq α] (d : α) (f : Nat × α → Bool) (m : List (Nat × α))
    (h : smWf d m = true) : smWf d (m.filter f) = true := by
  induction m with
  | nil => rfl
  | cons p m ih =>
    obtain ⟨k, v⟩ := p
    simp [smWf] at h
    by_cases hf : f (k, v) = true <;>
      simp [List.filter, hf, smWf, h.1.1, ih h.2, smAbove_filter f m k h.1.2]

theorem smAbove_smIns {α : Type} (m : List (Nat × α)) (a b : Nat) (v : α) (hb : b < a) (h : smAbove b m = true) :
    smAbove b (smIns m a v) = true := by
  induction m with
  | nil => simp [smIns, smAbove, hb]
  | cons p m ih =>
    obtain ⟨k, w⟩ := p
    simp [smAbove] at h
    by_cases h2 : a < k
    · simp [smIns, h2, smAbove, h.1, h.2, hb]
    · simp [smIns, h2, smAbove, h.1, ih h.2]

theorem smWf_smIns {α : Type} [DecidableEq α] (d : α) (m : List (Nat × α)) (a : Nat) (v : α) (hv : v ≠ d)
    (ha : ∀ p ∈ m, p.1 ≠ a) (h : smWf d m = true) : smWf d (smIns m a v) = true := by
  induction m with
  | nil => simp [smIns, smWf, smAbove, hv]
  | cons p m ih =>
    obtain ⟨k, w⟩ := p
    simp [smWf] at h
    have hk : k ≠ a := ha (k, w) (by simp)
    by_cases h2 : a < k
    · simp [smIns, h2, smWf, h, hv, smAbove, smAbove_mono m a k (by omega) h.1.2]
    · simp [smIns, h2, smWf, h.1.1, ih (fun q hq => ha q (by simp [hq])) h.2, smAbove_smIns m a k v (by omega) h.1.2]

/-- Every write keeps the canonical form. -/
theorem smWf_smSet {α : Type} [DecidableEq α] (d : α) (m : List (Nat × α)) (a : Nat) (v : α)
    (h : smWf d m = true) : smWf d (smSet d m a v) = true := by
  by_cases hv : v = d
  · simp only [smSet, hv, if_true]
    exact smWf_filter d _ m h
  · simp only [smSet, hv, if_false]
    exact smWf_smIns d _ a v hv (fun p hp => by simpa using (List.mem_filter.mp hp).2) (smWf_filter d _ m h)

theorem smWf_smErase {α : Type} [DecidableEq α] (d : α) (m : List (Nat × α)) (a n : Nat)
    (h : smWf d m = true) : smWf d (smErase m a n) = true :=
  smWf_filter d _ m h

theorem smAbove_append {α : Type} (l r : List (Nat × α)) (k : Nat) (hl : smAbove k l = true) (hr : smAbove k r = true) :
    smAbove k (l ++ r) = true := by
  induction l with
  | nil => simpa using hr
  | cons p l ih =>
    obtain ⟨a, v⟩ := p
    simp [smAbove] at hl
    simp [smAbove, hl.1, ih hl.2]

theorem smWf_append {α : Type} [DecidableEq α] (d : α) (l r : List (Nat × α)) (hl : smWf d l = true) (hr : smWf d r = true)
    (h : ∀ p ∈ l, smAbove p.1 r = true) : smWf d (l ++ r) = true := by
  induction l with
  | nil => simpa using hr
  | cons p l ih =>
    obtain ⟨a, v⟩ := p
    simp [smWf] at hl
    have ha := h (a, v) (by simp)
    simp [smWf, hl.1.1, smAbove_append l r a hl.1.2 ha, ih hl.2 (fun q hq => h q (by simp [hq]))]

/-- Keys of a list are all above `k` exactly when its entries say so. -/
theorem smAbove_of_all {α : Type} (k : Nat) (m : List (Nat × α)) (h : ∀ p ∈ m, k < p.1) : smAbove k m = true := by
  induction m with
  | nil => rfl
  | cons p m ih =>
    obtain ⟨a, v⟩ := p
    have ha := h (a, v) (by simp)
    simp [smAbove, ha, ih (fun q hq => h q (by simp [hq]))]

theorem smWf_smRun {α : Type} [DecidableEq α] (d : α) (f : Nat → α) (a n : Nat) : smWf d (smRun d f a n) = true := by
  induction n generalizing a with
  | zero => rfl
  | succ n ih =>
    rw [smRun_succ]
    refine smWf_append d _ _ ?_ (ih (a + 1)) ?_
    · by_cases hf : f a = d <;> simp [hf, smWf, smAbove]
    · intro p hp
      refine smAbove_of_all _ _ fun q hq => ?_
      have hq := (smRun_mem d f (a + 1) n q hq).1
      by_cases hf : f a = d <;> simp [hf] at hp
      subst hp
      exact hq

/-- Filling a run of keys keeps the canonical form. -/
theorem smWf_smFill {α : Type} [DecidableEq α] (d : α) (m : List (Nat × α)) (f : Nat → α) (a n : Nat)
    (h : smWf d m = true) : smWf d (smFill d m f a n) = true := by
  refine smWf_append d _ _ (smWf_filter d _ m h) ?_ ?_
  · refine smWf_append d _ _ (smWf_smRun d f a n) (smWf_filter d _ m h) fun p hp => smAbove_of_all _ _ fun q hq => ?_
    have hp := (smRun_mem d f a n p hp).2
    simp at hq
    omega
  · intro p hp
    simp at hp
    refine smAbove_append _ _ _ (smAbove_of_all _ _ fun q hq => ?_) (smAbove_of_all _ _ fun q hq => ?_)
    · have hq := (smRun_mem d f a n q hq).1
      omega
    · simp at hq
      omega

end Sys2Proof.Laws
end

