-- ==== Sys2Proof/Laws/Keeps.lean ====
section
/-! SUPPORT. What no command of the block ever does: it never touches the queue or the fuses, breaks no canonical form,
and takes nothing out of the battery log. `Keeps a s` says so of a state `s` that has come out of `a`; the files
beside this one show it of every operation of the model. -/

namespace Sys2Proof.Laws

open Sys2Proof.Machine

/-- What has been kept on the way from `a` to `s`. -/
structure Keeps (a s : State) : Prop where
  queue    : s.pending = a.pending
  clusters : s.part.badClusters = a.part.badClusters
  regions  : s.part.badRegions = a.part.badRegions
  board    : s.part.boardKeyHash = a.part.boardKeyHash
  mem      : Memory.wf a.mem → Memory.wf s.mem
  regs     : smWf 0 a.regs = true → smWf 0 s.regs = true
  poison   : smWf false a.poison = true → smWf false s.poison = true
  count    : a.sec.logCount ≤ s.sec.logCount
  room     : a.sec.log.length ≤ 512 → a.sec.log.length ≤ s.sec.log.length ∧ s.sec.log.length ≤ 512

variable {a0 s t : State}

theorem Keeps.refl (s : State) : Keeps s s := ⟨rfl, rfl, rfl, rfl, id, id, id, Nat.le_refl _, fun h => ⟨Nat.le_refl _, h⟩⟩

/-- An update of other fields keeps everything. -/
theorem Keeps.upd (h : Keeps a0 s) (h1 : t.pending = s.pending) (h2 : t.part.badClusters = s.part.badClusters)
    (h3 : t.part.badRegions = s.part.badRegions) (h4 : t.part.boardKeyHash = s.part.boardKeyHash) (h5 : t.mem = s.mem)
    (h6 : t.regs = s.regs) (h7 : t.poison = s.poison) (h8 : t.sec.logCount = s.sec.logCount) (h9 : t.sec.log = s.sec.log) :
    Keeps a0 t := by
  obtain ⟨a1, a2, a3, a4, a5, a6, a7, a8, a9⟩ := h
  refine ⟨h1.trans a1, h2.trans a2, h3.trans a3, h4.trans a4, ?_, ?_, ?_, ?_, ?_⟩
  · rw [h5]; exact a5
  · rw [h6]; exact a6
  · rw [h7]; exact a7
  · rw [h8]; exact a8
  · rw [h9]; exact a9

/-- A state written out with other fields changed keeps everything. -/
theorem Keeps.lit (h : Keeps a0 s) (free : Nat) (clean : List (Nat × Nat)) (ways : Nat) (tierCtl : Word) (attCtl :
    Word) (attSpill : Word) (tier : List (Nat × TierEntry)) (ddrCtr : List (Nat × Nat)) (withheld : List (Nat × Bool))
    (msix : List (Nat × Word32)) (msixPend : List (Nat × Bool)) (latches : List (Source × Nat × Word32)) (pcie : PcieSt)
    (ptm : PtmSt) (ctxs : List (Nat × CtxSt)) (outs : List OutCmd) (nextId : Nat) (adapters : List (Nat × Adapter))
    (packages : List (Nat × Option Package)) (grpSeq : List (Nat × Nat)) (verdicts : List (Nat × Nat × Word × Bool))
    (abandoned : List (Nat × Nat)) (collIn : List (Nat × CollPart)) (conns : List (Nat × Conn)) (pauses : List (Nat ×
    Nat)) (arrays : List (Nat × ArrSt)) (glitches : List ArrEvent) (served : Nat) (halt : Option Nat) (rgns : List (Nat ×
    RgnSt)) (engTrips : List (Nat × List Nat)) (d2d : List (Nat × D2dLink)) (merges : List (Nat × List MergeEntry))
    (storms : List Storm) (logMerged : Nat) (power : PowerSt) (failed : Bool) (pins : Pins) (sec : SecSt) (part : PartSt)
    (baud : Nat) (out : List Output)
    (h2 : part.badClusters = s.part.badClusters) (h3 : part.badRegions = s.part.badRegions)
    (h4 : part.boardKeyHash = s.part.boardKeyHash) (h8 : sec.logCount = s.sec.logCount) (h9 : sec.log = s.sec.log) :
    Keeps a0 ⟨s.pending, free, s.regs, s.mem, s.poison, clean, ways, tierCtl, attCtl, attSpill, tier, ddrCtr,
    withheld, msix, msixPend, latches, pcie, ptm, ctxs, outs, nextId, adapters, packages, grpSeq, verdicts, abandoned,
    collIn, conns, pauses, arrays, glitches, served, halt, rgns, engTrips, d2d, merges, storms, logMerged, power,
    failed, pins, sec, part, baud, out⟩ :=
  h.upd rfl h2 h3 h4 rfl rfl rfl h8 h9

/-- Bytes and marks rewritten in canonical form keep everything. -/
theorem Keeps.stored (h : Keeps a0 s) {m : List (Nat × Byte)} {p : List (Nat × Bool)} {c : List (Nat × Nat)}
    (h1 : Memory.wf s.mem → Memory.wf m) (h2 : smWf false s.poison = true → smWf false p = true) :
    Keeps a0 { s with mem := m, poison := p, clean := c } :=
  ⟨h.1, h.2, h.3, h.4, fun w => h1 (h.5 w), h.6, fun w => h2 (h.7 w), h.8, h.9⟩

theorem foldl_keeps {α : Type} (f : State → α → State) (hf : ∀ s x, Keeps a0 s → Keeps a0 (f s x)) (l : List α) (s : State)
    (h : Keeps a0 s) : Keeps a0 (l.foldl f s) := by
  induction l generalizing s with
  | nil => exact h
  | cons x l ih => exact ih _ (hf _ _ h)

theorem foldl_keeps_fst {α β : Type} (f : State × β → α → State × β) (hf : ∀ r x, Keeps a0 r.1 → Keeps a0 (f r x).1)
    (l : List α) (r : State × β) (h : Keeps a0 r.1) : Keeps a0 (l.foldl f r).1 := by
  induction l generalizing r with
  | nil => exact h
  | cons x l ih => exact ih _ (hf _ _ h)

theorem ite_keeps_fst {β : Type} {c : Prop} [Decidable c] {u v : State × β} (h1 : c → Keeps a0 u.1) (h2 : ¬ c → Keeps a0 v.1) :
    Keeps a0 (if c then u else v).1 := by
  split
  · exact h1 ‹_›
  · exact h2 ‹_›

theorem ite_keeps {c : Prop} [Decidable c] {u v : State} (h1 : c → Keeps a0 u) (h2 : ¬ c → Keeps a0 v) :
    Keeps a0 (if c then u else v) := by
  split
  · exact h1 ‹_›
  · exact h2 ‹_›

theorem getD_keeps (o : Option State) (hs : Keeps a0 s) (ho : ∀ t, o = some t → Keeps a0 t) : Keeps a0 (o.getD s) := by
  cases o with
  | none => exact hs
  | some t => exact ho t rfl

end Sys2Proof.Laws
end

