-- ==== Sys2Proof/Laws/KeepsOps.lean ====
section
/-! SUPPORT. Operations on registers, memory, pages, events and commands keep what Keeps says. -/

namespace Sys2Proof.Laws

open Sys2Proof.Machine

set_option linter.unusedTactic false
set_option linter.unreachableTactic false
set_option linter.unusedVariables false

variable {a0 s t : State}

theorem setReg_keeps (hK : Keeps a0 s) (r : Reg) (v : Word) : Keeps a0 (setReg s r v) :=
  ⟨hK.1, hK.2, hK.3, hK.4, hK.5, fun w => smWf_smSet _ _ _ _ (hK.6 w), hK.7, hK.8, hK.9⟩

theorem setRf_keeps (hK : Keeps a0 s) (r : Reg) (lo len v : Nat) : Keeps a0 (setRf s r lo len v) := by
  unfold setRf
  iterate 30 all_goals try first | with_reducible assumption | with_reducible apply setReg_keeps

theorem bumpBy_keeps (hK : Keeps a0 s) (r : Reg) (lo len d : Nat) : Keeps a0 (bumpBy s r lo len d) := by
  unfold bumpBy
  iterate 30 all_goals try first | with_reducible assumption | with_reducible apply setRf_keeps

theorem countBad_keeps (hK : Keeps a0 s) (lines : Nat) : Keeps a0 (countBad s lines) := bumpBy_keeps hK _ _ _ _

theorem bump_keeps (hK : Keeps a0 s) (r : Reg) : Keeps a0 (bump s r) := by
  unfold bump
  iterate 30 all_goals try first | with_reducible assumption | with_reducible apply bumpBy_keeps

theorem logAccess_keeps (hK : Keeps a0 s) (src : Source) (off kind : Nat) : Keeps a0 (logAccess s src off kind) := by
  unfold logAccess
  try extract_lets
  iterate 30 all_goals try first | with_reducible assumption | with_reducible apply setReg_keeps | with_reducible apply bump_keeps | split | extract_lets | (dsimp +zetaDelta only; split) | (with_reducible apply Keeps.lit <;> first | rfl | skip)

theorem emit_keeps (hK : Keeps a0 s) (o : Output) : Keeps a0 (emit s o) := by
  unfold emit
  iterate 30 all_goals try first | with_reducible assumption | (with_reducible apply Keeps.lit <;> first | rfl | skip)

theorem draw_keeps (hK : Keeps a0 s) : Keeps a0 (draw s).2 := by
  unfold draw
  iterate 30 all_goals try first | with_reducible assumption | (with_reducible apply Keeps.lit <;> first | rfl | skip)

theorem advanceEpoch_keeps (hK : Keeps a0 s) : Keeps a0 (advanceEpoch s) := by
  unfold advanceEpoch
  iterate 30 all_goals try first | with_reducible assumption | with_reducible apply setRf_keeps

theorem setCtx_keeps (hK : Keeps a0 s) (x : Nat) (c : CtxSt) : Keeps a0 (setCtx s x c) := by
  unfold setCtx
  iterate 30 all_goals try first | with_reducible assumption | (with_reducible apply Keeps.lit <;> first | rfl | skip)

theorem modCtx_keeps (hK : Keeps a0 s) (x : Nat) (f : CtxSt → CtxSt) : Keeps a0 (modCtx s x f) := by
  unfold modCtx
  iterate 30 all_goals try first | with_reducible assumption | with_reducible apply setCtx_keeps

theorem modRing_keeps (hK : Keeps a0 s) (x n : Nat) (f : RingSt → RingSt) : Keeps a0 (modRing s x n f) := by
  unfold modRing
  iterate 30 all_goals try first | with_reducible assumption | with_reducible apply modCtx_keeps | (intro _; try beta_reduce) | (with_reducible apply Keeps.lit <;> first | rfl | skip)

theorem setTier_keeps (hK : Keeps a0 s) (p : Nat) (e : TierEntry) : Keeps a0 (setTier s p e) := by
  unfold setTier
  iterate 30 all_goals try first | with_reducible assumption | (with_reducible apply Keeps.lit <;> first | rfl | skip)

theorem setHeld_keeps (hK : Keeps a0 s) (x h d : Nat) : Keeps a0 (setHeld s x h d) := by
  unfold setHeld
  iterate 30 all_goals try first | with_reducible assumption | with_reducible apply setRf_keeps

theorem giveFrame_keeps (hK : Keeps a0 s) (x : Nat) (p : Nat) (ddr : Bool) : Keeps a0 (giveFrame s x p ddr) := by
  unfold giveFrame
  try extract_lets
  repeat' first | with_reducible assumption | with_reducible apply setTier_keeps | with_reducible apply setHeld_keeps | with_reducible apply ite_keeps | with_reducible apply ite_keeps_fst | (intro _; try beta_reduce) | split | extract_lets | (dsimp +zetaDelta only; split) | (with_reducible apply Keeps.lit <;> first | rfl | skip)

theorem countFrame_keeps (hK : Keeps a0 s) (f : Nat) (n : Nat) : Keeps a0 (countFrame s f n) := by
  unfold countFrame
  repeat' first | with_reducible assumption | (intro _; try beta_reduce) | (with_reducible apply Keeps.lit <;> first | rfl | skip)

theorem returnRaised_keeps (hK : Keeps a0 s) (x : Nat) (q : Nat) (h : returnRaised s x q = some t) : Keeps a0 t := by
  unfold returnRaised at h
  repeat' split at h
  all_goals first | cases h | skip
  all_goals try cases h
  repeat' first | with_reducible assumption | with_reducible apply setTier_keeps | with_reducible apply setHeld_keeps | with_reducible apply countFrame_keeps | with_reducible apply ite_keeps | with_reducible apply ite_keeps_fst | (intro _; try beta_reduce) | split | extract_lets | (dsimp +zetaDelta only; split) | (with_reducible apply Keeps.lit <;> first | rfl | skip)

theorem backPage_keeps (hK : Keeps a0 s) (x p : Nat) (h : backPage s x p = some t) : Keeps a0 t := by
  unfold backPage at h
  repeat' split at h
  all_goals first
    | (cases h; exact hK)
    | (cases h; exact giveFrame_keeps hK _ _ _)
    | cases h
    | skip
  simp only [Option.bind_eq_some_iff] at h
  obtain ⟨u, hu, h⟩ := h
  split at h
  · cases h
    exact giveFrame_keeps (returnRaised_keeps hK _ _ hu) _ _ _
  · cases h

theorem backPages_keeps (hK : Keeps a0 s) (x : Nat) (ps : List Nat) (h : backPages s x ps = some t) : Keeps a0 t := by
  induction ps generalizing s with
  | nil => cases h; exact hK
  | cons p ps ih =>
    simp only [backPages, Option.bind_eq_some_iff] at h
    obtain ⟨u, hu, h⟩ := h
    exact ih (backPage_keeps hK x p hu) h

theorem zeroExtent_keeps (hK : Keeps a0 s) (lo len : Nat) : Keeps a0 (zeroExtent s lo len) :=
  ⟨hK.1, hK.2, hK.3, hK.4, fun w => smWf_smErase _ _ _ _ (hK.5 w), hK.6, fun w => smWf_smErase _ _ _ _ (hK.7 w), hK.8, hK.9⟩

theorem unbackPage_keeps (hK : Keeps a0 s) (p : Nat) : Keeps a0 (unbackPage s p) := by
  unfold unbackPage
  try extract_lets
  iterate 30 all_goals try first | with_reducible assumption | with_reducible apply ite_keeps | with_reducible apply zeroExtent_keeps | with_reducible apply setTier_keeps | with_reducible apply setHeld_keeps | (intro _; try beta_reduce) | split | extract_lets | (with_reducible apply Keeps.lit <;> first | rfl | skip)

theorem addTraffic_keeps (hK : Keeps a0 s) (p bytes : Nat) : Keeps a0 (addTraffic s p bytes) := by
  unfold addTraffic
  try extract_lets
  iterate 30 all_goals try first | with_reducible assumption | with_reducible apply ite_keeps | with_reducible apply setTier_keeps | (intro _; try beta_reduce) | split | extract_lets | (with_reducible apply Keeps.lit <;> first | rfl | skip)

theorem touchExtent_keeps (hK : Keeps a0 s) (lo : Nat) (len : Nat) : Keeps a0 (touchExtent s lo len) := by
  unfold touchExtent
  try extract_lets
  repeat' first | with_reducible assumption | with_reducible apply addTraffic_keeps | with_reducible apply ite_keeps | with_reducible apply ite_keeps_fst | with_reducible apply foldl_keeps | with_reducible apply foldl_keeps_fst | (intro _; try beta_reduce) | split | extract_lets | (dsimp +zetaDelta only; split)

theorem pokeByte_keeps (hK : Keeps a0 s) (x : Nat) (b : Byte) : Keeps a0 (pokeByte s x b) :=
  ⟨hK.1, hK.2, hK.3, hK.4, fun w => smWf_smSet _ _ _ _ (hK.5 w), hK.6, hK.7, hK.8, hK.9⟩

theorem pokeBytes_keeps (hK : Keeps a0 s) (x : Nat) (bs : List Byte) : Keeps a0 (pokeBytes s x bs) := by
  induction bs generalizing s x with
  | nil => exact hK
  | cons b bs ih => exact ih (pokeByte_keeps hK x b) (x + 1)

theorem setPoison_keeps (hK : Keeps a0 s) (x : Nat) (b : Bool) : Keeps a0 (setPoison s x b) :=
  ⟨hK.1, hK.2, hK.3, hK.4, hK.5, hK.6, fun w => smWf_smSet _ _ _ _ (hK.7 w), hK.8, hK.9⟩

theorem poisonExtent_keeps (hK : Keeps a0 s) (x len : Nat) : Keeps a0 (poisonExtent s x len) := by
  unfold poisonExtent
  split
  · exact hK
  · exact ⟨hK.1, hK.2, hK.3, hK.4, hK.5, hK.6, fun w => smWf_smFill _ _ _ _ _ (hK.7 w), hK.8, hK.9⟩

theorem slabWritten_keeps (hK : Keeps a0 s) (slab : Nat) : Keeps a0 (slabWritten s slab) := by
  unfold slabWritten
  try extract_lets
  repeat' first | with_reducible assumption | with_reducible apply setTier_keeps | with_reducible apply countFrame_keeps | (intro _; try beta_reduce) | split | extract_lets | (dsimp +zetaDelta only; split) | (with_reducible apply Keeps.lit <;> first | rfl | skip)

theorem hostWrites_keeps (hK : Keeps a0 s) (keep : List Host.Cell) (lines : List Nat) : Keeps a0 (hostWrites s keep lines) := by
  unfold hostWrites
  repeat' first | with_reducible assumption | with_reducible apply emit_keeps | with_reducible apply foldl_keeps | with_reducible apply foldl_keeps_fst | (intro _; try beta_reduce)

theorem storeQuiet_keeps (hK : Keeps a0 s) (cells : List Host.Cell) (bad : List Nat) : Keeps a0 (storeQuiet s cells bad).1 := by
  unfold storeQuiet
  try extract_lets
  repeat' first | with_reducible assumption | with_reducible apply pokeByte_keeps | with_reducible apply setPoison_keeps | with_reducible apply slabWritten_keeps | with_reducible apply hostWrites_keeps | with_reducible apply foldl_keeps | with_reducible apply foldl_keeps_fst | (intro _; try beta_reduce) | extract_lets

theorem storeCells_keeps (hK : Keeps a0 s) (cells : List Host.Cell) (bad : List Nat) : Keeps a0 (storeCells s cells bad).1 := by
  unfold storeCells
  try extract_lets
  repeat' first | with_reducible assumption | with_reducible apply addTraffic_keeps | with_reducible apply storeQuiet_keeps | with_reducible apply foldl_keeps | with_reducible apply foldl_keeps_fst | (intro _; try beta_reduce) | extract_lets

theorem storeBytes_keeps (hK : Keeps a0 s) (a : Nat) (bytes : List Byte) : Keeps a0 (storeBytes s a bytes) := by
  unfold storeBytes
  iterate 30 all_goals try first | with_reducible assumption | with_reducible apply storeCells_keeps | with_reducible apply ite_keeps_fst | (intro _; try beta_reduce)

theorem signal_keeps (hK : Keeps a0 s) (v : Nat) : Keeps a0 (signal s v) := by
  unfold signal
  repeat' first | with_reducible assumption | with_reducible apply emit_keeps | with_reducible apply ite_keeps | with_reducible apply ite_keeps_fst | (intro _; try beta_reduce) | split | (dsimp +zetaDelta only; split) | (with_reducible apply Keeps.lit <;> first | rfl | skip)

theorem signalDevice_keeps (hK : Keeps a0 s) : Keeps a0 (signalDevice s) := by
  unfold signalDevice
  iterate 30 all_goals try first | with_reducible assumption | with_reducible apply signal_keeps

theorem storeFor_keeps (hK : Keeps a0 s) (x a : Nat) (bytes : List Byte) : Keeps a0 (storeFor s x a bytes) := by
  unfold storeFor
  split
  · exact storeBytes_keeps (backPages_keeps hK _ _ ‹_›) _ _
  · exact hK

theorem putEvent_keeps (hK : Keeps a0 s) (x : Nat) (t : Nat) (e : Event) : Keeps a0 (putEvent s x t e) := by
  unfold putEvent
  try extract_lets
  repeat' first | with_reducible assumption | with_reducible apply setRf_keeps | with_reducible apply storeFor_keeps | with_reducible apply signal_keeps | with_reducible apply ite_keeps | with_reducible apply ite_keeps_fst | (intro _; try beta_reduce) | split | extract_lets | (dsimp +zetaDelta only; split)

theorem flushOverflow_keeps (hK : Keeps a0 s) (x : Nat) : Keeps a0 (flushOverflow s x) := by
  unfold flushOverflow
  try extract_lets
  iterate 30 all_goals try first | with_reducible assumption | with_reducible apply ite_keeps | with_reducible apply putEvent_keeps | with_reducible apply modCtx_keeps | with_reducible apply foldl_keeps | with_reducible apply foldl_keeps_fst | with_reducible apply ite_keeps_fst | (intro _; try beta_reduce) | split | extract_lets | (with_reducible apply Keeps.lit <;> first | rfl | skip)

theorem writeEventAt_keeps (hK : Keeps a0 s) (x t : Nat) (e : Event) : Keeps a0 (writeEventAt s x t e) := by
  unfold writeEventAt
  try extract_lets
  iterate 30 all_goals try first | with_reducible assumption | with_reducible apply ite_keeps | with_reducible apply flushOverflow_keeps | with_reducible apply putEvent_keeps | with_reducible apply modCtx_keeps | with_reducible apply bumpBy_keeps | (intro _; try beta_reduce) | split | extract_lets | (with_reducible apply Keeps.lit <;> first | rfl | skip)

theorem writeEvent_keeps (hK : Keeps a0 s) (x : Nat) (e : Event) : Keeps a0 (writeEvent s x e) := by
  unfold writeEvent
  iterate 30 all_goals try first | with_reducible assumption | with_reducible apply writeEventAt_keeps

theorem addReport_keeps (hK : Keeps a0 s) (agg : Nat) (e : MergeEntry) : Keeps a0 (addReport s agg e) := by
  unfold addReport
  iterate 30 all_goals try first | with_reducible assumption | (with_reducible apply Keeps.lit <;> first | rfl | skip)

theorem report_keeps (hK : Keeps a0 s) (code : Nat) (sev : Nat) (source : Nat) (cx : Option Nat) (action : Nat) (info : Nat) (cmd : Nat) : Keeps a0 (report s code sev source cx action info cmd) := by
  unfold report
  repeat' first | with_reducible assumption | with_reducible apply addReport_keeps | (intro _; try beta_reduce)

theorem tierFailed_keeps (hK : Keeps a0 s) (x : Nat) (source : Nat) (info : Nat) (who : Nat) (cmd : Nat) : Keeps a0 (tierFailed s x source info who cmd) := by
  unfold tierFailed
  repeat' first | with_reducible assumption | with_reducible apply bump_keeps | with_reducible apply addReport_keeps | (intro _; try beta_reduce)

theorem addMark_keeps (hK : Keeps a0 s) (x : Nat) (m : StepMark) : Keeps a0 (addMark s x m) := by
  unfold addMark
  repeat' first | with_reducible assumption | with_reducible apply setReg_keeps | with_reducible apply modCtx_keeps | with_reducible apply ite_keeps | with_reducible apply ite_keeps_fst | (intro _; try beta_reduce) | split | (dsimp +zetaDelta only; split) | (with_reducible apply Keeps.lit <;> first | rfl | skip)

theorem mark_keeps (hK : Keeps a0 s) (x : Nat) (bit : Nat) (tag : Nat) : Keeps a0 (mark s x bit tag) := by
  unfold mark
  repeat' first | with_reducible assumption | with_reducible apply addMark_keeps | (intro _; try beta_reduce)

theorem markInc_keeps (hK : Keeps a0 s) (x : Nat) (n : Nat) (tag : Nat) : Keeps a0 (markInc s x n tag) := by
  unfold markInc
  repeat' first | with_reducible assumption | with_reducible apply addMark_keeps | (intro _; try beta_reduce)

theorem setRemotePoisoned_keeps (hK : Keeps a0 s) (x : Nat) (b : Bool) : Keeps a0 (setRemotePoisoned s x b) := by
  unfold setRemotePoisoned
  iterate 30 all_goals try first | with_reducible assumption | with_reducible apply ite_keeps | with_reducible apply setRf_keeps | (intro _; try beta_reduce) | split

theorem clTakeNumber_keeps (hK : Keeps a0 s) (x : Nat) (d : Desc) : Keeps a0 (clTakeNumber s x d).2 := by
  unfold clTakeNumber
  try extract_lets
  iterate 30 all_goals try first | with_reducible assumption | with_reducible apply ite_keeps | (intro _; try beta_reduce) | split | extract_lets | (with_reducible apply Keeps.lit <;> first | rfl | skip)

theorem restartGroup_keeps (hK : Keeps a0 s) (g : Nat) : Keeps a0 (restartGroup s g) := by
  unfold restartGroup
  repeat' first | with_reducible assumption | (intro _; try beta_reduce) | (with_reducible apply Keeps.lit <;> first | rfl | skip)

theorem setIntakeOff_keeps (hK : Keeps a0 s) (x n : Nat) (b : Bool) : Keeps a0 (setIntakeOff s x n b) := by
  unfold setIntakeOff
  iterate 30 all_goals try first | with_reducible assumption | with_reducible apply ite_keeps | with_reducible apply setRf_keeps | (intro _; try beta_reduce) | split

theorem refreshBusy_keeps (hK : Keeps a0 s) (x n : Nat) : Keeps a0 (refreshBusy s x n) := by
  unfold refreshBusy
  iterate 30 all_goals try first | with_reducible assumption | with_reducible apply ite_keeps | with_reducible apply setRf_keeps | (intro _; try beta_reduce) | split

theorem dropOut_keeps (hK : Keeps a0 s) (ident : Nat) : Keeps a0 (dropOut s ident) := by
  unfold dropOut
  iterate 30 all_goals try first | with_reducible assumption | (intro _; try beta_reduce) | (with_reducible apply Keeps.lit <;> first | rfl | skip)

theorem putOut_keeps (hK : Keeps a0 s) (o : OutCmd) : Keeps a0 (putOut s o) := by
  unfold putOut
  iterate 30 all_goals try first | with_reducible assumption | with_reducible apply ite_keeps | (intro _; try beta_reduce) | split | (with_reducible apply Keeps.lit <;> first | rfl | skip)

theorem addOut_keeps (hK : Keeps a0 s) (o : OutCmd) : Keeps a0 (addOut s o) := by
  unfold addOut
  iterate 30 all_goals try first | with_reducible assumption | (with_reducible apply Keeps.lit <;> first | rfl | skip)

theorem noteCompletion_keeps (hK : Keeps a0 s) (x n : Nat) (irq : Bool) : Keeps a0 (noteCompletion s x n irq) := by
  unfold noteCompletion
  try extract_lets
  iterate 30 all_goals try first | with_reducible assumption | with_reducible apply ite_keeps | with_reducible apply signal_keeps | with_reducible apply modRing_keeps | (intro _; try beta_reduce) | split | extract_lets | (with_reducible apply Keeps.lit <;> first | rfl | skip)

theorem putCompletion_keeps (hK : Keeps a0 s) (o : OutCmd) (status : Nat) (detail : Nat) : Keeps a0 (putCompletion s o status detail) := by
  unfold putCompletion
  try extract_lets
  repeat' first | with_reducible assumption | with_reducible apply refreshBusy_keeps | with_reducible apply noteCompletion_keeps | with_reducible apply setRf_keeps | with_reducible apply storeFor_keeps | (intro _; try beta_reduce) | extract_lets

theorem markOutcome_keeps (hK : Keeps a0 s) (o : OutCmd) (status : Nat) : Keeps a0 (markOutcome s o status) := by
  unfold markOutcome
  try extract_lets
  repeat' first | with_reducible assumption | with_reducible apply mark_keeps | with_reducible apply markInc_keeps | with_reducible apply ite_keeps | with_reducible apply ite_keeps_fst | (intro _; try beta_reduce) | split | extract_lets | (dsimp +zetaDelta only; split)

theorem markUnread_keeps (hK : Keeps a0 s) (c : OutCmd) : Keeps a0 (markUnread s c) := by
  unfold markUnread
  try extract_lets
  repeat' first | with_reducible assumption | with_reducible apply mark_keeps | with_reducible apply markInc_keeps | (intro _; try beta_reduce) | split | extract_lets | (dsimp +zetaDelta only; split)

theorem missNow_keeps (hK : Keeps a0 s) (o : OutCmd) (slabs : Nat) : Keeps a0 (missNow s o slabs).1 := by
  unfold missNow
  try extract_lets
  iterate 30 all_goals try first | with_reducible assumption | with_reducible apply ite_keeps | with_reducible apply writeEvent_keeps | with_reducible apply bump_keeps | with_reducible apply putOut_keeps | (intro _; try beta_reduce) | split | extract_lets | (with_reducible apply Keeps.lit <;> first | rfl | skip)

theorem releaseVector_keeps (hK : Keeps a0 s) (v : Nat) : Keeps a0 (releaseVector s v) := by
  unfold releaseVector
  repeat' first | with_reducible assumption | with_reducible apply emit_keeps | with_reducible apply ite_keeps | with_reducible apply ite_keeps_fst | (intro _; try beta_reduce) | split | (dsimp +zetaDelta only; split) | (with_reducible apply Keeps.lit <;> first | rfl | skip)

end Sys2Proof.Laws
end

