-- ==== Sys2Proof/Laws/KeepsData.lean ====
section
/-! SUPPORT. Links, ember objects, MOVE, MMA and VEC keep what Keeps says. -/

namespace Sys2Proof.Laws

open Sys2Proof.Machine

set_option linter.unusedTactic false
set_option linter.unreachableTactic false
set_option linter.unusedVariables false

variable {a0 s t : State}

theorem setConn_keeps (hK : Keeps a0 s) (sub pkg : Nat) (c : Conn) : Keeps a0 (setConn s sub pkg c) := by
  unfold setConn
  iterate 30 all_goals try first | with_reducible assumption | (with_reducible apply Keeps.lit <;> first | rfl | skip)

theorem transmit_keeps (hK : Keeps a0 s) (sub : Nat) (pkg : Nat) (f : Sent) : Keeps a0 (transmit s sub pkg f) := by
  unfold transmit
  try extract_lets
  repeat' first | with_reducible assumption | with_reducible apply emit_keeps | (intro _; try beta_reduce) | extract_lets

theorem pumpFrames_keeps (fs : List Sent) (hK : Keeps a0 s) (sub pkg : Nat) (blocked : List Nat) :
    Keeps a0 (pumpFrames s sub pkg blocked fs) := by
  induction fs generalizing s blocked with
  | nil => exact hK
  | cons f fs ih =>
    unfold pumpFrames
    extract_lets
    split
    · exact ih (transmit_keeps (setConn_keeps hK _ _ _) _ _ _) _
    · exact ih hK _

theorem pumpConn_keeps (hK : Keeps a0 s) (sub pkg : Nat) : Keeps a0 (pumpConn s sub pkg) := pumpFrames_keeps _ hK _ _ _

theorem sendFrame_keeps (hK : Keeps a0 s) (sub : Nat) (pkg : Nat) (vc : Nat) (typ : Nat) (addr : Nat) (cx : Nat) (tag : Nat) (poison : Nat) (payload : List Byte) : Keeps a0 (sendFrame s sub pkg vc typ addr cx tag poison payload) := by
  unfold sendFrame
  try extract_lets
  repeat' first | with_reducible assumption | with_reducible apply setConn_keeps | with_reducible apply pumpConn_keeps | (intro _; try beta_reduce) | extract_lets | (with_reducible apply Keeps.lit <;> first | rfl | skip)

theorem sendMessage_keeps (hK : Keeps a0 s) (pkg : Nat) (vc : Nat) (typ : Nat) (cx : Nat) (tag : Nat) (poison : Nat) (payload : List Byte) : Keeps a0 (sendMessage s pkg vc typ cx tag poison payload) := by
  unfold sendMessage
  repeat' first | with_reducible assumption | with_reducible apply sendFrame_keeps | (intro _; try beta_reduce) | split | (dsimp +zetaDelta only; split)

theorem tellMembers_keeps (hK : Keeps a0 s) (o : OutCmd) (payload : List Byte) : Keeps a0 (tellMembers s o payload) := by
  unfold tellMembers
  repeat' first | with_reducible assumption | with_reducible apply sendMessage_keeps | with_reducible apply foldl_keeps | with_reducible apply foldl_keeps_fst | (intro _; try beta_reduce)

theorem clAbandon_keeps (hK : Keeps a0 s) (o : OutCmd) : Keeps a0 (clAbandon s o) := by
  unfold clAbandon
  repeat' first | with_reducible assumption | with_reducible apply tellMembers_keeps | with_reducible apply ite_keeps | with_reducible apply ite_keeps_fst | (intro _; try beta_reduce) | split | (dsimp +zetaDelta only; split)

theorem abandonProgram_keeps (hK : Keeps a0 s) (c : OutCmd) : Keeps a0 (abandonProgram s c) := by
  unfold abandonProgram
  try extract_lets
  iterate 30 all_goals try first | with_reducible assumption | with_reducible apply markOutcome_keeps | with_reducible apply clAbandon_keeps | with_reducible apply dropOut_keeps | with_reducible apply markUnread_keeps | with_reducible apply foldl_keeps | with_reducible apply foldl_keeps_fst | (intro _; try beta_reduce) | extract_lets

theorem callRecord_keeps (hK : Keeps a0 s) (c : OutCmd) (index status : Nat) : Keeps a0 (callRecord s c index status) := by
  unfold callRecord
  try extract_lets
  iterate 30 all_goals try first | with_reducible assumption | with_reducible apply ite_keeps | with_reducible apply abandonProgram_keeps | with_reducible apply putOut_keeps | with_reducible apply foldl_keeps | with_reducible apply foldl_keeps_fst | (intro _; try beta_reduce) | split | extract_lets | (dsimp +zetaDelta only; split) | (with_reducible apply Keeps.lit <;> first | rfl | skip)

theorem endUpward_keeps (k : Nat) (hK : Keeps a0 s) (o : OutCmd) (status detail : Nat) :
    Keeps a0 (endUpward k s o status detail) := by
  induction k generalizing s o status detail with
  | zero => exact hK
  | succ k ih =>
    unfold endUpward
    extract_lets
    repeat' first | with_reducible assumption | with_reducible apply ih | with_reducible apply putCompletion_keeps | with_reducible apply callRecord_keeps | with_reducible apply markOutcome_keeps | with_reducible apply dropOut_keeps | split | extract_lets

theorem complete_keeps (hK : Keeps a0 s) (o : OutCmd) (status detail : Nat) : Keeps a0 (complete s o status detail) := by
  unfold complete
  iterate 30 all_goals try first | with_reducible assumption | with_reducible apply endUpward_keeps

theorem countStats_keeps (hK : Keeps a0 s) (x : Nat) (t : Tensor) (eval : Bool) (st : Stats) : Keeps a0 (countStats s x t eval st) := by
  unfold countStats
  try extract_lets
  repeat' first | with_reducible assumption | with_reducible apply modCtx_keeps | with_reducible apply storeBytes_keeps | with_reducible apply ite_keeps | with_reducible apply ite_keeps_fst | (intro _; try beta_reduce) | split | extract_lets | (dsimp +zetaDelta only; split) | (with_reducible apply Keeps.lit <;> first | rfl | skip)

theorem landMarks_keeps (hK : Keeps a0 s) (x : Nat) (tag : Nat) (eval : Bool) (o : Out) : Keeps a0 (landMarks s x tag eval o) := by
  unfold landMarks
  try extract_lets
  repeat' first | with_reducible assumption | with_reducible apply mark_keeps | with_reducible apply ite_keeps | with_reducible apply ite_keeps_fst | (intro _; try beta_reduce) | split | extract_lets | (dsimp +zetaDelta only; split)

theorem landOut_keeps (hK : Keeps a0 s) (x : Nat) (tag : Nat) (eval : Bool) (o : Out) : Keeps a0 (landOut s x tag eval o).1 := by
  unfold landOut
  try extract_lets
  repeat' first | with_reducible assumption | with_reducible apply storeCells_keeps | with_reducible apply landMarks_keeps | (intro _; try beta_reduce) | extract_lets

theorem landTensor_keeps (hK : Keeps a0 s) (x : Nat) (tag : Nat) (eval : Bool) (t : Tensor) (o : Out) : Keeps a0 (landTensor s x tag eval t o).1 := by
  unfold landTensor
  try extract_lets
  repeat' first | with_reducible assumption | with_reducible apply countStats_keeps | with_reducible apply landOut_keeps | (intro _; try beta_reduce) | extract_lets

theorem backPlan_keeps (hK : Keeps a0 s) (x : Nat) (p : Plan) : Keeps a0 (backPlan s x p) :=
  getD_keeps _ hK fun _ h => backPages_keeps hK x _ h

theorem hostReads_keeps (hK : Keeps a0 s) (a : Nat) (len : Nat) : Keeps a0 (hostReads s a len) := by
  unfold hostReads
  try extract_lets
  repeat' first | with_reducible assumption | with_reducible apply emit_keeps | with_reducible apply foldl_keeps | with_reducible apply foldl_keeps_fst | (intro _; try beta_reduce) | extract_lets

theorem touchRun_keeps (hK : Keeps a0 s) (p : Nat × Nat) : Keeps a0 (touchRun s p) := by
  unfold touchRun
  try extract_lets
  repeat' first | with_reducible assumption | with_reducible apply hostReads_keeps | with_reducible apply touchExtent_keeps | with_reducible apply ite_keeps | with_reducible apply ite_keeps_fst | (intro _; try beta_reduce) | split | extract_lets | (dsimp +zetaDelta only; split)

theorem touchReads_keeps (hK : Keeps a0 s) (p : Plan) : Keeps a0 (touchReads s p) := by
  unfold touchReads
  repeat' first | with_reducible assumption | with_reducible apply touchRun_keeps | with_reducible apply foldl_keeps | with_reducible apply foldl_keeps_fst | (intro _; try beta_reduce)

theorem postWrite_keeps (hK : Keeps a0 s) (x : Nat) (tag : Nat) (a : Nat) (bytes : List Byte) (poison : Bool) : Keeps a0 (postWrite s x tag a bytes poison) := by
  unfold postWrite
  try extract_lets
  repeat' first | with_reducible assumption | with_reducible apply sendFrame_keeps | with_reducible apply modCtx_keeps | with_reducible apply ite_keeps | with_reducible apply ite_keeps_fst | (intro _; try beta_reduce) | split | extract_lets | (dsimp +zetaDelta only; split) | (with_reducible apply Keeps.lit <;> first | rfl | skip)

theorem sendRead_keeps (hK : Keeps a0 s) (x ident a : Nat) : Keeps a0 (sendRead s x ident a) := by
  unfold sendRead
  try extract_lets
  iterate 30 all_goals try first | with_reducible assumption | with_reducible apply modCtx_keeps | with_reducible apply sendFrame_keeps | (intro _; try beta_reduce) | split | extract_lets | (dsimp +zetaDelta only; split) | (with_reducible apply Keeps.lit <;> first | rfl | skip)

theorem storeOut_keeps (hK : Keeps a0 s) (x : Nat) (tag : Nat) (cells : List Host.Cell) (bad : List Nat) : Keeps a0 (storeOut s x tag cells bad).1 := by
  unfold storeOut
  try extract_lets
  repeat' first | with_reducible assumption | with_reducible apply postWrite_keeps | with_reducible apply storeCells_keeps | with_reducible apply foldl_keeps | with_reducible apply foldl_keeps_fst | (intro _; try beta_reduce) | extract_lets

theorem postedFailed_keeps (hK : Keeps a0 s) (x : Nat) (p : Posted) (cause : Nat) : Keeps a0 (postedFailed s x p cause) := by
  unfold postedFailed
  try extract_lets
  iterate 30 all_goals try first | with_reducible assumption | with_reducible apply writeEvent_keeps | with_reducible apply setRemotePoisoned_keeps | extract_lets

theorem modEmber_keeps (hK : Keeps a0 s) (x a : Nat) (f : EmberObj → EmberObj) : Keeps a0 (modEmber s x a f) := by
  unfold modEmber
  iterate 30 all_goals try first | with_reducible assumption | with_reducible apply ite_keeps | with_reducible apply modCtx_keeps | (intro _; try beta_reduce) | split | (with_reducible apply Keeps.lit <;> first | rfl | skip)

theorem emberPages_keeps (hK : Keeps a0 s) (o : EmberObj) (st : Nat) : Keeps a0 (emberPages s o st) := by
  unfold emberPages
  try extract_lets
  iterate 30 all_goals try first | with_reducible assumption | with_reducible apply ite_keeps | with_reducible apply setTier_keeps | with_reducible apply foldl_keeps | with_reducible apply foldl_keeps_fst | (intro _; try beta_reduce) | split | extract_lets | (with_reducible apply Keeps.lit <;> first | rfl | skip)

theorem emberBack_keeps (hK : Keeps a0 s) (o : EmberObj) : Keeps a0 (emberBack s o) := by
  unfold emberBack
  try extract_lets
  repeat' first | with_reducible assumption | with_reducible apply touchExtent_keeps | with_reducible apply slabWritten_keeps | with_reducible apply foldl_keeps | with_reducible apply foldl_keeps_fst | (intro _; try beta_reduce) | extract_lets

theorem emberOut_keeps (hK : Keeps a0 s) (x : Nat) (o : EmberObj) : Keeps a0 (emberOut s x o) := by
  unfold emberOut
  try extract_lets
  repeat' first | with_reducible assumption | with_reducible apply modEmber_keeps | with_reducible apply emberPages_keeps | with_reducible apply emberBack_keeps | with_reducible apply ite_keeps | with_reducible apply ite_keeps_fst | (intro _; try beta_reduce) | split | extract_lets | (dsimp +zetaDelta only; split) | (with_reducible apply Keeps.lit <;> first | rfl | skip)

theorem emberIn_keeps (hK : Keeps a0 s) (x : Nat) (o : EmberObj) : Keeps a0 (emberIn s x o) := by
  unfold emberIn
  try extract_lets
  repeat' first | with_reducible assumption | with_reducible apply modEmber_keeps | with_reducible apply emberPages_keeps | with_reducible apply touchExtent_keeps | (intro _; try beta_reduce) | extract_lets | (with_reducible apply Keeps.lit <;> first | rfl | skip)

theorem evictFor_keeps (os : List EmberObj) (hK : Keeps a0 s) (x r need : Nat) : Keeps a0 (evictFor s x r need os) := by
  induction os generalizing s with
  | nil => exact hK
  | cons o os ih =>
    unfold evictFor
    split
    · exact hK
    · exact ih (emberOut_keeps hK _ _)

theorem emberBegin_keeps (hK : Keeps a0 s) (x : Nat) (r : Nat) (running : EmberObj → Bool) (rank : EmberObj → Option Nat) (o : EmberObj) : Keeps a0 (emberBegin s x r running rank o) := by
  unfold emberBegin
  try extract_lets
  repeat' first | with_reducible assumption | with_reducible apply modEmber_keeps | with_reducible apply evictFor_keeps | with_reducible apply ite_keeps | with_reducible apply ite_keeps_fst | (intro _; try beta_reduce) | split | extract_lets | (dsimp +zetaDelta only; split) | (with_reducible apply Keeps.lit <;> first | rfl | skip)

theorem emberUse_keeps (hK : Keeps a0 s) (es : List Ext) : Keeps a0 (emberUse s es) := by
  unfold emberUse
  repeat' first | with_reducible assumption | (intro _; try beta_reduce) | (with_reducible apply Keeps.lit <;> first | rfl | skip)

theorem moveUnits_keeps (hK : Keeps a0 s) (o : OutCmd) (w : Nat) (cells : List (Nat × Nat) → List Host.Cell × List Nat) (pairs : List (Nat × Nat)) (lo : Nat) (hi : Nat) : Keeps a0 (moveUnits s o w cells pairs lo hi).1 := by
  unfold moveUnits
  try extract_lets
  repeat' first | with_reducible assumption | with_reducible apply storeOut_keeps | (intro _; try beta_reduce) | split | extract_lets | (dsimp +zetaDelta only; split) | (with_reducible apply Keeps.lit <;> first | rfl | skip)

theorem moveOn_keeps (hK : Keeps a0 s) (o : OutCmd) (w : Nat) (cells : List (Nat × Nat) → List Host.Cell × List Nat) (pairs : List (Nat × Nat)) (slabs : Nat) : Keeps a0 (moveOn s o w cells pairs slabs) := by
  unfold moveOn
  try extract_lets
  repeat' first | with_reducible assumption | with_reducible apply putOut_keeps | with_reducible apply complete_keeps | with_reducible apply mark_keeps | with_reducible apply moveUnits_keeps | with_reducible apply ite_keeps | with_reducible apply ite_keeps_fst | (intro _; try beta_reduce) | split | extract_lets | (dsimp +zetaDelta only; split) | (with_reducible apply Keeps.lit <;> first | rfl | skip)

theorem copyNow_keeps (hK : Keeps a0 s) (o : OutCmd) : Keeps a0 (copyNow s o) := by
  unfold copyNow
  repeat' first | with_reducible assumption | with_reducible apply complete_keeps | with_reducible apply moveOn_keeps | (intro _; try beta_reduce) | split | (dsimp +zetaDelta only; split)

theorem runCopy_keeps (hK : Keeps a0 s) (o : OutCmd) : Keeps a0 (runCopy s o) := by
  unfold runCopy
  try extract_lets
  iterate 30 all_goals try first | with_reducible assumption | with_reducible apply ite_keeps | with_reducible apply copyNow_keeps | with_reducible apply sendRead_keeps | with_reducible apply putOut_keeps | with_reducible apply foldl_keeps | with_reducible apply foldl_keeps_fst | (intro _; try beta_reduce) | split | extract_lets | (dsimp +zetaDelta only; split) | (with_reducible apply Keeps.lit <;> first | rfl | skip)

theorem runZero_keeps (hK : Keeps a0 s) (o : OutCmd) : Keeps a0 (runZero s o) := by
  unfold runZero
  try extract_lets
  repeat' first | with_reducible assumption | with_reducible apply complete_keeps | with_reducible apply moveOn_keeps | (intro _; try beta_reduce) | split | extract_lets | (dsimp +zetaDelta only; split)

theorem runPin_keeps (hK : Keeps a0 s) (o : OutCmd) : Keeps a0 (runPin s o) := by
  unfold runPin
  iterate 30 all_goals try first | with_reducible assumption | with_reducible apply complete_keeps | with_reducible apply setTier_keeps | with_reducible apply foldl_keeps | with_reducible apply foldl_keeps_fst | (intro _; try beta_reduce) | (with_reducible apply Keeps.lit <;> first | rfl | skip)

theorem runUnpin_keeps (hK : Keeps a0 s) (o : OutCmd) : Keeps a0 (runUnpin s o) := by
  unfold runUnpin
  try extract_lets
  iterate 30 all_goals try first | with_reducible assumption | with_reducible apply ite_keeps | with_reducible apply complete_keeps | with_reducible apply setTier_keeps | with_reducible apply foldl_keeps | with_reducible apply foldl_keeps_fst | (intro _; try beta_reduce) | split | extract_lets | (with_reducible apply Keeps.lit <;> first | rfl | skip)

theorem runPlanes_keeps (hK : Keeps a0 s) (o : OutCmd) : Keeps a0 (runPlanes s o) := by
  unfold runPlanes
  try extract_lets
  iterate 30 all_goals try first | with_reducible assumption | with_reducible apply ite_keeps | with_reducible apply complete_keeps | with_reducible apply setTier_keeps | with_reducible apply foldl_keeps | with_reducible apply foldl_keeps_fst | (intro _; try beta_reduce) | split | extract_lets | (with_reducible apply Keeps.lit <;> first | rfl | skip)

theorem runMoveRelease_keeps (hK : Keeps a0 s) (o : OutCmd) : Keeps a0 (runMoveRelease s o) := by
  unfold runMoveRelease
  try extract_lets
  iterate 30 all_goals try first | with_reducible assumption | with_reducible apply ite_keeps | with_reducible apply complete_keeps | with_reducible apply setTier_keeps | with_reducible apply unbackPage_keeps | with_reducible apply foldl_keeps | with_reducible apply foldl_keeps_fst | (intro _; try beta_reduce) | split | extract_lets | (with_reducible apply Keeps.lit <;> first | rfl | skip)

theorem refreshArrStat_keeps (hK : Keeps a0 s) : Keeps a0 (refreshArrStat s) := by
  unfold refreshArrStat
  iterate 30 all_goals try first | with_reducible assumption | with_reducible apply setRf_keeps | (intro _; try beta_reduce)

theorem setClu_keeps (hK : Keeps a0 s) (c : Nat) (spare inService : Bool) (r k : Nat) : Keeps a0 (setClu s c spare inService r k) := by
  unfold setClu
  iterate 30 all_goals try first | with_reducible assumption | with_reducible apply ite_keeps | with_reducible apply setRf_keeps | (intro _; try beta_reduce) | split

theorem buildRegion_keeps (hK : Keeps a0 s) (p : Nat) (number : Option Nat) (spare : Bool) : Keeps a0 (buildRegion s p number spare) := by
  unfold buildRegion
  try extract_lets
  iterate 30 all_goals try first | with_reducible assumption | with_reducible apply ite_keeps | with_reducible apply setRf_keeps | with_reducible apply setClu_keeps | with_reducible apply setReg_keeps | with_reducible apply foldl_keeps | with_reducible apply foldl_keeps_fst | (intro _; try beta_reduce) | split | extract_lets | (dsimp +zetaDelta only; split) | (with_reducible apply Keeps.lit <;> first | rfl | skip)

theorem buildDie_keeps (hK : Keeps a0 s) (d : Nat) : Keeps a0 (buildDie s d) := by
  unfold buildDie
  try extract_lets
  iterate 30 all_goals try first | with_reducible assumption | with_reducible apply ite_keeps | with_reducible apply buildRegion_keeps | with_reducible apply setRf_keeps | with_reducible apply report_keeps | with_reducible apply refreshArrStat_keeps | with_reducible apply foldl_keeps | with_reducible apply foldl_keeps_fst | (intro _; try beta_reduce) | split | extract_lets | (dsimp +zetaDelta only; split) | (with_reducible apply Keeps.lit <;> first | rfl | skip)

theorem reportUnit_keeps (hK : Keeps a0 s) (code sev source action info : Nat) (about : Concerned) :
    Keeps a0 (reportUnit s code sev source action info about) := by
  unfold reportUnit
  repeat' first | with_reducible assumption | with_reducible apply ite_keeps | with_reducible apply report_keeps | with_reducible apply foldl_keeps | (intro _; try beta_reduce)

theorem retireRegion_keeps (hK : Keeps a0 s) (p r : Nat) (about : Concerned) : Keeps a0 (retireRegion s p r about) := by
  unfold retireRegion
  try extract_lets
  iterate 30 all_goals try first | with_reducible assumption | with_reducible apply setRf_keeps | with_reducible apply reportUnit_keeps | with_reducible apply refreshArrStat_keeps | with_reducible apply foldl_keeps | with_reducible apply foldl_keeps_fst | (intro _; try beta_reduce) | extract_lets

theorem failRegion_keeps (hK : Keeps a0 s) (p : Nat) (about : Concerned) : Keeps a0 (failRegion s p about) := by
  unfold failRegion
  try extract_lets
  iterate 30 all_goals try first | with_reducible assumption | with_reducible apply ite_keeps | with_reducible apply setRf_keeps | with_reducible apply reportUnit_keeps | with_reducible apply retireRegion_keeps | (intro _; try beta_reduce) | split | extract_lets | (dsimp +zetaDelta only; split) | (with_reducible apply Keeps.lit <;> first | rfl | skip)

theorem failCluster_keeps (hK : Keeps a0 s) (c : Nat) (about : Concerned) : Keeps a0 (failCluster s c about) := by
  unfold failCluster
  try extract_lets
  iterate 30 all_goals try first | with_reducible assumption | with_reducible apply ite_keeps | with_reducible apply setRf_keeps | with_reducible apply reportUnit_keeps | with_reducible apply failRegion_keeps | (intro _; try beta_reduce) | split | extract_lets

theorem freeExtent_keeps (hK : Keeps a0 s) (x len : Nat) : Keeps a0 (freeExtent s x len) :=
  ⟨hK.1, hK.2, hK.3, hK.4, fun w => smWf_smFill _ _ _ _ _ (hK.5 w), hK.6, hK.7, hK.8, hK.9⟩

theorem loseExtent_keeps (hK : Keeps a0 s) (a len : Nat) : Keeps a0 (loseExtent s a len) := by
  unfold loseExtent
  iterate 30 all_goals try first | with_reducible assumption | with_reducible apply poisonExtent_keeps | with_reducible apply freeExtent_keeps

theorem setArr_keeps (hK : Keeps a0 s) (p : Nat) (a : ArrSt) : Keeps a0 (setArr s p a) := by
  unfold setArr
  iterate 30 all_goals try first | with_reducible assumption | (with_reducible apply Keeps.lit <;> first | rfl | skip)

theorem arrWork_keeps (hK : Keeps a0 s) (p : Nat) : Keeps a0 (arrWork s p) := by
  unfold arrWork
  try extract_lets
  repeat' first | with_reducible assumption | with_reducible apply setArr_keeps | with_reducible apply setRf_keeps | with_reducible apply ite_keeps | with_reducible apply ite_keeps_fst | (intro _; try beta_reduce) | split | extract_lets | (dsimp +zetaDelta only; split) | (with_reducible apply Keeps.lit <;> first | rfl | skip)

theorem setBanks_keeps (hK : Keeps a0 s) (p : Nat) (b : Option Bank) : Keeps a0 (setBanks s p b) := by
  unfold setBanks
  repeat' first | with_reducible assumption | with_reducible apply setArr_keeps | (intro _; try beta_reduce) | (with_reducible apply Keeps.lit <;> first | rfl | skip)

theorem arrAfter_keeps (hK : Keeps a0 s) (s0 : State) (x : Nat) (d : Desc) (m : MmaDims) (mb : Member) (last : Option Pass) : Keeps a0 (arrAfter s0 s x d m mb last) := by
  unfold arrAfter
  repeat' first | with_reducible assumption | with_reducible apply arrWork_keeps | with_reducible apply setBanks_keeps | (intro _; try beta_reduce) | split | (dsimp +zetaDelta only; split)

theorem arrTouch_keeps (hK : Keeps a0 s) (p : Nat) : Keeps a0 (arrTouch s p) := by
  unfold arrTouch
  repeat' first | with_reducible assumption | with_reducible apply arrWork_keeps | with_reducible apply setBanks_keeps | (intro _; try beta_reduce)

theorem kindlePair_keeps (hK : Keeps a0 s) (c : Nat) : Keeps a0 (kindlePair s c) := by
  unfold kindlePair
  repeat' first | with_reducible assumption | with_reducible apply setArr_keeps | (intro _; try beta_reduce) | (with_reducible apply Keeps.lit <;> first | rfl | skip)

theorem kindleFails_keeps (hK : Keeps a0 s) (c : Nat) (cx : Option Nat) (cmd : Nat) : Keeps a0 (kindleFails s c cx cmd).1 := by
  unfold kindleFails
  try extract_lets
  repeat' first | with_reducible assumption | with_reducible apply kindlePair_keeps | with_reducible apply setArr_keeps | with_reducible apply bumpBy_keeps | with_reducible apply report_keeps | with_reducible apply failCluster_keeps | with_reducible apply ite_keeps | with_reducible apply ite_keeps_fst | (intro _; try beta_reduce) | split | extract_lets | (dsimp +zetaDelta only; split) | (with_reducible apply Keeps.lit <;> first | rfl | skip)

theorem landMembers_keeps (hK : Keeps a0 s) (x : Nat) (d : Desc) (m : MmaDims) (feed : Nat → Feed) : Keeps a0 (landMembers s x d m feed).1 := by
  unfold landMembers
  try extract_lets
  repeat' first | with_reducible assumption | with_reducible apply landOut_keeps | with_reducible apply landTensor_keeps | with_reducible apply ite_keeps | with_reducible apply ite_keeps_fst | with_reducible apply foldl_keeps | with_reducible apply foldl_keeps_fst | (intro _; try beta_reduce) | split | extract_lets | (dsimp +zetaDelta only; split)

theorem countRetry_keeps (hK : Keeps a0 s) (c : Nat) : Keeps a0 (countRetry s c) := by
  unfold countRetry
  repeat' first | with_reducible assumption | with_reducible apply bumpBy_keeps | with_reducible apply bump_keeps | (intro _; try beta_reduce)

theorem reportRetry_keeps (hK : Keeps a0 s) (x : Nat) (c : Nat) (code : Nat) (tag : Nat) : Keeps a0 (reportRetry s x c code tag) := by
  unfold reportRetry
  repeat' first | with_reducible assumption | with_reducible apply report_keeps | (intro _; try beta_reduce)

theorem clearKindles_keeps (hK : Keeps a0 s) (c : Nat) : Keeps a0 (clearKindles s c) := by
  unfold clearKindles
  repeat' first | with_reducible assumption | with_reducible apply setArr_keeps | (intro _; try beta_reduce) | (with_reducible apply Keeps.lit <;> first | rfl | skip)

theorem kindleBefore_keeps (hK : Keeps a0 s) (x : Nat) (cmd : Nat) (i : Nat) (ev : List ArrEvent) : Keeps a0 (kindleBefore s x cmd i ev).1 := by
  unfold kindleBefore
  repeat' first | with_reducible assumption | with_reducible apply kindleFails_keeps | with_reducible apply ite_keeps | with_reducible apply ite_keeps_fst | with_reducible apply foldl_keeps | with_reducible apply foldl_keeps_fst | (intro _; try beta_reduce) | split | (dsimp +zetaDelta only; split)

theorem checkPass_keeps (s0 : State) (x : Nat) (d : Desc) (m : MmaDims) (cmd : Nat) (ev : List ArrEvent) (ps : List Pass) (r : State × Checked) (i : Nat) (hK : Keeps a0 r.1) : Keeps a0 (checkPass s0 x d m cmd ev ps r i).1 := by
  unfold checkPass
  try extract_lets
  repeat' first | with_reducible assumption | with_reducible apply countRetry_keeps | with_reducible apply reportRetry_keeps | with_reducible apply clearKindles_keeps | with_reducible apply kindleBefore_keeps | with_reducible apply failCluster_keeps | with_reducible apply ite_keeps | with_reducible apply ite_keeps_fst | with_reducible apply foldl_keeps | with_reducible apply foldl_keeps_fst | (intro _; try beta_reduce) | split | extract_lets | (dsimp +zetaDelta only; split) | (with_reducible apply Keeps.lit <;> first | rfl | skip)

theorem checkPasses_keeps (hK : Keeps a0 s) (x : Nat) (d : Desc) (m : MmaDims) (cmd : Nat) (ev : List ArrEvent) : Keeps a0 (checkPasses s x d m cmd ev).1 := by
  unfold checkPasses
  try extract_lets
  repeat' first | with_reducible assumption | with_reducible apply checkPass_keeps | with_reducible apply foldl_keeps | with_reducible apply foldl_keeps_fst | (intro _; try beta_reduce) | extract_lets

theorem runMma_keeps (hK : Keeps a0 s) (o : OutCmd) : Keeps a0 (runMma s o) := by
  unfold runMma
  try extract_lets
  repeat' first | with_reducible assumption | with_reducible apply arrAfter_keeps | with_reducible apply checkPasses_keeps | with_reducible apply landMembers_keeps | with_reducible apply complete_keeps | with_reducible apply freeExtent_keeps | with_reducible apply ite_keeps | with_reducible apply ite_keeps_fst | with_reducible apply foldl_keeps | with_reducible apply foldl_keeps_fst | (intro _; try beta_reduce) | split | extract_lets | (dsimp +zetaDelta only; split) | (with_reducible apply Keeps.lit <;> first | rfl | skip)

theorem runVec_keeps (hK : Keeps a0 s) (op : RingOp) (o : OutCmd) : Keeps a0 (runVec op s o) := by
  unfold runVec
  try extract_lets
  repeat' first | with_reducible assumption | with_reducible apply complete_keeps | with_reducible apply landOut_keeps | with_reducible apply landTensor_keeps | with_reducible apply ite_keeps | with_reducible apply ite_keeps_fst | (intro _; try beta_reduce) | split | extract_lets | (dsimp +zetaDelta only; split)

theorem runNormBwd_keeps (hK : Keeps a0 s) (ln : Bool) (o : OutCmd) : Keeps a0 (runNormBwd ln s o) := by
  unfold runNormBwd
  try extract_lets
  repeat' first | with_reducible assumption | with_reducible apply complete_keeps | with_reducible apply landOut_keeps | with_reducible apply landTensor_keeps | with_reducible apply ite_keeps | with_reducible apply ite_keeps_fst | (intro _; try beta_reduce) | split | extract_lets | (dsimp +zetaDelta only; split)

theorem runTopk_keeps (hK : Keeps a0 s) (o : OutCmd) : Keeps a0 (runTopk s o) := by
  unfold runTopk
  try extract_lets
  iterate 30 all_goals try first | with_reducible assumption | with_reducible apply ite_keeps | with_reducible apply complete_keeps | with_reducible apply landOut_keeps | with_reducible apply ite_keeps_fst | (intro _; try beta_reduce) | split | extract_lets | (with_reducible apply Keeps.lit <;> first | rfl | skip)

theorem runDistillStats_keeps (hK : Keeps a0 s) (o : OutCmd) : Keeps a0 (runDistillStats s o) := by
  unfold runDistillStats
  try extract_lets
  iterate 30 all_goals try first | with_reducible assumption | with_reducible apply ite_keeps | with_reducible apply complete_keeps | with_reducible apply landOut_keeps | with_reducible apply ite_keeps_fst | (intro _; try beta_reduce) | split | extract_lets | (with_reducible apply Keeps.lit <;> first | rfl | skip)

theorem runDistillGrad_keeps (hK : Keeps a0 s) (o : OutCmd) : Keeps a0 (runDistillGrad s o) := by
  unfold runDistillGrad
  try extract_lets
  repeat' first | with_reducible assumption | with_reducible apply complete_keeps | with_reducible apply landOut_keeps | with_reducible apply landTensor_keeps | with_reducible apply ite_keeps | with_reducible apply ite_keeps_fst | (intro _; try beta_reduce) | split | extract_lets | (dsimp +zetaDelta only; split)

theorem runDistill_keeps (hK : Keeps a0 s) (o : OutCmd) : Keeps a0 (runDistill s o) := by
  unfold runDistill
  iterate 30 all_goals try first | with_reducible assumption | with_reducible apply ite_keeps | with_reducible apply runDistillGrad_keeps | with_reducible apply runDistillStats_keeps | (intro _; try beta_reduce) | split

theorem wantEmber_keeps (hK : Keeps a0 s) (x : Nat) (a : Nat) (r : Nat) : Keeps a0 (wantEmber s x a r) := by
  unfold wantEmber
  repeat' first | with_reducible assumption | with_reducible apply modCtx_keeps | (intro _; try beta_reduce) | (with_reducible apply Keeps.lit <;> first | rfl | skip)

theorem sendControl_keeps (hK : Keeps a0 s) (sub : Nat) (pkg : Nat) (typ : Nat) (payload : List Byte) : Keeps a0 (sendControl s sub pkg typ payload) := by
  unfold sendControl
  repeat' first | with_reducible assumption | with_reducible apply transmit_keeps | (intro _; try beta_reduce)

end Sys2Proof.Laws
end

