-- ==== Sys2Proof/Laws/KeepsModel.lean ====
section
/-! SUPPORT. Adapters, optimizers, caches, ATTN, scripts, admission and COLL keep what Keeps says. -/

namespace Sys2Proof.Laws

open Sys2Proof.Machine

set_option linter.unusedTactic false
set_option linter.unreachableTactic false
set_option linter.unusedVariables false

variable {a0 s t : State}

theorem buildPass_keeps (hK : Keeps a0 s) (x : Nat) (id : Nat) (l : List Attach) (master : Nat) (pass : Nat) : Keeps a0 (buildPass s x id l master pass).1 := by
  unfold buildPass
  try extract_lets
  repeat' first | with_reducible assumption | with_reducible apply storeCells_keeps | with_reducible apply countStats_keeps | with_reducible apply foldl_keeps | with_reducible apply foldl_keeps_fst | (intro _; try beta_reduce) | extract_lets

theorem setAdp_keeps (hK : Keeps a0 s) (k : Nat) (a : Adapter) : Keeps a0 (setAdp s k a) := by
  unfold setAdp
  iterate 30 all_goals try first | with_reducible assumption | (with_reducible apply Keeps.lit <;> first | rfl | skip)

theorem setAdpKey_keeps (hK : Keeps a0 s) (k : Nat) (v : Option AdpKey) : Keeps a0 (setAdpKey s k v) := by
  unfold setAdpKey
  iterate 30 all_goals try first | with_reducible assumption | (with_reducible apply Keeps.lit <;> first | rfl | skip)

theorem ownKey_keeps (hK : Keeps a0 s) (x k : Nat) : Keeps a0 (ownKey s x k) := by
  unfold ownKey
  iterate 30 all_goals try first | with_reducible assumption | with_reducible apply setAdpKey_keeps | split | (with_reducible apply Keeps.lit <;> first | rfl | skip)

theorem finishRequest_keeps (hK : Keeps a0 s) (x : Nat) (q : AdpReq) (status version : Nat) : Keeps a0 (finishRequest s x q status version) := by
  unfold finishRequest
  try extract_lets
  iterate 30 all_goals try first | with_reducible assumption | with_reducible apply storeBytes_keeps | with_reducible apply modCtx_keeps | with_reducible apply writeEvent_keeps | (intro _; try beta_reduce) | extract_lets | (with_reducible apply Keeps.lit <;> first | rfl | skip)

theorem showVersion_keeps (hK : Keeps a0 s) (x k version : Nat) : Keeps a0 (showVersion s x k version) := by
  unfold showVersion
  iterate 30 all_goals try first | with_reducible assumption | with_reducible apply ite_keeps | with_reducible apply storeBytes_keeps | with_reducible apply foldl_keeps | with_reducible apply foldl_keeps_fst | (intro _; try beta_reduce) | split

theorem requestFailed_keeps (hK : Keeps a0 s) (x : Nat) (q : AdpReq) (status : Nat) : Keeps a0 (requestFailed s x q status) := by
  unfold requestFailed
  iterate 30 all_goals try first | with_reducible assumption | with_reducible apply finishRequest_keeps | with_reducible apply setAdp_keeps

theorem buildAdapter_keeps (hK : Keeps a0 s) (x : Nat) (q : AdpReq) (n version : Nat) (origin : BitVec 384) : Keeps a0 (buildAdapter s x q n version origin) := by
  unfold buildAdapter
  try extract_lets
  iterate 30 all_goals try first | with_reducible assumption | with_reducible apply ite_keeps | with_reducible apply buildPass_keeps | with_reducible apply requestFailed_keeps | with_reducible apply finishRequest_keeps | with_reducible apply ownKey_keeps | with_reducible apply setAdp_keeps | with_reducible apply ite_keeps_fst | (intro _; try beta_reduce) | split | extract_lets

theorem createNow_keeps (hK : Keeps a0 s) (x : Nat) (q : AdpReq) : Keeps a0 (createNow s x q) := by
  unfold createNow
  try extract_lets
  iterate 30 all_goals try first | with_reducible assumption | with_reducible apply ite_keeps | with_reducible apply requestFailed_keeps | with_reducible apply backPlan_keeps | with_reducible apply storeCells_keeps | with_reducible apply buildAdapter_keeps | with_reducible apply ite_keeps_fst | (intro _; try beta_reduce) | split | extract_lets | (dsimp +zetaDelta only; split) | (with_reducible apply Keeps.lit <;> first | rfl | skip)

theorem discardEmber_keeps (hK : Keeps a0 s) (x : Nat) (o : EmberObj) : Keeps a0 (discardEmber s x o) := by
  unfold discardEmber
  repeat' first | with_reducible assumption | with_reducible apply modEmber_keeps | with_reducible apply emberPages_keeps | (intro _; try beta_reduce) | (with_reducible apply Keeps.lit <;> first | rfl | skip)

theorem discardAdapter_keeps (hK : Keeps a0 s) (k : Nat) (a : Adapter) : Keeps a0 (discardAdapter s k a) := by
  unfold discardAdapter
  repeat' first | with_reducible assumption | with_reducible apply discardEmber_keeps | with_reducible apply foldl_keeps | with_reducible apply foldl_keeps_fst | (intro _; try beta_reduce)

theorem freeAdapter_keeps (hK : Keeps a0 s) (k : Nat) : Keeps a0 (freeAdapter s k) := by
  unfold freeAdapter
  try extract_lets
  repeat' first | with_reducible assumption | with_reducible apply setAdp_keeps | with_reducible apply setAdpKey_keeps | with_reducible apply discardAdapter_keeps | with_reducible apply advanceEpoch_keeps | with_reducible apply storeCells_keeps | (intro _; try beta_reduce) | extract_lets

theorem retireNow_keeps (hK : Keeps a0 s) (x : Nat) (q : AdpReq) : Keeps a0 (retireNow s x q) := by
  unfold retireNow
  iterate 30 all_goals try first | with_reducible assumption | with_reducible apply finishRequest_keeps | with_reducible apply freeAdapter_keeps

theorem refuseRequest_keeps (hK : Keeps a0 s) (x : Nat) (q : AdpReq) : Keeps a0 (refuseRequest s x q) := by
  unfold refuseRequest
  try extract_lets
  repeat' first | with_reducible assumption | with_reducible apply setAdp_keeps | with_reducible apply finishRequest_keeps | with_reducible apply requestFailed_keeps | (intro _; try beta_reduce) | split | extract_lets | (dsimp +zetaDelta only; split) | (with_reducible apply Keeps.lit <;> first | rfl | skip)

theorem takeRequest_keeps (hK : Keeps a0 s) (x : Nat) (e : Nat) : Keeps a0 (takeRequest s x e) := by
  unfold takeRequest
  try extract_lets
  repeat' first | with_reducible assumption | with_reducible apply setAdp_keeps | with_reducible apply finishRequest_keeps | with_reducible apply refuseRequest_keeps | with_reducible apply modCtx_keeps | with_reducible apply ite_keeps | with_reducible apply ite_keeps_fst | with_reducible apply foldl_keeps | with_reducible apply foldl_keeps_fst | (intro _; try beta_reduce) | split | extract_lets | (dsimp +zetaDelta only; split) | (with_reducible apply Keeps.lit <;> first | rfl | skip)

theorem eraseSlot_keeps (hK : Keeps a0 s) (k : Nat) : Keeps a0 (eraseSlot s k) := by
  unfold eraseSlot
  iterate 30 all_goals try first | with_reducible assumption | with_reducible apply emit_keeps | with_reducible apply advanceEpoch_keeps | with_reducible apply setAdpKey_keeps | (with_reducible apply Keeps.lit <;> first | rfl | skip)

theorem eraseDue_keeps (hK : Keeps a0 s) : Keeps a0 (eraseDue s) := by
  unfold eraseDue
  iterate 30 all_goals try first | with_reducible assumption | with_reducible apply eraseSlot_keeps | with_reducible apply foldl_keeps | with_reducible apply foldl_keeps_fst | (intro _; try beta_reduce)

theorem readAdapterTable_keeps (hK : Keeps a0 s) (x : Nat) : Keeps a0 (readAdapterTable s x) := by
  unfold readAdapterTable
  try extract_lets
  iterate 30 all_goals try first | with_reducible assumption | with_reducible apply takeRequest_keeps | with_reducible apply modCtx_keeps | with_reducible apply foldl_keeps | with_reducible apply foldl_keeps_fst | (intro _; try beta_reduce) | extract_lets | (with_reducible apply Keeps.lit <;> first | rfl | skip)

theorem refreshUsed_keeps (hK : Keeps a0 s) (x : Nat) : Keeps a0 (refreshUsed s x) := by
  unfold refreshUsed
  iterate 30 all_goals try first | with_reducible assumption | with_reducible apply setRf_keeps

theorem journalAdd_keeps (hK : Keeps a0 s) (x : Nat) (d : Desc) (block : List Byte) (e : JEntry)
    (h : journalAdd s x d block e = some t) : Keeps a0 t := by
  unfold journalAdd at h
  extract_lets at h
  split at h
  · cases h
  · simp only [Option.map_eq_some_iff] at h
    obtain ⟨u, hu, rfl⟩ := h
    exact refreshUsed_keeps (modCtx_keeps (storeBytes_keeps (backPages_keeps hK _ _ hu) _ _) _ _) _

theorem acceptDeferred_keeps (hK : Keeps a0 s) (o : OutCmd) (block : List Byte) (poison : Bool) (e : JEntry) : Keeps a0 (acceptDeferred s o block poison e) := by
  unfold acceptDeferred
  try extract_lets
  repeat' first | with_reducible assumption | with_reducible apply complete_keeps | with_reducible apply poisonExtent_keeps | (with_reducible refine journalAdd_keeps ?_ _ _ _ _ ‹_›) | with_reducible apply ite_keeps | with_reducible apply ite_keeps_fst | (intro _; try beta_reduce) | split | extract_lets | (dsimp +zetaDelta only; split)

theorem runScaleSet_keeps (hK : Keeps a0 s) (o : OutCmd) : Keeps a0 (runScaleSet s o) := by
  unfold runScaleSet
  try extract_lets
  repeat' first | with_reducible assumption | with_reducible apply complete_keeps | with_reducible apply acceptDeferred_keeps | with_reducible apply ite_keeps | with_reducible apply ite_keeps_fst | (intro _; try beta_reduce) | split | extract_lets | (dsimp +zetaDelta only; split)

theorem runOpt_keeps (hK : Keeps a0 s) (op : RingOp) (o : OutCmd) : Keeps a0 (runOpt op s o) := by
  unfold runOpt
  try extract_lets
  iterate 30 all_goals try first | with_reducible assumption | with_reducible apply ite_keeps | with_reducible apply complete_keeps | with_reducible apply acceptDeferred_keeps | (intro _; try beta_reduce) | split | extract_lets

theorem commitHome_keeps (hK : Keeps a0 s) (x : Nat) (tid : Nat) (a : Nat) (rows : Nat) (cols : Nat) (eval : Bool) (val : Nat → Fv × Bool) : Keeps a0 (commitHome s x tid a rows cols eval val).1 := by
  unfold commitHome
  try extract_lets
  repeat' first | with_reducible assumption | with_reducible apply storeCells_keeps | with_reducible apply countStats_keeps | (intro _; try beta_reduce) | extract_lets | (with_reducible apply Keeps.lit <;> first | rfl | skip)

theorem commitOpt_keeps (hK : Keeps a0 s) (x : Nat) (op : RingOp) (d : Desc) (b : List Byte) (jbad : Bool) : Keeps a0 (commitOpt s x op d b jbad).1 := by
  unfold commitOpt
  try extract_lets
  repeat' first | with_reducible assumption | with_reducible apply commitHome_keeps | with_reducible apply ite_keeps | with_reducible apply ite_keeps_fst | (intro _; try beta_reduce) | split | extract_lets | (dsimp +zetaDelta only; split) | (with_reducible apply Keeps.lit <;> first | rfl | skip)

theorem setEntry_keeps (hK : Keeps a0 s) (x tid lo len v : Nat) : Keeps a0 (setEntry s x tid lo len v) := by
  unfold setEntry
  iterate 30 all_goals try first | with_reducible assumption | with_reducible apply storeBytes_keeps

theorem clearAmax_keeps (hK : Keeps a0 s) (x : Nat) : Keeps a0 (clearAmax s x) := by
  unfold clearAmax
  repeat' first | with_reducible assumption | with_reducible apply modCtx_keeps | with_reducible apply setEntry_keeps | with_reducible apply foldl_keeps | with_reducible apply foldl_keeps_fst | (intro _; try beta_reduce) | (with_reducible apply Keeps.lit <;> first | rfl | skip)

theorem deviceWrite_keeps (hK : Keeps a0 s) (x a : Nat) (bytes : List Byte) : Keeps a0 (deviceWrite s x a bytes) := by
  unfold deviceWrite
  iterate 30 all_goals try first | with_reducible assumption | (with_reducible refine getD_keeps _ ?_ fun _ hh => backPages_keeps ?_ _ _ hh) | (with_reducible refine backPages_keeps ?_ _ _ ‹backPages _ _ _ = some _›) | with_reducible apply storeBytes_keeps | split | (with_reducible apply Keeps.lit <;> first | rfl | skip)

theorem autoMargin_keeps (hK : Keeps a0 s) (x tid : Nat) : Keeps a0 (autoMargin s x tid) := by
  unfold autoMargin
  try extract_lets
  iterate 30 all_goals try first | with_reducible assumption | with_reducible apply ite_keeps | with_reducible apply setEntry_keeps | with_reducible apply ite_keeps_fst | (intro _; try beta_reduce) | split | extract_lets

theorem historyStep_keeps (hK : Keeps a0 s) (x : Nat) (tid : Nat) : Keeps a0 (historyStep s x tid).1 := by
  unfold historyStep
  try extract_lets
  repeat' first | with_reducible assumption | with_reducible apply modCtx_keeps | with_reducible apply poisonExtent_keeps | with_reducible apply setEntry_keeps | with_reducible apply deviceWrite_keeps | with_reducible apply ite_keeps | with_reducible apply ite_keeps_fst | (intro _; try beta_reduce) | split | extract_lets | (dsimp +zetaDelta only; split) | (with_reducible apply Keeps.lit <;> first | rfl | skip)

theorem commitScales_keeps (hK : Keeps a0 s) (x : Nat) : Keeps a0 (commitScales s x).1 := by
  unfold commitScales
  try extract_lets
  repeat' first | with_reducible assumption | with_reducible apply modCtx_keeps | with_reducible apply clearAmax_keeps | with_reducible apply autoMargin_keeps | with_reducible apply historyStep_keeps | with_reducible apply ite_keeps | with_reducible apply ite_keeps_fst | with_reducible apply foldl_keeps | with_reducible apply foldl_keeps_fst | (intro _; try beta_reduce) | split | extract_lets | (dsimp +zetaDelta only; split) | (with_reducible apply Keeps.lit <;> first | rfl | skip)

theorem applyImage_keeps (hK : Keeps a0 s) (x tid : Nat) (image : List Byte) : Keeps a0 (applyImage s x tid image) := by
  unfold applyImage
  try extract_lets
  iterate 30 all_goals try first | with_reducible assumption | with_reducible apply ite_keeps | with_reducible apply storeBytes_keeps | with_reducible apply modCtx_keeps | (intro _; try beta_reduce) | split | extract_lets | (with_reducible apply Keeps.lit <;> first | rfl | skip)

theorem advanceVersion_keeps (hK : Keeps a0 s) (k : Nat) : Keeps a0 (advanceVersion s k) := by
  unfold advanceVersion
  try extract_lets
  iterate 30 all_goals try first | with_reducible assumption | with_reducible apply setAdp_keeps | with_reducible apply showVersion_keeps | extract_lets | (with_reducible apply Keeps.lit <;> first | rfl | skip)

theorem writeHead_keeps (hK : Keeps a0 s) (a : Nat) (h : PageHead) : Keeps a0 (writeHead s a h) := by
  unfold writeHead
  iterate 30 all_goals try first | with_reducible assumption | with_reducible apply storeBytes_keeps

theorem writePageEnt_keeps (hK : Keeps a0 s) (a : Nat) (e : PageEnt) : Keeps a0 (writePageEnt s a e) := by
  unfold writePageEnt
  iterate 30 all_goals try first | with_reducible assumption | with_reducible apply storeBytes_keeps

theorem landAttn_keeps (hK : Keeps a0 s) (o : OutCmd) (t : Option Tensor) (a : Out) (b : Out) : Keeps a0 (landAttn s o t a b).1 := by
  unfold landAttn
  try extract_lets
  repeat' first | with_reducible assumption | with_reducible apply landOut_keeps | with_reducible apply landTensor_keeps | (intro _; try beta_reduce) | split | extract_lets | (dsimp +zetaDelta only; split)

theorem touchArray_keeps (hK : Keeps a0 s) (d : Desc) : Keeps a0 (touchArray s d) := by
  unfold touchArray
  iterate 30 all_goals try first | with_reducible assumption | with_reducible apply arrTouch_keeps | split | (with_reducible apply Keeps.lit <;> first | rfl | skip)

theorem runFwd_keeps (hK : Keeps a0 s) (o : OutCmd) : Keeps a0 (runFwd s o) := by
  unfold runFwd
  try extract_lets
  repeat' first | with_reducible assumption | with_reducible apply landAttn_keeps | with_reducible apply touchArray_keeps | with_reducible apply complete_keeps | with_reducible apply ite_keeps | with_reducible apply ite_keeps_fst | (intro _; try beta_reduce) | split | extract_lets | (dsimp +zetaDelta only; split) | (with_reducible apply Keeps.lit <;> first | rfl | skip)

theorem runCombine_keeps (hK : Keeps a0 s) (o : OutCmd) : Keeps a0 (runCombine s o) := by
  unfold runCombine
  try extract_lets
  repeat' first | with_reducible assumption | with_reducible apply landAttn_keeps | with_reducible apply complete_keeps | with_reducible apply ite_keeps | with_reducible apply ite_keeps_fst | (intro _; try beta_reduce) | split | extract_lets | (dsimp +zetaDelta only; split)

theorem runAppend_keeps (hK : Keeps a0 s) (o : OutCmd) : Keeps a0 (runAppend s o) := by
  unfold runAppend
  try extract_lets
  repeat' first | with_reducible assumption | with_reducible apply complete_keeps | with_reducible apply landTensor_keeps | with_reducible apply ite_keeps | with_reducible apply ite_keeps_fst | (intro _; try beta_reduce) | split | extract_lets | (dsimp +zetaDelta only; split)

theorem addGrad_keeps (hK : Keeps a0 s) (x : Nat) (d : Desc) (c : CacheDesc) (seqs : List RagEntry) (ch : Chunk) (base : Nat) (j : Nat) (val : Nat → Nat → Fv) (bad : Bool) : Keeps a0 (addGrad s x d c seqs ch base j val bad).1 := by
  unfold addGrad
  try extract_lets
  repeat' first | with_reducible assumption | with_reducible apply landOut_keeps | with_reducible apply landTensor_keeps | with_reducible apply ite_keeps | with_reducible apply ite_keeps_fst | (intro _; try beta_reduce) | split | extract_lets | (dsimp +zetaDelta only; split)

theorem bwdChunk_keeps (hK : Keeps a0 s) (s0 : State) (x : Nat) (d : Desc) (c : CacheDesc) (seqs : List RagEntry) (ch : Chunk) (stored : Option (List (Chunk × Nat))) : Keeps a0 (bwdChunk s0 x d c seqs ch stored s).1 := by
  unfold bwdChunk
  try extract_lets
  repeat' first | with_reducible assumption | with_reducible apply addGrad_keeps | with_reducible apply foldl_keeps | with_reducible apply foldl_keeps_fst | (intro _; try beta_reduce) | extract_lets

theorem runBwd_keeps (hK : Keeps a0 s) (fromStore : Bool) (o : OutCmd) : Keeps a0 (runBwd fromStore s o) := by
  unfold runBwd
  try extract_lets
  repeat' first | with_reducible assumption | with_reducible apply touchArray_keeps | with_reducible apply bwdChunk_keeps | with_reducible apply complete_keeps | with_reducible apply landTensor_keeps | with_reducible apply ite_keeps | with_reducible apply ite_keeps_fst | with_reducible apply foldl_keeps | with_reducible apply foldl_keeps_fst | (intro _; try beta_reduce) | split | extract_lets | (dsimp +zetaDelta only; split)

theorem startExchange_keeps (hK : Keeps a0 s) (p q : Nat) : Keeps a0 (startExchange s p q) := by
  unfold startExchange
  try extract_lets
  iterate 30 all_goals try first | with_reducible assumption | with_reducible apply setTier_keeps | extract_lets | (with_reducible apply Keeps.lit <;> first | rfl | skip)

theorem raisePage_keeps (hK : Keeps a0 s) (x p : Nat) (keep : Nat → Bool) : Keeps a0 (raisePage s x p keep) := by
  unfold raisePage
  try extract_lets
  iterate 30 all_goals try first | with_reducible assumption | with_reducible apply ite_keeps | with_reducible apply startExchange_keeps | (intro _; try beta_reduce) | split | extract_lets | (dsimp +zetaDelta only; split) | (with_reducible apply Keeps.lit <;> first | rfl | skip)

theorem issueStage_keeps (hK : Keeps a0 s) (x : Nat) (i : Nat) (e : ScriptEntry) : Keeps a0 (issueStage s x i e) := by
  unfold issueStage
  try extract_lets
  repeat' first | with_reducible assumption | with_reducible apply modCtx_keeps | (intro _; try beta_reduce) | extract_lets | (with_reducible apply Keeps.lit <;> first | rfl | skip)

theorem issueEntry_keeps (hK : Keeps a0 s) (x : Nat) (i : Nat) : Keeps a0 (issueEntry s x i) := by
  unfold issueEntry
  try extract_lets
  repeat' first | with_reducible assumption | with_reducible apply wantEmber_keeps | with_reducible apply raisePage_keeps | with_reducible apply issueStage_keeps | with_reducible apply ite_keeps | with_reducible apply ite_keeps_fst | with_reducible apply foldl_keeps | with_reducible apply foldl_keeps_fst | (intro _; try beta_reduce) | split | extract_lets | (dsimp +zetaDelta only; split)

theorem issueScript_keeps (n : Nat) (hK : Keeps a0 s) (x stop : Nat) : Keeps a0 (issueScript x n stop s) := by
  induction n generalizing s with
  | zero => exact hK
  | succ n ih =>
    unfold issueScript
    extract_lets
    split
    · exact hK
    · exact ih (modCtx_keeps (issueEntry_keeps hK _ _) _ _)

theorem runScript_keeps (hK : Keeps a0 s) (x : Nat) : Keeps a0 (runScript s x) := issueScript_keeps _ hK _ _

theorem startScript_keeps (hK : Keeps a0 s) (x : Nat) : Keeps a0 (startScript s x) := by
  unfold startScript
  iterate 30 all_goals try first | with_reducible assumption | with_reducible apply runScript_keeps | with_reducible apply modCtx_keeps | (intro _; try beta_reduce) | (with_reducible apply Keeps.lit <;> first | rfl | skip)

theorem layerMark_keeps (hK : Keeps a0 s) (x : Nat) : Keeps a0 (layerMark s x) := by
  unfold layerMark
  iterate 30 all_goals try first | with_reducible assumption | with_reducible apply runScript_keeps | with_reducible apply modCtx_keeps | (intro _; try beta_reduce) | (with_reducible apply Keeps.lit <;> first | rfl | skip)

theorem pinPages_keeps (hK : Keeps a0 s) (ps : List Nat) : Keeps a0 (pinPages s ps) := by
  unfold pinPages
  iterate 30 all_goals try first | with_reducible assumption | with_reducible apply setTier_keeps | with_reducible apply foldl_keeps | with_reducible apply foldl_keeps_fst | (intro _; try beta_reduce) | (with_reducible apply Keeps.lit <;> first | rfl | skip)

theorem addPool_keeps (hK : Keeps a0 s) (x : Nat) (p : CachePool) : Keeps a0 (addPool s x p) := by
  unfold addPool
  try extract_lets
  iterate 30 all_goals try first | with_reducible assumption | with_reducible apply ite_keeps | with_reducible apply pinPages_keeps | (with_reducible refine getD_keeps _ ?_ fun _ hh => backPages_keeps ?_ _ _ hh) | (with_reducible refine backPages_keeps ?_ _ _ ‹backPages _ _ _ = some _›) | with_reducible apply modCtx_keeps | (intro _; try beta_reduce) | split | extract_lets | (with_reducible apply Keeps.lit <;> first | rfl | skip)

theorem runAdmit_keeps (hK : Keeps a0 s) (o : OutCmd) : Keeps a0 (runAdmit s o) := by
  unfold runAdmit
  try extract_lets
  iterate 30 all_goals try first | with_reducible assumption | with_reducible apply addPool_keeps | with_reducible apply putOut_keeps | with_reducible apply foldl_keeps | with_reducible apply foldl_keeps_fst | with_reducible apply ite_keeps_fst | (intro _; try beta_reduce) | extract_lets | (with_reducible apply Keeps.lit <;> first | rfl | skip)

theorem writeFree_keeps (hK : Keeps a0 s) (p : CachePool) : Keeps a0 (writeFree s p) := by
  unfold writeFree
  iterate 30 all_goals try first | with_reducible assumption | with_reducible apply storeBytes_keeps

theorem setRecords_keeps (hK : Keeps a0 s) (x : Nat) (p : CachePool) (rs : List Nat) : Keeps a0 (setRecords s x p rs) := by
  unfold setRecords
  try extract_lets
  repeat' first | with_reducible assumption | with_reducible apply modCtx_keeps | with_reducible apply zeroExtent_keeps | with_reducible apply storeBytes_keeps | with_reducible apply ite_keeps | with_reducible apply ite_keeps_fst | with_reducible apply foldl_keeps | with_reducible apply foldl_keeps_fst | (intro _; try beta_reduce) | split | extract_lets | (dsimp +zetaDelta only; split) | (with_reducible apply Keeps.lit <;> first | rfl | skip)

theorem movePage_keeps (hK : Keeps a0 s) (src dst n : Nat) (h : movePage s src dst n = some t) : Keeps a0 t := by
  unfold movePage at h
  extract_lets at h
  split at h
  · cases h
  · cases h
    exact storeCells_keeps (touchExtent_keeps hK _ _) _ _

theorem spillPage_keeps (hK : Keeps a0 s) (x : Nat) (p : CachePool) (k : SpillCand) : Keeps a0 (spillPage s x p k) := by
  unfold spillPage
  extract_lets
  split
  · exact hK
  · rename_i heq
    simp only [Option.bind_eq_some_iff, Option.map_eq_some_iff, Prod.mk.injEq] at heq
    obtain ⟨a, -, u, hu, rfl, rfl⟩ := heq
    exact bump_keeps (writePageEnt_keeps (movePage_keeps hK _ _ _ hu) _ _) _

theorem spillUntil_keeps (ks : List SpillCand) (hK : Keeps a0 s) (x : Nat) (p : CachePool) (enough : State → CachePool → Bool) :
    Keeps a0 (spillUntil x p enough ks s) := by
  induction ks generalizing s with
  | nil => exact hK
  | cons k ks ih =>
    unfold spillUntil
    split
    · exact hK
    · exact ih (spillPage_keeps hK _ _ _)

theorem bringPage_keeps (hK : Keeps a0 s) (x : Nat) (p : CachePool) (a : Nat) (h : bringPage s x p a = some t) : Keeps a0 t := by
  unfold bringPage at h
  extract_lets at h
  simp only [Option.bind_eq_some_iff, Option.map_eq_some_iff] at h
  obtain ⟨dst, -, u, hu, rfl⟩ := h
  exact writePageEnt_keeps (movePage_keeps hK _ _ _ hu) _ _

theorem settleTokens_keeps (hK : Keeps a0 s) (x : Nat) (p : CachePool) : Keeps a0 (settleTokens s x p) := by
  unfold settleTokens
  try extract_lets
  iterate 30 all_goals try first | with_reducible assumption | with_reducible apply ite_keeps | with_reducible apply writeHead_keeps | with_reducible apply foldl_keeps | with_reducible apply foldl_keeps_fst | (intro _; try beta_reduce) | split | extract_lets | (with_reducible apply Keeps.lit <;> first | rfl | skip)

theorem freeLeaves_keeps (hK : Keeps a0 s) (x : Nat) (p : CachePool) (es : List RagEntry) : Keeps a0 (freeLeaves s x p es) := by
  unfold freeLeaves
  try extract_lets
  iterate 30 all_goals try first | with_reducible assumption | with_reducible apply writeHead_keeps | with_reducible apply setRecords_keeps | with_reducible apply foldl_keeps | with_reducible apply foldl_keeps_fst | (intro _; try beta_reduce) | extract_lets | (with_reducible apply Keeps.lit <;> first | rfl | skip)

theorem spillFor_keeps (hK : Keeps a0 s) (x : Nat) (p : CachePool) (es : List RagEntry) (order : List RagEntry) (next : List RagEntry) : Keeps a0 (spillFor s x p es order next) := by
  unfold spillFor
  try extract_lets
  repeat' first | with_reducible assumption | with_reducible apply spillUntil_keeps | with_reducible apply ite_keeps | with_reducible apply ite_keeps_fst | (intro _; try beta_reduce) | split | extract_lets | (dsimp +zetaDelta only; split)

theorem bringAll_keeps (as : List Nat) (hK : Keeps a0 s) (x : Nat) (p : CachePool) (lost : List Nat)
    (h : bringAll x p lost as s = .fits t) : Keeps a0 t := by
  induction as generalizing s with
  | nil => cases h; exact hK
  | cons a as ih =>
    unfold bringAll at h
    extract_lets at h
    split at h
    · exact ih hK h
    · split at h
      · cases h
      · split at h
        · cases h
        · exact ih (bump_keeps (bringPage_keeps hK _ _ _ ‹_›) _) h

theorem clearPage_keeps (hK : Keeps a0 s) (a : Nat) (n : Nat) : Keeps a0 (clearPage s a n) := by
  unfold clearPage
  repeat' first | with_reducible assumption | with_reducible apply zeroExtent_keeps | with_reducible apply slabWritten_keeps | with_reducible apply foldl_keeps | with_reducible apply foldl_keeps_fst | (intro _; try beta_reduce)

theorem growPages_keeps (ps : List (Nat × Nat)) (hK : Keeps a0 s) (x : Nat) (p : CachePool) (head : Nat)
    (h : growPages x p head ps s = .fits t) : Keeps a0 t := by
  induction ps generalizing s with
  | nil => cases h; exact hK
  | cons q ps ih =>
    obtain ⟨pos, v⟩ := q
    unfold growPages at h
    extract_lets at h
    split at h
    · cases h
    · extract_lets at h
      exact ih (writeHead_keeps (writePageEnt_keeps (clearPage_keeps hK _ _) _ _) _ _) h

theorem serveIn_keeps (hK : Keeps a0 s) (x : Nat) (lost : List Nat) (e : RagEntry) (p : CachePool)
    (h : serveIn s x lost e p = .fits t) : Keeps a0 t := by
  unfold serveIn at h
  extract_lets ad q s' hd at h
  split at h
  · cases h
  · have h1 : Keeps a0 s' := ite_keeps (fun _ => setRecords_keeps hK _ _ _) (fun _ => hK)
    split at h
    · cases h
    · cases h
    · rename_i hb
      split at h
      · rename_i hg
        cases h
        exact writeHead_keeps (growPages_keeps _ (bringAll_keeps _ h1 _ _ _ hb) _ _ _ hg) _ _
      · rename_i hn
        exact absurd h (fun h => hn _ h)

theorem serveAll_keeps (ps : List CachePool) (hK : Keeps a0 s) (x : Nat) (lost : List Nat) (e : RagEntry)
    (h : serveAll x lost e ps s = .fits t) : Keeps a0 t := by
  induction ps generalizing s with
  | nil => cases h; exact hK
  | cons p ps ih =>
    unfold serveAll at h
    split at h
    · exact ih (serveIn_keeps hK _ _ _ _ ‹_›) h
    · rename_i hn
      exact absurd h (fun h => hn _ h)

theorem setFlags_keeps (hK : Keeps a0 s) (table i : Nat) (deferred failed : Bool) : Keeps a0 (setFlags s table i deferred failed) := by
  unfold setFlags
  try extract_lets
  iterate 30 all_goals try first | with_reducible assumption | with_reducible apply storeBytes_keeps | extract_lets

theorem serveEntry_keeps (r : State × Nat × Nat) (hK : Keeps a0 r.1) (x table : Nat) (lost : List Nat) (ps : List CachePool) (i : Nat) :
    Keeps a0 (serveEntry x table lost ps r i).1 := by
  unfold serveEntry
  extract_lets
  split
  · exact setFlags_keeps hK _ _ _ _
  · split
    · exact setFlags_keeps (serveAll_keeps _ hK _ _ _ ‹_›) _ _ _ _
    · exact setFlags_keeps hK _ _ _ _
    · exact setFlags_keeps (tierFailed_keeps hK _ _ _ _ _) _ _ _ _

theorem prefetchAdapter_keeps (hK : Keeps a0 s) (x : Nat) (k : Nat) : Keeps a0 (prefetchAdapter s x k) := by
  unfold prefetchAdapter
  try extract_lets
  repeat' first | with_reducible assumption | with_reducible apply wantEmber_keeps | with_reducible apply raisePage_keeps | with_reducible apply foldl_keeps | with_reducible apply foldl_keeps_fst | (intro _; try beta_reduce) | extract_lets

theorem performAdmit_keeps (hK : Keeps a0 s) (o : OutCmd) (lost : List Nat) : Keeps a0 (performAdmit s o lost) := by
  unfold performAdmit
  try extract_lets
  repeat' first | with_reducible assumption | with_reducible apply writeFree_keeps | with_reducible apply settleTokens_keeps | with_reducible apply freeLeaves_keeps | with_reducible apply spillFor_keeps | with_reducible apply serveEntry_keeps | with_reducible apply prefetchAdapter_keeps | with_reducible apply complete_keeps | with_reducible apply backPlan_keeps | with_reducible apply modCtx_keeps | with_reducible apply ite_keeps | with_reducible apply ite_keeps_fst | with_reducible apply foldl_keeps | with_reducible apply foldl_keeps_fst | (intro _; try beta_reduce) | split | extract_lets | (dsimp +zetaDelta only; split) | (with_reducible apply Keeps.lit <;> first | rfl | skip)

theorem backgroundSpillPool_keeps (hK : Keeps a0 s) (x : Nat) (p : CachePool) : Keeps a0 (backgroundSpillPool s x p) := by
  unfold backgroundSpillPool
  try extract_lets
  repeat' first | with_reducible assumption | with_reducible apply writeFree_keeps | with_reducible apply spillUntil_keeps | with_reducible apply ite_keeps | with_reducible apply ite_keeps_fst | (intro _; try beta_reduce) | split | extract_lets | (dsimp +zetaDelta only; split)

theorem backgroundSpillNow_keeps (hK : Keeps a0 s) (x : Nat) : Keeps a0 (backgroundSpillNow s x) := by
  unfold backgroundSpillNow
  iterate 30 all_goals try first | with_reducible assumption | with_reducible apply backgroundSpillPool_keeps | with_reducible apply foldl_keeps | with_reducible apply foldl_keeps_fst | (intro _; try beta_reduce)

theorem bringInOrder_keeps (as : List Nat) (hK : Keeps a0 s) (x : Nat) (p : CachePool) (keep : List Nat) :
    Keeps a0 (bringInOrder x p keep as s) := by
  induction as generalizing s with
  | nil => exact hK
  | cons a as ih =>
    unfold bringInOrder
    extract_lets n q s'
    have h1 : Keeps a0 s' := ite_keeps (fun _ => spillUntil_keeps _ hK _ _ _) (fun _ => hK)
    split
    · exact h1
    · exact ih (bringPage_keeps h1 _ _ _ ‹_›)

theorem bringBackPool_keeps (hK : Keeps a0 s) (x : Nat) (p : CachePool) : Keeps a0 (bringBackPool s x p) := by
  unfold bringBackPool
  try extract_lets
  iterate 30 all_goals try first | with_reducible assumption | with_reducible apply bringInOrder_keeps | with_reducible apply writeFree_keeps | with_reducible apply ite_keeps_fst | extract_lets

theorem slabUndecodable_keeps (hK : Keeps a0 s) (cx : Option Nat) (a : Nat) : Keeps a0 (slabUndecodable s cx a) := by
  unfold slabUndecodable
  try extract_lets
  repeat' first | with_reducible assumption | with_reducible apply poisonExtent_keeps | with_reducible apply countBad_keeps | with_reducible apply report_keeps | with_reducible apply ite_keeps | with_reducible apply ite_keeps_fst | (intro _; try beta_reduce) | split | extract_lets | (dsimp +zetaDelta only; split)

theorem bringBackNow_keeps (hK : Keeps a0 s) (x : Nat) (undecodable : List Nat) : Keeps a0 (bringBackNow s x undecodable) := by
  unfold bringBackNow
  repeat' first | with_reducible assumption | with_reducible apply bringBackPool_keeps | with_reducible apply slabUndecodable_keeps | with_reducible apply ite_keeps | with_reducible apply ite_keeps_fst | with_reducible apply foldl_keeps | with_reducible apply foldl_keeps_fst | (intro _; try beta_reduce) | split | (dsimp +zetaDelta only; split)

theorem forgetPast_keeps (hK : Keeps a0 s) (g : Nat) : Keeps a0 (forgetPast s g) := by
  unfold forgetPast
  try extract_lets
  repeat' first | with_reducible assumption | (intro _; try beta_reduce) | extract_lets | (with_reducible apply Keeps.lit <;> first | rfl | skip)

theorem endColl_keeps (hK : Keeps a0 s) (o : OutCmd) (st : Nat) : Keeps a0 (endColl s o st) := by
  unfold endColl
  repeat' first | with_reducible assumption | with_reducible apply forgetPast_keeps | with_reducible apply complete_keeps | (intro _; try beta_reduce)

theorem landColl_keeps (hK : Keeps a0 s) (o : OutCmd) (counted : Out) (plain : Out) : Keeps a0 (landColl s o counted plain) := by
  unfold landColl
  try extract_lets
  repeat' first | with_reducible assumption | with_reducible apply endColl_keeps | with_reducible apply storeOut_keeps | with_reducible apply countStats_keeps | with_reducible apply landMarks_keeps | (intro _; try beta_reduce) | extract_lets

theorem combineNow_keeps (hK : Keeps a0 s) (o : OutCmd) : Keeps a0 (combineNow s o) := by
  unfold combineNow
  repeat' first | with_reducible assumption | with_reducible apply landColl_keeps | (intro _; try beta_reduce)

theorem startCombine_keeps (hK : Keeps a0 s) (o : OutCmd) : Keeps a0 (startCombine s o) := by
  unfold startCombine
  try extract_lets
  iterate 30 all_goals try first | with_reducible assumption | with_reducible apply ite_keeps | with_reducible apply combineNow_keeps | with_reducible apply sendRead_keeps | with_reducible apply putOut_keeps | with_reducible apply foldl_keeps | with_reducible apply foldl_keeps_fst | (intro _; try beta_reduce) | split | extract_lets | (with_reducible apply Keeps.lit <;> first | rfl | skip)

theorem finishColl_keeps (hK : Keeps a0 s) (op : RingOp) (o : OutCmd) (parts : Nat → Lines) (blocks : Nat → Lines × Stats) : Keeps a0 (finishColl op s o parts blocks) := by
  unfold finishColl
  try extract_lets
  repeat' first | with_reducible assumption | with_reducible apply landColl_keeps | with_reducible apply startCombine_keeps | with_reducible apply bumpBy_keeps | with_reducible apply ite_keeps | with_reducible apply ite_keeps_fst | (intro _; try beta_reduce) | split | extract_lets | (dsimp +zetaDelta only; split)

theorem dropFlip_keeps (hK : Keeps a0 s) (o : OutCmd) : Keeps a0 (dropFlip s o) := by
  unfold dropFlip
  iterate 30 all_goals try first | with_reducible assumption | with_reducible apply ite_keeps | with_reducible apply refreshUsed_keeps | with_reducible apply modCtx_keeps | (intro _; try beta_reduce) | split | (with_reducible apply Keeps.lit <;> first | rfl | skip)

theorem collLost_keeps (hK : Keeps a0 s) (o : OutCmd) : Keeps a0 (collLost s o) := by
  unfold collLost
  iterate 30 all_goals try first | with_reducible assumption | with_reducible apply freeExtent_keeps | with_reducible apply dropFlip_keeps | with_reducible apply foldl_keeps | with_reducible apply foldl_keeps_fst | (intro _; try beta_reduce)

theorem collFailed_keeps (hK : Keeps a0 s) (o : OutCmd) : Keeps a0 (collFailed s o) := by
  unfold collFailed
  repeat' first | with_reducible assumption | with_reducible apply endColl_keeps | with_reducible apply collLost_keeps | with_reducible apply setRemotePoisoned_keeps | with_reducible apply clAbandon_keeps | with_reducible apply ite_keeps | with_reducible apply ite_keeps_fst | (intro _; try beta_reduce) | split | (dsimp +zetaDelta only; split)

theorem sendLines_keeps (hK : Keeps a0 s) (o : OutCmd) (pkg : Nat) (kind : Nat) (last : Nat) (l : Lines) : Keeps a0 (sendLines s o pkg kind last l) := by
  unfold sendLines
  try extract_lets
  repeat' first | with_reducible assumption | with_reducible apply sendMessage_keeps | with_reducible apply ite_keeps | with_reducible apply ite_keeps_fst | with_reducible apply foldl_keeps | with_reducible apply foldl_keeps_fst | (intro _; try beta_reduce) | split | extract_lets | (dsimp +zetaDelta only; split)

theorem keepOwn_keeps (hK : Keeps a0 s) (o : OutCmd) (b : Lines × Stats) : Keeps a0 (keepOwn s o b) := by
  unfold keepOwn
  repeat' first | with_reducible assumption | (intro _; try beta_reduce) | (with_reducible apply Keeps.lit <;> first | rfl | skip)

theorem collStep_keeps (hK : Keeps a0 s) (o : OutCmd) (h : collStep s o = some t) : Keeps a0 t := by
  unfold collStep at h
  extract_lets g op ms from' all parts blocks v at h
  split at h
  · split at h
    · cases h
      exact endColl_keeps (setRemotePoisoned_keeps (clAbandon_keeps (dropFlip_keeps hK _) _) _ _) _ _
    · split at h
      · cases h
        exact endColl_keeps (clAbandon_keeps (dropFlip_keeps hK _) _) _ _
      · split at h
        · cases h
        · split at h
          · cases h
            exact startCombine_keeps hK _
          · cases h
            exact putOut_keeps (foldl_keeps _ (fun _ _ hs => sendLines_keeps hs _ _ _ _ _) _ _ hK) _
  · split at h
    · cases h
    · split at h
      · cases h
        exact putOut_keeps (keepOwn_keeps (foldl_keeps _ (fun _ _ hs => sendLines_keeps hs _ _ _ _ _) _ _ hK) _ _) _
      · cases h
        exact finishColl_keeps hK _ _ _ _
  · split at h
    · cases h
      exact finishColl_keeps hK _ _ _ _
    · cases h
  · cases h

theorem collGoes_keeps (k : Nat) (hK : Keeps a0 s) (ident : Nat) : Keeps a0 (collGoes k s ident) := by
  induction k generalizing s with
  | zero => exact hK
  | succ k ih =>
    unfold collGoes
    split
    · exact hK
    · split
      · exact ih (collStep_keeps hK _ ‹_›)
      · exact hK

theorem openColl_keeps (hK : Keeps a0 s) (o : OutCmd) : Keeps a0 (openColl s o) := by
  unfold openColl
  try extract_lets
  repeat' first | with_reducible assumption | with_reducible apply forgetPast_keeps | with_reducible apply finishColl_keeps | with_reducible apply collFailed_keeps | with_reducible apply collGoes_keeps | with_reducible apply putOut_keeps | with_reducible apply tellMembers_keeps | with_reducible apply ite_keeps | with_reducible apply ite_keeps_fst | (intro _; try beta_reduce) | split | extract_lets | (dsimp +zetaDelta only; split) | (with_reducible apply Keeps.lit <;> first | rfl | skip)

theorem runColl_keeps (hK : Keeps a0 s) (op : RingOp) (o : OutCmd) : Keeps a0 (runColl op s o) := by
  unfold runColl
  split
  · exact endColl_keeps (clAbandon_keeps hK _) _ _
  · rename_i u hu
    have h1 : Keeps a0 u := by
      split at hu
      · exact journalAdd_keeps hK _ _ _ _ hu
      · cases hu
        exact hK
    extract_lets lines
    split
    · exact openColl_keeps h1 _
    · exact foldl_keeps _ (fun _ _ hs => sendRead_keeps hs _ _ _) _ _ (putOut_keeps h1 _)

theorem collArrives_keeps (hK : Keeps a0 s) (pkg : Nat) (p : CollPart) : Keeps a0 (collArrives s pkg p) := by
  unfold collArrives
  try extract_lets
  repeat' first | with_reducible assumption | with_reducible apply forgetPast_keeps | with_reducible apply collGoes_keeps | (intro _; try beta_reduce) | split | extract_lets | (dsimp +zetaDelta only; split) | (with_reducible apply Keeps.lit <;> first | rfl | skip)

theorem landImage_keeps (hK : Keeps a0 s) (x : Nat) (tid : Nat) (image : List Byte) (jbad : Bool) : Keeps a0 (landImage s x tid image jbad).1 := by
  unfold landImage
  try extract_lets
  repeat' first | with_reducible assumption | with_reducible apply poisonExtent_keeps | with_reducible apply applyImage_keeps | with_reducible apply ite_keeps | with_reducible apply ite_keeps_fst | (intro _; try beta_reduce) | split | extract_lets | (dsimp +zetaDelta only; split)

theorem readCoded_keeps (hK : Keeps a0 s) (a : Nat) (coded : List Byte) : Keeps a0 (readCoded s a coded) := by
  unfold readCoded
  extract_lets b
  split
  · exact hK
  · split
    · exact ⟨hK.1, hK.2, hK.3, hK.4, fun w => smWf_smFill _ _ _ _ _ (hK.5 w), hK.6, hK.7, hK.8, hK.9⟩
    · exact slabUndecodable_keeps hK _ _

theorem collFetched_keeps (hK : Keeps a0 s) (o : OutCmd) : Keeps a0 (collFetched s o) := by
  unfold collFetched
  repeat' first | with_reducible assumption | with_reducible apply combineNow_keeps | with_reducible apply openColl_keeps | with_reducible apply ite_keeps | with_reducible apply ite_keeps_fst | (intro _; try beta_reduce) | split | (dsimp +zetaDelta only; split)

end Sys2Proof.Laws
end

