-- ==== Sys2Proof/Laws/KeepsFlow.lean ====
section
/-! SUPPORT. Waits, snapshots, boundaries, programs and the ring processor keep what Keeps says. -/

namespace Sys2Proof.Laws

open Sys2Proof.Machine

set_option linter.unusedTactic false
set_option linter.unreachableTactic false
set_option linter.unusedVariables false

variable {a0 s t : State}

theorem doSignal_keeps (hK : Keeps a0 s) (o : OutCmd) : Keeps a0 (doSignal s o) := by
  unfold doSignal
  try extract_lets
  iterate 30 all_goals try first | with_reducible assumption | with_reducible apply ite_keeps | with_reducible apply postWrite_keeps | with_reducible apply storeBytes_keeps | (intro _; try beta_reduce) | split | extract_lets | (dsimp +zetaDelta only; split) | (with_reducible apply Keeps.lit <;> first | rfl | skip)

theorem finishSync_keeps (hK : Keeps a0 s) (o : OutCmd) : Keeps a0 (finishSync s o) := by
  unfold finishSync
  try extract_lets
  iterate 30 all_goals try first | with_reducible assumption | with_reducible apply ite_keeps | with_reducible apply doSignal_keeps | with_reducible apply layerMark_keeps | with_reducible apply modRing_keeps | with_reducible apply complete_keeps | (intro _; try beta_reduce) | split | extract_lets | (with_reducible apply Keeps.lit <;> first | rfl | skip)

theorem enterWait_keeps (hK : Keeps a0 s) (o : OutCmd) : Keeps a0 (enterWait s o) := by
  unfold enterWait
  iterate 30 all_goals try first | with_reducible assumption | with_reducible apply ite_keeps | with_reducible apply finishSync_keeps | with_reducible apply putOut_keeps | (intro _; try beta_reduce) | split | (with_reducible apply Keeps.lit <;> first | rfl | skip)

theorem passFence_keeps (hK : Keeps a0 s) (o : OutCmd) : Keeps a0 (passFence s o) := by
  unfold passFence
  iterate 30 all_goals try first | with_reducible assumption | with_reducible apply ite_keeps | with_reducible apply complete_keeps | with_reducible apply enterWait_keeps | (intro _; try beta_reduce) | split

theorem enterFence_keeps (hK : Keeps a0 s) (o : OutCmd) : Keeps a0 (enterFence s o) := by
  unfold enterFence
  try extract_lets
  iterate 30 all_goals try first | with_reducible assumption | with_reducible apply ite_keeps | with_reducible apply passFence_keeps | with_reducible apply putOut_keeps | with_reducible apply enterWait_keeps | (intro _; try beta_reduce) | split | extract_lets | (with_reducible apply Keeps.lit <;> first | rfl | skip)

theorem runSync_keeps (hK : Keeps a0 s) (o : OutCmd) : Keeps a0 (runSync s o) := by
  unfold runSync
  iterate 30 all_goals try first | with_reducible assumption | with_reducible apply ite_keeps | with_reducible apply putOut_keeps | with_reducible apply enterFence_keeps | (intro _; try beta_reduce) | split | (with_reducible apply Keeps.lit <;> first | rfl | skip)

theorem advanceSync_keeps (hK : Keeps a0 s) (o : OutCmd) (h : advanceSync s o = some t) : Keeps a0 t := by
  unfold advanceSync at h
  repeat' split at h
  all_goals cases h
  · exact enterFence_keeps hK _
  · exact passFence_keeps hK _

theorem setDirty_keeps (hK : Keeps a0 s) (x : Nat) (d : Bool) (slabs : List Nat) : Keeps a0 (setDirty s x d slabs) := by
  unfold setDirty
  iterate 30 all_goals try first | with_reducible assumption | with_reducible apply foldl_keeps | with_reducible apply foldl_keeps_fst | (intro _; try beta_reduce) | (with_reducible apply Keeps.lit <;> first | rfl | skip)

theorem setStreaming_keeps (hK : Keeps a0 s) (x : Nat) (on : Bool) (pending : Nat) : Keeps a0 (setStreaming s x on pending) := by
  unfold setStreaming
  iterate 30 all_goals try first | with_reducible assumption | with_reducible apply ite_keeps | with_reducible apply setRf_keeps | (intro _; try beta_reduce) | split

theorem takeCut_keeps (hK : Keeps a0 s) (x : Nat) (by' : Option Nat) (full : Bool) : Keeps a0 (takeCut s x by' full) := by
  unfold takeCut
  try extract_lets
  repeat' first | with_reducible assumption | with_reducible apply modCtx_keeps | with_reducible apply setDirty_keeps | with_reducible apply setStreaming_keeps | with_reducible apply ite_keeps | with_reducible apply ite_keeps_fst | (intro _; try beta_reduce) | split | extract_lets | (dsimp +zetaDelta only; split) | (with_reducible apply Keeps.lit <;> first | rfl | skip)

theorem backgroundCut_keeps (hK : Keeps a0 s) (x : Nat) : Keeps a0 (backgroundCut s x) := by
  unfold backgroundCut
  iterate 30 all_goals try first | with_reducible assumption | with_reducible apply ite_keeps | with_reducible apply report_keeps | with_reducible apply takeCut_keeps | (intro _; try beta_reduce) | split

theorem wantCut_keeps (hK : Keeps a0 s) (x : Nat) : Keeps a0 (wantCut s x) := by
  unfold wantCut
  iterate 30 all_goals try first | with_reducible assumption | with_reducible apply ite_keeps | with_reducible apply modCtx_keeps | with_reducible apply backgroundCut_keeps | (intro _; try beta_reduce) | split | (with_reducible apply Keeps.lit <;> first | rfl | skip)

theorem cutAtCommit_keeps (hK : Keeps a0 s) (x : Nat) (ok : Bool) : Keeps a0 (cutAtCommit s x ok) := by
  unfold cutAtCommit
  try extract_lets
  iterate 30 all_goals try first | with_reducible assumption | with_reducible apply ite_keeps | with_reducible apply modCtx_keeps | with_reducible apply wantCut_keeps | (intro _; try beta_reduce) | split | extract_lets | (with_reducible apply Keeps.lit <;> first | rfl | skip)

theorem runTake_keeps (hK : Keeps a0 s) (o : OutCmd) : Keeps a0 (runTake s o) := by
  unfold runTake
  try extract_lets
  iterate 30 all_goals try first | with_reducible assumption | with_reducible apply ite_keeps | with_reducible apply putOut_keeps | with_reducible apply takeCut_keeps | (intro _; try beta_reduce) | split | extract_lets | (with_reducible apply Keeps.lit <;> first | rfl | skip)

theorem nextCut_keeps (hK : Keeps a0 s) (x : Nat) : Keeps a0 (nextCut s x) := by
  unfold nextCut
  iterate 30 all_goals try first | with_reducible assumption | with_reducible apply ite_keeps | with_reducible apply complete_keeps | with_reducible apply takeCut_keeps | with_reducible apply backgroundCut_keeps | with_reducible apply modCtx_keeps | (intro _; try beta_reduce) | split | (with_reducible apply Keeps.lit <;> first | rfl | skip)

theorem dropStream_keeps (hK : Keeps a0 s) (x : Nat) : Keeps a0 (dropStream s x) := by
  unfold dropStream
  iterate 30 all_goals try first | with_reducible assumption | with_reducible apply setStreaming_keeps | with_reducible apply modCtx_keeps | with_reducible apply setDirty_keeps | (intro _; try beta_reduce) | split | (with_reducible apply Keeps.lit <;> first | rfl | skip)

theorem showGens_keeps (hK : Keeps a0 s) (x : Nat) : Keeps a0 (showGens s x) := by
  unfold showGens
  try extract_lets
  iterate 30 all_goals try first | with_reducible assumption | with_reducible apply setReg_keeps | split | extract_lets | (dsimp +zetaDelta only; split) | (with_reducible apply Keeps.lit <;> first | rfl | skip)

theorem endStream_keeps (hK : Keeps a0 s) (x : Nat) : Keeps a0 (endStream s x) := by
  unfold endStream
  try extract_lets
  iterate 30 all_goals try first | with_reducible assumption | with_reducible apply modCtx_keeps | with_reducible apply showGens_keeps | with_reducible apply setStreaming_keeps | with_reducible apply complete_keeps | with_reducible apply nextCut_keeps | (intro _; try beta_reduce) | split | extract_lets | (dsimp +zetaDelta only; split) | (with_reducible apply Keeps.lit <;> first | rfl | skip)

theorem failStream_keeps (hK : Keeps a0 s) (x : Nat) : Keeps a0 (failStream s x) := by
  unfold failStream
  try extract_lets
  iterate 30 all_goals try first | with_reducible assumption | with_reducible apply report_keeps | with_reducible apply dropStream_keeps | with_reducible apply complete_keeps | with_reducible apply nextCut_keeps | split | extract_lets | (dsimp +zetaDelta only; split) | (with_reducible apply Keeps.lit <;> first | rfl | skip)

theorem restoreAdapters_keeps (hK : Keeps a0 s) (x : Nat) (g : Gen) (spare : Bool) : Keeps a0 (restoreAdapters s x g spare) := by
  unfold restoreAdapters
  try extract_lets
  repeat' first | with_reducible assumption | with_reducible apply setAdp_keeps | with_reducible apply ownKey_keeps | with_reducible apply freeAdapter_keeps | with_reducible apply ite_keeps | with_reducible apply ite_keeps_fst | with_reducible apply foldl_keeps | with_reducible apply foldl_keeps_fst | (intro _; try beta_reduce) | split | extract_lets | (dsimp +zetaDelta only; split) | (with_reducible apply Keeps.lit <;> first | rfl | skip)

theorem restoreSlab_keeps (r : State × Bool) (hK : Keeps a0 r.1) (g : Gen) (skip : Nat × Nat) (slab : Nat) :
    Keeps a0 (restoreSlab g skip r slab).1 := by
  unfold restoreSlab
  extract_lets a inGen cells q
  have h1 : Keeps a0 q.1 := storeCells_keeps hK cells _
  clear_value q
  exact h1

theorem resetGroups_keeps (hK : Keeps a0 s) (x : Nat) : Keeps a0 (resetGroups s x) := by
  unfold resetGroups
  repeat' first | with_reducible assumption | (intro _; try beta_reduce) | (with_reducible apply Keeps.lit <;> first | rfl | skip)

theorem poisonRest_keeps (hK : Keeps a0 s) (slabs : List Nat) (done : Nat) : Keeps a0 (poisonRest s slabs done) := by
  unfold poisonRest
  iterate 30 all_goals try first | with_reducible assumption | with_reducible apply poisonExtent_keeps | with_reducible apply foldl_keeps | with_reducible apply foldl_keeps_fst | (intro _; try beta_reduce)

theorem dropVerdicts_keeps (hK : Keeps a0 s) (x : Nat) : Keeps a0 (dropVerdicts s x) := by
  unfold dropVerdicts
  repeat' first | with_reducible assumption | (intro _; try beta_reduce) | (with_reducible apply Keeps.lit <;> first | rfl | skip)

theorem applyGen_keeps (hK : Keeps a0 s) (o : OutCmd) (g : Gen) (failsAt : Option Nat) (failSt : Nat) : Keeps a0 (applyGen s o g failsAt failSt) := by
  unfold applyGen
  try extract_lets
  repeat' first | with_reducible assumption | with_reducible apply complete_keeps | with_reducible apply setRemotePoisoned_keeps | with_reducible apply setReg_keeps | with_reducible apply modCtx_keeps | (with_reducible refine getD_keeps _ ?_ fun _ hh => backPages_keeps ?_ _ _ hh) | (with_reducible refine backPages_keeps ?_ _ _ ‹_›) | with_reducible apply report_keeps | with_reducible apply refreshUsed_keeps | with_reducible apply clearAmax_keeps | with_reducible apply setDirty_keeps | with_reducible apply showGens_keeps | with_reducible apply restoreAdapters_keeps | with_reducible apply restoreSlab_keeps | with_reducible apply dropVerdicts_keeps | with_reducible apply resetGroups_keeps | with_reducible apply poisonRest_keeps | with_reducible apply ite_keeps | with_reducible apply ite_keeps_fst | with_reducible apply foldl_keeps | with_reducible apply foldl_keeps_fst | (intro _; try beta_reduce) | split | extract_lets | (dsimp +zetaDelta only; split) | (with_reducible apply Keeps.lit <;> first | rfl | skip)

theorem restoreWith_keeps (hK : Keeps a0 s) (o : OutCmd) (g : Option Gen) (failsAt : Option Nat) (failSt : Nat) : Keeps a0 (restoreWith s o g failsAt failSt) := by
  unfold restoreWith
  try extract_lets
  iterate 30 all_goals try first | with_reducible assumption | with_reducible apply ite_keeps | with_reducible apply complete_keeps | (with_reducible refine getD_keeps _ ?_ fun _ hh => backPages_keeps ?_ _ _ hh) | (with_reducible refine backPages_keeps ?_ _ _ ‹backPages _ _ _ = some _›) | with_reducible apply applyGen_keeps | with_reducible apply foldl_keeps | with_reducible apply foldl_keeps_fst | (intro _; try beta_reduce) | split | extract_lets | (dsimp +zetaDelta only; split) | (with_reducible apply Keeps.lit <;> first | rfl | skip)

theorem runStep_keeps (hK : Keeps a0 s) (o : OutCmd) : Keeps a0 (runStep s o) := by
  unfold runStep
  iterate 30 all_goals try first | with_reducible assumption | with_reducible apply putOut_keeps | (with_reducible apply Keeps.lit <;> first | rfl | skip)

theorem zeroAccs_keeps (hK : Keeps a0 s) (d : Desc) : Keeps a0 (zeroAccs s d) := by
  unfold zeroAccs
  iterate 30 all_goals try first | with_reducible assumption | with_reducible apply storeCells_keeps | with_reducible apply foldl_keeps | with_reducible apply foldl_keeps_fst | with_reducible apply ite_keeps_fst | (intro _; try beta_reduce)

theorem commitEntry_keeps (x : Nat) (cut : List (Nat × SpareUnit)) (r : State × CommitSt) (p : Nat × JEntry) (hK : Keeps a0 r.1) : Keeps a0 (commitEntry x cut r p).1 := by
  unfold commitEntry
  try extract_lets
  repeat' first | with_reducible assumption | with_reducible apply poisonExtent_keeps | with_reducible apply storeBytes_keeps | with_reducible apply report_keeps | with_reducible apply commitOpt_keeps | with_reducible apply ite_keeps | with_reducible apply ite_keeps_fst | with_reducible apply foldl_keeps | with_reducible apply foldl_keeps_fst | (intro _; try beta_reduce) | split | extract_lets | (dsimp +zetaDelta only; split) | (with_reducible apply Keeps.lit <;> first | rfl | skip)

theorem commitImage_keeps (x : Nat) (r : State × Bool) (p : Nat × JEntry) (hK : Keeps a0 r.1) : Keeps a0 (commitImage x r p).1 := by
  unfold commitImage
  try extract_lets
  repeat' first | with_reducible assumption | with_reducible apply landImage_keeps | (intro _; try beta_reduce) | split | extract_lets | (dsimp +zetaDelta only; split)

theorem commitImages_keeps (hK : Keeps a0 s) (x : Nat) : Keeps a0 (commitImages s x).1 := by
  unfold commitImages
  try extract_lets
  repeat' first | with_reducible assumption | with_reducible apply commitImage_keeps | with_reducible apply foldl_keeps | with_reducible apply foldl_keeps_fst | (intro _; try beta_reduce) | extract_lets

theorem emptyJournal_keeps (hK : Keeps a0 s) (x : Nat) : Keeps a0 (emptyJournal s x) := by
  unfold emptyJournal
  iterate 30 all_goals try first | with_reducible assumption | with_reducible apply refreshUsed_keeps | with_reducible apply modCtx_keeps | (intro _; try beta_reduce) | (with_reducible apply Keeps.lit <;> first | rfl | skip)

theorem commitStep_keeps (hK : Keeps a0 s) (o : OutCmd) (cut : List (Nat × SpareUnit)) : Keeps a0 (commitStep s o cut).1 := by
  unfold commitStep
  try extract_lets
  repeat' first | with_reducible assumption | with_reducible apply zeroAccs_keeps | with_reducible apply commitEntry_keeps | with_reducible apply commitImages_keeps | with_reducible apply emptyJournal_keeps | with_reducible apply setReg_keeps | with_reducible apply modCtx_keeps | with_reducible apply addReport_keeps | with_reducible apply commitScales_keeps | with_reducible apply advanceVersion_keeps | with_reducible apply ite_keeps | with_reducible apply ite_keeps_fst | with_reducible apply foldl_keeps | with_reducible apply foldl_keeps_fst | (intro _; try beta_reduce) | split | extract_lets | (dsimp +zetaDelta only; split) | (with_reducible apply Keeps.lit <;> first | rfl | skip)

theorem voidStep_keeps (hK : Keeps a0 s) (o : OutCmd) : Keeps a0 (voidStep s o) := by
  unfold voidStep
  iterate 30 all_goals try first | with_reducible assumption | with_reducible apply zeroAccs_keeps | with_reducible apply bump_keeps | with_reducible apply emptyJournal_keeps | with_reducible apply clearAmax_keeps

theorem mapLoadStep_keeps (hK : Keeps a0 s) (o : OutCmd) : Keeps a0 (mapLoadStep s o) := by
  unfold mapLoadStep
  try extract_lets
  iterate 30 all_goals try first | with_reducible assumption | with_reducible apply zeroAccs_keeps | with_reducible apply clearAmax_keeps | with_reducible apply modCtx_keeps | with_reducible apply ite_keeps_fst | (intro _; try beta_reduce) | extract_lets | (with_reducible apply Keeps.lit <;> first | rfl | skip)

theorem makeLive_keeps (hK : Keeps a0 s) (x : Nat) : Keeps a0 (makeLive s x) := by
  unfold makeLive
  iterate 30 all_goals try first | with_reducible assumption | with_reducible apply advanceEpoch_keeps | with_reducible apply setAdp_keeps | with_reducible apply foldl_keeps | with_reducible apply foldl_keeps_fst | with_reducible apply ite_keeps_fst | (intro _; try beta_reduce) | (with_reducible apply Keeps.lit <;> first | rfl | skip)

theorem retireDue_keeps (hK : Keeps a0 s) (x : Nat) : Keeps a0 (retireDue s x) := by
  unfold retireDue
  try extract_lets
  iterate 30 all_goals try first | with_reducible assumption | with_reducible apply retireNow_keeps | with_reducible apply foldl_keeps | with_reducible apply foldl_keeps_fst | (intro _; try beta_reduce) | extract_lets

theorem admitDue_keeps (hK : Keeps a0 s) (x : Nat) (lost : List Nat) : Keeps a0 (admitDue s x lost) := by
  unfold admitDue
  iterate 30 all_goals try first | with_reducible assumption | with_reducible apply performAdmit_keeps | (intro _; try beta_reduce) | split | (with_reducible apply Keeps.lit <;> first | rfl | skip)

theorem ageCommands_keeps (hK : Keeps a0 s) (o : OutCmd) : Keeps a0 (ageCommands s o) := by
  unfold ageCommands
  try extract_lets
  repeat' first | with_reducible assumption | with_reducible apply modCtx_keeps | with_reducible apply ite_keeps | with_reducible apply ite_keeps_fst | with_reducible apply foldl_keeps | with_reducible apply foldl_keeps_fst | (intro _; try beta_reduce) | split | extract_lets | (dsimp +zetaDelta only; split) | (with_reducible apply Keeps.lit <;> first | rfl | skip)

theorem nextRecord_keeps (hK : Keeps a0 s) (o : OutCmd) : Keeps a0 (nextRecord s o) := by
  unfold nextRecord
  try extract_lets
  repeat' first | with_reducible assumption | with_reducible apply ageCommands_keeps | with_reducible apply setReg_keeps | with_reducible apply modCtx_keeps | with_reducible apply ite_keeps | with_reducible apply ite_keeps_fst | with_reducible apply foldl_keeps | with_reducible apply foldl_keeps_fst | (intro _; try beta_reduce) | split | extract_lets | (dsimp +zetaDelta only; split) | (with_reducible apply Keeps.lit <;> first | rfl | skip)

theorem takeVerdicts_keeps (hK : Keeps a0 s) (g : Nat) (ps : List Nat) : Keeps a0 (takeVerdicts s g ps) := by
  unfold takeVerdicts
  iterate 30 all_goals try first | with_reducible assumption | with_reducible apply foldl_keeps | with_reducible apply foldl_keeps_fst | with_reducible apply ite_keeps_fst | (intro _; try beta_reduce) | (with_reducible apply Keeps.lit <;> first | rfl | skip)

theorem sendVerdict_keeps (hK : Keeps a0 s) (o : OutCmd) (finite : Bool) : Keeps a0 (sendVerdict s o finite) := by
  unfold sendVerdict
  try extract_lets
  repeat' first | with_reducible assumption | with_reducible apply sendMessage_keeps | with_reducible apply ite_keeps | with_reducible apply ite_keeps_fst | with_reducible apply foldl_keeps | with_reducible apply foldl_keeps_fst | (intro _; try beta_reduce) | split | extract_lets | (dsimp +zetaDelta only; split)

theorem verdictArrives_keeps (hK : Keeps a0 s) (g p : Nat) (counter : Word) (finite : Bool) : Keeps a0 (verdictArrives s g p counter finite) := by
  unfold verdictArrives
  iterate 30 all_goals try first | with_reducible assumption | (with_reducible apply Keeps.lit <;> first | rfl | skip)

theorem rebuildNow_keeps (hK : Keeps a0 s) (k : Nat) : Keeps a0 (rebuildNow s k) := by
  unfold rebuildNow
  try extract_lets
  iterate 30 all_goals try first | with_reducible assumption | with_reducible apply ite_keeps | with_reducible apply buildPass_keeps | with_reducible apply setAdp_keeps | with_reducible apply ite_keeps_fst | (intro _; try beta_reduce) | split | extract_lets | (with_reducible apply Keeps.lit <;> first | rfl | skip)

theorem writeRecords_keeps (hK : Keeps a0 s) (o : OutCmd) (rs : List Nat) : Keeps a0 (writeRecords s o rs).1 := by
  unfold writeRecords
  try extract_lets
  iterate 30 all_goals try first | with_reducible assumption | with_reducible apply storeOut_keeps | with_reducible apply bumpBy_keeps | with_reducible apply ite_keeps_fst | (intro _; try beta_reduce) | extract_lets

theorem clearSets_keeps (hK : Keeps a0 s) (x : Nat) (ps : List (Nat × Nat)) : Keeps a0 (clearSets s x ps) := by
  unfold clearSets
  iterate 30 all_goals try first | with_reducible assumption | with_reducible apply modCtx_keeps | with_reducible apply foldl_keeps | with_reducible apply foldl_keeps_fst | with_reducible apply ite_keeps_fst | (intro _; try beta_reduce) | (with_reducible apply Keeps.lit <;> first | rfl | skip)

theorem runAssayRead_keeps (hK : Keeps a0 s) (o : OutCmd) : Keeps a0 (runAssayRead s o) := by
  unfold runAssayRead
  try extract_lets
  iterate 30 all_goals try first | with_reducible assumption | with_reducible apply writeRecords_keeps | with_reducible apply complete_keeps | with_reducible apply ite_keeps_fst | extract_lets

theorem runAssayClear_keeps (hK : Keeps a0 s) (o : OutCmd) : Keeps a0 (runAssayClear s o) := by
  unfold runAssayClear
  iterate 30 all_goals try first | with_reducible assumption | with_reducible apply complete_keeps | with_reducible apply clearSets_keeps

theorem runAssayReadClear_keeps (hK : Keeps a0 s) (o : OutCmd) : Keeps a0 (runAssayReadClear s o) := by
  unfold runAssayReadClear
  try extract_lets
  iterate 30 all_goals try first | with_reducible assumption | with_reducible apply writeRecords_keeps | with_reducible apply complete_keeps | with_reducible apply clearSets_keeps | with_reducible apply ite_keeps_fst | extract_lets

theorem runCtxRead_keeps (hK : Keeps a0 s) (o : OutCmd) : Keeps a0 (runCtxRead s o) := by
  unfold runCtxRead
  try extract_lets
  iterate 30 all_goals try first | with_reducible assumption | with_reducible apply writeRecords_keeps | with_reducible apply complete_keeps | with_reducible apply ite_keeps_fst | extract_lets

theorem setProg_keeps (hK : Keeps a0 s) (x p : Nat) (v : Option Prog) : Keeps a0 (setProg s x p v) := by
  unfold setProg
  iterate 30 all_goals try first | with_reducible assumption | with_reducible apply modCtx_keeps | (intro _; try beta_reduce) | (with_reducible apply Keeps.lit <;> first | rfl | skip)

theorem runInvoke_keeps (hK : Keeps a0 s) (o : OutCmd) : Keeps a0 (runInvoke s o) := by
  unfold runInvoke
  iterate 30 all_goals try first | with_reducible assumption | with_reducible apply putOut_keeps | with_reducible apply complete_keeps | split | (with_reducible apply Keeps.lit <;> first | rfl | skip)

theorem runRegister_keeps (hK : Keeps a0 s) (o : OutCmd) : Keeps a0 (runRegister s o) := by
  unfold runRegister
  try extract_lets
  iterate 30 all_goals try first | with_reducible assumption | with_reducible apply complete_keeps | with_reducible apply advanceEpoch_keeps | with_reducible apply setProg_keeps | extract_lets

theorem releaseNow_keeps (hK : Keeps a0 s) (o : OutCmd) : Keeps a0 (releaseNow s o) := by
  unfold releaseNow
  iterate 30 all_goals try first | with_reducible assumption | with_reducible apply complete_keeps | with_reducible apply advanceEpoch_keeps | with_reducible apply setProg_keeps

theorem runCallRelease_keeps (hK : Keeps a0 s) (o : OutCmd) : Keeps a0 (runCallRelease s o) := by
  unfold runCallRelease
  iterate 30 all_goals try first | with_reducible assumption | with_reducible apply ite_keeps | with_reducible apply putOut_keeps | with_reducible apply releaseNow_keeps | (intro _; try beta_reduce) | split | (with_reducible apply Keeps.lit <;> first | rfl | skip)

theorem advanceRelease_keeps (hK : Keeps a0 s) (o : OutCmd) (h : advanceRelease s o = some t) : Keeps a0 t := by
  unfold advanceRelease at h
  split at h
  · cases h
  · cases h
    exact releaseNow_keeps hK _

theorem endDetail_keeps (hK : Keeps a0 s) (o : OutCmd) : Keeps a0 (endDetail s o).2 := by
  unfold endDetail
  repeat' first | with_reducible assumption | with_reducible apply draw_keeps | (intro _; try beta_reduce) | split | (dsimp +zetaDelta only; split)

theorem endPlain_keeps (hK : Keeps a0 s) (o : OutCmd) (st : Nat) : Keeps a0 (endPlain s o st) := by
  unfold endPlain
  try extract_lets
  iterate 30 all_goals try first | with_reducible assumption | with_reducible apply endDetail_keeps | with_reducible apply complete_keeps | with_reducible apply ite_keeps_fst | extract_lets

theorem sideEnd_keeps (hK : Keeps a0 s) (o : OutCmd) : Keeps a0 (sideEnd s o) := by
  unfold sideEnd
  try extract_lets
  repeat' first | with_reducible assumption | with_reducible apply collLost_keeps | with_reducible apply markUnread_keeps | with_reducible apply clAbandon_keeps | with_reducible apply dropStream_keeps | with_reducible apply ite_keeps | with_reducible apply ite_keeps_fst | (intro _; try beta_reduce) | split | extract_lets | (dsimp +zetaDelta only; split)

theorem refuseCmd_keeps (hK : Keeps a0 s) (o : OutCmd) (st : Nat) : Keeps a0 (refuseCmd s o st) := by
  unfold refuseCmd
  iterate 30 all_goals try first | with_reducible assumption | with_reducible apply ite_keeps | with_reducible apply endPlain_keeps | with_reducible apply clAbandon_keeps | (intro _; try beta_reduce) | split

theorem endCommand_keeps (hK : Keeps a0 s) (o : OutCmd) (st : Nat) : Keeps a0 (endCommand s o st) := by
  unfold endCommand
  try extract_lets
  iterate 30 all_goals try first | with_reducible assumption | with_reducible apply ite_keeps | with_reducible apply markOutcome_keeps | with_reducible apply dropOut_keeps | with_reducible apply sideEnd_keeps | with_reducible apply endPlain_keeps | with_reducible apply nextCut_keeps | with_reducible apply foldl_keeps | with_reducible apply foldl_keeps_fst | (intro _; try beta_reduce) | split | extract_lets

theorem endAll_keeps (hK : Keeps a0 s) (st : Nat) (idents : List Nat) : Keeps a0 (endAll s st idents) := by
  unfold endAll
  iterate 30 all_goals try first | with_reducible assumption | with_reducible apply endCommand_keeps | with_reducible apply foldl_keeps | with_reducible apply foldl_keeps_fst | (intro _; try beta_reduce) | split | (with_reducible apply Keeps.lit <;> first | rfl | skip)

theorem abortOthers_keeps (hK : Keeps a0 s) (o : OutCmd) : Keeps a0 (abortOthers s o) := by
  unfold abortOthers
  try extract_lets
  iterate 30 all_goals try first | with_reducible assumption | with_reducible apply endAll_keeps | (intro _; try beta_reduce) | split | extract_lets | (dsimp +zetaDelta only; split) | (with_reducible apply Keeps.lit <;> first | rfl | skip)

theorem runRestore_keeps (hK : Keeps a0 s) (failsAt : Option Nat) (o : OutCmd) : Keeps a0 (runRestore failsAt s o) := by
  unfold runRestore
  try extract_lets
  iterate 30 all_goals try first | with_reducible assumption | with_reducible apply abortOthers_keeps | with_reducible apply restoreWith_keeps | extract_lets

theorem runRestoreFrom_keeps (hK : Keeps a0 s) (o : OutCmd) : Keeps a0 (runRestoreFrom s o) := by
  unfold runRestoreFrom
  iterate 30 all_goals try first | with_reducible assumption | with_reducible apply putOut_keeps | with_reducible apply abortOthers_keeps | (with_reducible apply Keeps.lit <;> first | rfl | skip)

theorem supplyRestore_keeps (hK : Keeps a0 s) (o : OutCmd) (parts : List SnapPart) (lost : Bool) : Keeps a0 (supplyRestore s o parts lost) := by
  unfold supplyRestore
  iterate 30 all_goals try first | with_reducible assumption | with_reducible apply ite_keeps | with_reducible apply complete_keeps | with_reducible apply restoreWith_keeps | (intro _; try beta_reduce) | split | (with_reducible apply Keeps.lit <;> first | rfl | skip)

theorem runOp_keeps (hK : Keeps a0 s) (op : RingOp) (o : OutCmd) : Keeps a0 (runOp op s o) := by
  unfold runOp
  repeat' first | with_reducible assumption | with_reducible apply runAdmit_keeps | with_reducible apply runMma_keeps | with_reducible apply runFwd_keeps | with_reducible apply runCombine_keeps | with_reducible apply runAppend_keeps | with_reducible apply runBwd_keeps | with_reducible apply runStep_keeps | with_reducible apply runInvoke_keeps | with_reducible apply runRegister_keeps | with_reducible apply runCallRelease_keeps | with_reducible apply runColl_keeps | with_reducible apply runTopk_keeps | with_reducible apply runDistill_keeps | with_reducible apply runRestore_keeps | with_reducible apply runRestoreFrom_keeps | with_reducible apply runCopy_keeps | with_reducible apply runZero_keeps | with_reducible apply runPin_keeps | with_reducible apply runUnpin_keeps | with_reducible apply runPlanes_keeps | with_reducible apply runMoveRelease_keeps | with_reducible apply runScaleSet_keeps | with_reducible apply runOpt_keeps | with_reducible apply runTake_keeps | with_reducible apply runSync_keeps | with_reducible apply runAssayRead_keeps | with_reducible apply runAssayClear_keeps | with_reducible apply runAssayReadClear_keeps | with_reducible apply runCtxRead_keeps | with_reducible apply runVec_keeps | with_reducible apply runNormBwd_keeps | (intro _; try beta_reduce) | split | (dsimp +zetaDelta only; split)

theorem beginEmbers_keeps (hK : Keeps a0 s) (o : OutCmd) : Keeps a0 (beginEmbers s o) := by
  unfold beginEmbers
  repeat' first | with_reducible assumption | with_reducible apply emberBegin_keeps | with_reducible apply ite_keeps | with_reducible apply ite_keeps_fst | with_reducible apply foldl_keeps | with_reducible apply foldl_keeps_fst | (intro _; try beta_reduce) | split | (dsimp +zetaDelta only; split)

theorem countHolds_keeps (hK : Keeps a0 s) (o : OutCmd) : Keeps a0 (countHolds s o).1 := by
  unfold countHolds
  try extract_lets
  repeat' first | with_reducible assumption | with_reducible apply putOut_keeps | with_reducible apply bumpBy_keeps | with_reducible apply bump_keeps | with_reducible apply ite_keeps | with_reducible apply ite_keeps_fst | (intro _; try beta_reduce) | split | extract_lets | (dsimp +zetaDelta only; split) | (with_reducible apply Keeps.lit <;> first | rfl | skip)

theorem countBypass_keeps (hK : Keeps a0 s) (o : OutCmd) : Keeps a0 (countBypass s o) := by
  unfold countBypass
  try extract_lets
  repeat' first | with_reducible assumption | with_reducible apply bumpBy_keeps | with_reducible apply ite_keeps | with_reducible apply ite_keeps_fst | (intro _; try beta_reduce) | split | extract_lets | (dsimp +zetaDelta only; split)

theorem enrol_keeps (hK : Keeps a0 s) (o : OutCmd) : Keeps a0 (enrol s o).1 := by
  unfold enrol
  try extract_lets
  repeat' first | with_reducible assumption | with_reducible apply addOut_keeps | with_reducible apply clTakeNumber_keeps | with_reducible apply modCtx_keeps | with_reducible apply ite_keeps | with_reducible apply ite_keeps_fst | (intro _; try beta_reduce) | split | extract_lets | (dsimp +zetaDelta only; split) | (with_reducible apply Keeps.lit <;> first | rfl | skip)

theorem passHead_keeps (hK : Keeps a0 s) (x : Nat) (n : Nat) : Keeps a0 (passHead s x n) := by
  unfold passHead
  try extract_lets
  repeat' first | with_reducible assumption | with_reducible apply refreshBusy_keeps | with_reducible apply setRf_keeps | with_reducible apply modRing_keeps | (intro _; try beta_reduce) | extract_lets | (with_reducible apply Keeps.lit <;> first | rfl | skip)

theorem takeCmd_keeps (hK : Keeps a0 s) (x n : Nat) (d0 : Desc) : Keeps a0 (takeCmd s x n d0).1 := by
  unfold takeCmd
  iterate 30 all_goals try first | with_reducible assumption | with_reducible apply enrol_keeps | with_reducible apply passHead_keeps

theorem beginWant_keeps (hK : Keeps a0 s) (x : Nat) (w : Nat × Nat) : Keeps a0 (beginWant x s w) := by
  unfold beginWant
  repeat' first | with_reducible assumption | with_reducible apply emberBegin_keeps | (intro _; try beta_reduce) | split | (dsimp +zetaDelta only; split)

theorem beginWants_keeps (hK : Keeps a0 s) (x : Nat) : Keeps a0 (beginWants s x) := by
  unfold beginWants
  repeat' first | with_reducible assumption | with_reducible apply beginWant_keeps | with_reducible apply modCtx_keeps | with_reducible apply foldl_keeps | with_reducible apply foldl_keeps_fst | (intro _; try beta_reduce) | (with_reducible apply Keeps.lit <;> first | rfl | skip)

theorem strike_keeps (hK : Keeps a0 s) (ev : List ArrEvent) : Keeps a0 (strike s ev) := by
  unfold strike
  repeat' first | with_reducible assumption | (intro _; try beta_reduce) | (with_reducible apply Keeps.lit <;> first | rfl | skip)

theorem withHalt_keeps (hK : Keeps a0 s) (cut : Option Nat) (act : State → State) (hact : ∀ q, Keeps a0 q → Keeps a0 (act q)) : Keeps a0 (withHalt cut act s) := by
  unfold withHalt
  repeat' first | with_reducible assumption | with_reducible apply hact | (intro _; try beta_reduce) | split | (dsimp +zetaDelta only; split) | (with_reducible apply Keeps.lit <;> first | rfl | skip)

end Sys2Proof.Laws
end

