-- ==== Sys2Proof/Laws/KeepsEvents.lean ====
section
/-! SUPPORT. Scheduling, faults, contexts, the BARs, tiers and peer links keep what Keeps says. -/

namespace Sys2Proof.Laws

open Sys2Proof.Machine

set_option linter.unusedTactic false
set_option linter.unreachableTactic false
set_option linter.unusedVariables false

variable {a0 s t : State}

theorem requestFails_keeps (hK : Keeps a0 s) (x a cmd : Nat) : Keeps a0 (requestFails s x a cmd) := by
  unfold requestFails
  iterate 30 all_goals try first | with_reducible assumption | with_reducible apply tierFailed_keeps

theorem importNow_keeps (hK : Keeps a0 s) (x : Nat) (q : AdpReq) : Keeps a0 (importNow s x q) := by
  unfold importNow
  try extract_lets
  repeat' first | with_reducible assumption | with_reducible apply requestFailed_keeps | with_reducible apply buildAdapter_keeps | with_reducible apply backPlan_keeps | with_reducible apply storeCells_keeps | with_reducible apply requestFails_keeps | with_reducible apply ite_keeps | with_reducible apply ite_keeps_fst | (intro _; try beta_reduce) | split | extract_lets | (dsimp +zetaDelta only; split) | (with_reducible apply Keeps.lit <;> first | rfl | skip)

theorem exportNow_keeps (hK : Keeps a0 s) (x : Nat) (q : AdpReq) : Keeps a0 (exportNow s x q) := by
  unfold exportNow
  try extract_lets
  repeat' first | with_reducible assumption | with_reducible apply setAdpKey_keeps | with_reducible apply finishRequest_keeps | with_reducible apply storeOut_keeps | with_reducible apply backPlan_keeps | with_reducible apply draw_keeps | with_reducible apply requestFails_keeps | with_reducible apply ite_keeps | with_reducible apply ite_keeps_fst | (intro _; try beta_reduce) | split | extract_lets | (dsimp +zetaDelta only; split) | (with_reducible apply Keeps.lit <;> first | rfl | skip)

theorem outgoingArchives_keeps (hK : Keeps a0 s) (x : Nat) : Keeps a0 (outgoingArchives s x) := by
  unfold outgoingArchives
  try extract_lets
  iterate 30 all_goals try first | with_reducible assumption | with_reducible apply exportNow_keeps | with_reducible apply foldl_keeps | with_reducible apply foldl_keeps_fst | (intro _; try beta_reduce) | extract_lets

theorem finishBoundary_keeps (hK : Keeps a0 s) (o : OutCmd) (status : Nat) (cause : Nat) (lost : List Nat) : Keeps a0 (finishBoundary s o status cause lost) := by
  unfold finishBoundary
  try extract_lets
  repeat' first | with_reducible assumption | with_reducible apply readAdapterTable_keeps | with_reducible apply makeLive_keeps | with_reducible apply retireDue_keeps | with_reducible apply outgoingArchives_keeps | with_reducible apply admitDue_keeps | with_reducible apply nextRecord_keeps | with_reducible apply complete_keeps | with_reducible apply writeEvent_keeps | with_reducible apply ite_keeps | with_reducible apply ite_keeps_fst | (intro _; try beta_reduce) | split | extract_lets | (dsimp +zetaDelta only; split) | (with_reducible apply Keeps.lit <;> first | rfl | skip)

theorem afterRebuild_keeps (hK : Keeps a0 s) (o : OutCmd) (status : Nat) (lost : List Nat) : Keeps a0 (afterRebuild s o status lost) := by
  unfold afterRebuild
  iterate 30 all_goals try first | with_reducible assumption | with_reducible apply finishBoundary_keeps | with_reducible apply cutAtCommit_keeps

theorem decideStep_keeps (hK : Keeps a0 s) (o : OutCmd) (cause : Nat) (lost : List Nat) (cut : List (Nat × SpareUnit)) : Keeps a0 (decideStep s o cause lost cut) := by
  unfold decideStep
  try extract_lets
  iterate 30 all_goals try first | with_reducible assumption | with_reducible apply ite_keeps | with_reducible apply finishBoundary_keeps | with_reducible apply voidStep_keeps | with_reducible apply mapLoadStep_keeps | with_reducible apply commitStep_keeps | with_reducible apply putOut_keeps | with_reducible apply afterRebuild_keeps | with_reducible apply ite_keeps_fst | (intro _; try beta_reduce) | split | extract_lets | (with_reducible apply Keeps.lit <;> first | rfl | skip)

theorem groupDecides_keeps (hK : Keeps a0 s) (o : OutCmd) (cause : Nat) (lost : List Nat) (cut : List (Nat × SpareUnit)) : Keeps a0 (groupDecides s o cause lost cut) := by
  unfold groupDecides
  try extract_lets
  iterate 30 all_goals try first | with_reducible assumption | with_reducible apply ite_keeps | with_reducible apply takeVerdicts_keeps | with_reducible apply decideStep_keeps | with_reducible apply setRemotePoisoned_keeps | with_reducible apply ite_keeps_fst | (intro _; try beta_reduce) | split | extract_lets

theorem checkStep_keeps (hK : Keeps a0 s) (o : OutCmd) (lost : List Nat) (cut : List (Nat × SpareUnit)) : Keeps a0 (checkStep s o lost cut) := by
  unfold checkStep
  try extract_lets
  repeat' first | with_reducible assumption | with_reducible apply decideStep_keeps | with_reducible apply groupDecides_keeps | with_reducible apply sendVerdict_keeps | with_reducible apply putOut_keeps | with_reducible apply complete_keeps | with_reducible apply ite_keeps | with_reducible apply ite_keeps_fst | (intro _; try beta_reduce) | split | extract_lets | (dsimp +zetaDelta only; split) | (with_reducible apply Keeps.lit <;> first | rfl | skip)

theorem boundaryNow_keeps (hK : Keeps a0 s) (x : Nat) (lost : List Nat) (cut : List (Nat × SpareUnit)) : Keeps a0 (boundaryNow s x lost cut) := by
  unfold boundaryNow
  iterate 30 all_goals try first | with_reducible assumption | with_reducible apply ite_keeps | with_reducible apply checkStep_keeps | with_reducible apply groupDecides_keeps | with_reducible apply afterRebuild_keeps | with_reducible apply ite_keeps_fst | (intro _; try beta_reduce) | split | (with_reducible apply Keeps.lit <;> first | rfl | skip)

theorem groupTimeout_keeps (hK : Keeps a0 s) (x : Nat) : Keeps a0 (groupTimeout s x) := by
  unfold groupTimeout
  iterate 30 all_goals try first | with_reducible assumption | with_reducible apply ite_keeps | with_reducible apply decideStep_keeps | with_reducible apply setRemotePoisoned_keeps | with_reducible apply takeVerdicts_keeps | (intro _; try beta_reduce) | split | (with_reducible apply Keeps.lit <;> first | rfl | skip)

theorem startCmd_keeps (hK : Keeps a0 s) (run : State → OutCmd → State) (o : OutCmd) (hrun : ∀ q o, Keeps a0 q → Keeps a0 (run q o)) : Keeps a0 (startCmd run s o) := by
  unfold startCmd
  try extract_lets
  repeat' first | with_reducible assumption | with_reducible apply emberUse_keeps | with_reducible apply endCommand_keeps | with_reducible apply countBypass_keeps | with_reducible apply backPlan_keeps | with_reducible apply touchReads_keeps | with_reducible apply requestFails_keeps | with_reducible apply hrun | (intro _; try beta_reduce) | split | extract_lets | (dsimp +zetaDelta only; split)

theorem attempt_keeps (hK : Keeps a0 s) (run : State → OutCmd → State) (o : OutCmd) (hrun : ∀ q o, Keeps a0 q → Keeps a0 (run q o)) : Keeps a0 (attempt run s o) := by
  unfold attempt
  try extract_lets
  repeat' first | with_reducible assumption | with_reducible apply refuseCmd_keeps | with_reducible apply endCommand_keeps | with_reducible apply beginEmbers_keeps | with_reducible apply countHolds_keeps | with_reducible apply startCmd_keeps | with_reducible apply hrun | with_reducible apply ite_keeps | with_reducible apply ite_keeps_fst | (intro _; try beta_reduce) | split | extract_lets | (dsimp +zetaDelta only; split)

theorem accept_keeps (hK : Keeps a0 s) (run : State → OutCmd → State) (o : OutCmd) (hrun : ∀ q x0, Keeps a0 q → Keeps a0 (run q x0)) : Keeps a0 (accept run s o) := by
  unfold accept
  try extract_lets
  iterate 30 all_goals try first | with_reducible assumption | with_reducible apply ite_keeps | with_reducible apply missNow_keeps | with_reducible apply endCommand_keeps | with_reducible apply attempt_keeps | with_reducible apply ite_keeps_fst | with_reducible apply hrun | (intro _; try beta_reduce) | split | extract_lets

theorem readCmd_keeps (hK : Keeps a0 s) (run : State → OutCmd → State) (x n : Nat) (d0 : Desc) (hrun : ∀ q x0, Keeps a0 q → Keeps a0 (run q x0)) : Keeps a0 (readCmd run s x n d0) := by
  unfold readCmd
  try extract_lets
  iterate 30 all_goals try first | with_reducible assumption | with_reducible apply ite_keeps | with_reducible apply takeCmd_keeps | with_reducible apply endCommand_keeps | with_reducible apply accept_keeps | with_reducible apply ite_keeps_fst | with_reducible apply hrun | (intro _; try beta_reduce) | split | extract_lets

theorem nextChild_keeps (hK : Keeps a0 s) (c : OutCmd) (h : nextChild s c = some t) : Keeps a0 t := by
  unfold nextChild at h
  split at h
  · split at h
    · cases h
    · extract_lets d s' r at h
      split at h
      · cases h
      · cases h
        exact accept_keeps (enrol_keeps (putOut_keeps hK _) _) _ _ fun q x hq => runOp_keeps hq _ _
  · cases h

theorem advanceOne_keeps (hK : Keeps a0 s) (o : OutCmd) (h : advanceOne s o = some t) : Keeps a0 t := by
  unfold advanceOne at h
  split at h
  · exact advanceSync_keeps hK _ h
  · exact advanceSync_keeps hK _ h
  · exact advanceRelease_keeps hK _ h
  · exact nextChild_keeps hK _ h
  · split at h
    · cases h
      exact attempt_keeps hK _ _ (fun q x hq => runOp_keeps hq _ _)
    · cases h
  · cases h

theorem settleN_keeps (n : Nat) (hK : Keeps a0 s) : Keeps a0 (settleN n s) := by
  induction n generalizing s with
  | zero => exact hK
  | succ n ih =>
    unfold settleN
    split
    · exact hK
    · rename_i u hu
      obtain ⟨o, -, ho⟩ := List.exists_of_findSome?_eq_some hu
      exact ih (advanceOne_keeps hK o ho)

theorem loseEmber_keeps (hK : Keeps a0 s) (x : Nat) (o : EmberObj) : Keeps a0 (loseEmber x s o) := by
  unfold loseEmber
  try extract_lets
  iterate 30 all_goals try first | with_reducible assumption | with_reducible apply ite_keeps | with_reducible apply emberPages_keeps | with_reducible apply modEmber_keeps | with_reducible apply setAdp_keeps | with_reducible apply loseExtent_keeps | (intro _; try beta_reduce) | split | extract_lets | (dsimp +zetaDelta only; split) | (with_reducible apply Keeps.lit <;> first | rfl | skip)

theorem returnEmbers_keeps (hK : Keeps a0 s) : Keeps a0 (returnEmbers s) := by
  unfold returnEmbers
  repeat' first | with_reducible assumption | with_reducible apply loseEmber_keeps | with_reducible apply foldl_keeps | with_reducible apply foldl_keeps_fst | (intro _; try beta_reduce)

theorem settle_keeps (hK : Keeps a0 s) : Keeps a0 (settle s) := by
  unfold settle
  try extract_lets
  repeat' first | with_reducible assumption | with_reducible apply eraseDue_keeps | with_reducible apply beginWants_keeps | with_reducible apply returnEmbers_keeps | with_reducible apply settleN_keeps | with_reducible apply ite_keeps | with_reducible apply ite_keeps_fst | with_reducible apply foldl_keeps | with_reducible apply foldl_keeps_fst | (intro _; try beta_reduce) | split | extract_lets | (dsimp +zetaDelta only; split)

theorem ringRow_keeps (hK : Keeps a0 s) (op : RingOp) (run : State → OutCmd → State) (c : Cmd) (hrun : ∀ q x0, Keeps a0 q → Keeps a0 (run q x0)) : Keeps a0 (ringRow op run c s) := by
  unfold ringRow
  iterate 30 all_goals try first | with_reducible assumption | with_reducible apply ite_keeps | with_reducible apply settle_keeps | with_reducible apply readCmd_keeps | with_reducible apply hrun | (intro _; try beta_reduce) | split

theorem restoreRow_keeps (hK : Keeps a0 s) (c : Cmd) (parts : List SnapPart) (lost : Bool) : Keeps a0 (restoreRow c parts lost s) := by
  unfold restoreRow
  iterate 30 all_goals try first | with_reducible assumption | with_reducible apply settle_keeps | with_reducible apply supplyRestore_keeps | with_reducible apply ringRow_keeps | with_reducible apply abortOthers_keeps | (intro _; try beta_reduce) | split | (with_reducible apply Keeps.lit <;> first | rfl | skip)

theorem missAt_keeps (hK : Keeps a0 s) (o : OutCmd) : Keeps a0 (missAt s o) := by
  unfold missAt
  try extract_lets
  repeat' first | with_reducible assumption | with_reducible apply missNow_keeps | with_reducible apply endCommand_keeps | with_reducible apply ite_keeps | with_reducible apply ite_keeps_fst | (intro _; try beta_reduce) | split | extract_lets | (dsimp +zetaDelta only; split)

theorem gated_keeps (hK : Keeps a0 s) (tee : Bool) (act : State → State) (hact : ∀ q, Keeps a0 q → Keeps a0 (act q)) : Keeps a0 (gated s tee act) := by
  unfold gated
  iterate 30 all_goals try first | with_reducible assumption | with_reducible apply bump_keeps | with_reducible apply hact | split | (with_reducible apply Keeps.lit <;> first | rfl | skip)

theorem cancelRing_keeps (hK : Keeps a0 s) (x n value mask : Nat) : Keeps a0 (cancelRing s x n value mask) := by
  unfold cancelRing
  try extract_lets
  iterate 30 all_goals try first | with_reducible assumption | with_reducible apply ite_keeps | with_reducible apply endCommand_keeps | with_reducible apply modRing_keeps | with_reducible apply foldl_keeps | with_reducible apply foldl_keeps_fst | (intro _; try beta_reduce) | split | extract_lets | (dsimp +zetaDelta only; split) | (with_reducible apply Keeps.lit <;> first | rfl | skip)

theorem setBudget_keeps (hK : Keeps a0 s) (p b : Nat) : Keeps a0 (setBudget s p b) := by
  unfold setBudget
  iterate 30 all_goals try first | with_reducible assumption | with_reducible apply setRf_keeps

theorem rampOnce_keeps (hK : Keeps a0 s) (p : Nat) : Keeps a0 (rampOnce s p) := by
  unfold rampOnce
  try extract_lets
  repeat' first | with_reducible assumption | with_reducible apply setArr_keeps | with_reducible apply setBudget_keeps | with_reducible apply ite_keeps | with_reducible apply ite_keeps_fst | (intro _; try beta_reduce) | split | extract_lets | (dsimp +zetaDelta only; split) | (with_reducible apply Keeps.lit <;> first | rfl | skip)

theorem failPackage_keeps (hK : Keeps a0 s) : Keeps a0 (failPackage s) := by
  unfold failPackage
  iterate 30 all_goals try first | with_reducible assumption | (with_reducible apply Keeps.lit <;> first | rfl | skip)

theorem putLog_keeps (hK : Keeps a0 s) (t : Nat) (e : Event) : Keeps a0 (putLog s t e) := by
  unfold putLog
  try extract_lets
  iterate 30 all_goals try first | with_reducible assumption | with_reducible apply storeBytes_keeps | with_reducible apply setRf_keeps | extract_lets

theorem logRecord_keeps (hK : Keeps a0 s) (e : MergeEntry) : Keeps a0 (logRecord s e) := by
  unfold logRecord
  try extract_lets
  iterate 30 all_goals try first | with_reducible assumption | with_reducible apply ite_keeps | with_reducible apply putLog_keeps | with_reducible apply bumpBy_keeps | (intro _; try beta_reduce) | split | extract_lets | (with_reducible apply Keeps.lit <;> first | rfl | skip)

theorem faultNotice_keeps (hK : Keeps a0 s) (e : MergeEntry) : Keeps a0 (faultNotice s e) := by
  unfold faultNotice
  iterate 30 all_goals try first | with_reducible assumption | with_reducible apply ite_keeps | with_reducible apply emit_keeps | (intro _; try beta_reduce) | split

theorem deliverFault_keeps (hK : Keeps a0 s) (e : MergeEntry) : Keeps a0 (deliverFault s e) := by
  unfold deliverFault
  extract_lets s1 s2 s3 s3' s4
  have h1 : Keeps a0 s1 := by
    unfold s1
    split
    · exact writeEventAt_keeps (bump_keeps hK _) _ _ _
    · exact hK
  have h2 : Keeps a0 s2 := logRecord_keeps h1 _
  have h3 : Keeps a0 s3 := ite_keeps (fun _ => signalDevice_keeps h2) (fun _ => h2)
  have h4 : Keeps a0 s4 := by
    refine ite_keeps (fun _ => ?_) (fun _ => h3)
    with_reducible apply faultNotice_keeps
    exact Keeps.upd h3 rfl rfl rfl rfl rfl rfl rfl rfl rfl
  exact ite_keeps (fun _ => failPackage_keeps h4) (fun _ => h4)

theorem setStorm_keeps (hK : Keeps a0 s) (t : Storm) : Keeps a0 (setStorm s t) := by
  unfold setStorm
  iterate 30 all_goals try first | with_reducible assumption | (intro _; try beta_reduce) | (with_reducible apply Keeps.lit <;> first | rfl | skip)

theorem packageRecord_keeps (hK : Keeps a0 s) (e : MergeEntry) : Keeps a0 (packageRecord s e) := by
  unfold packageRecord
  try extract_lets
  iterate 30 all_goals try first | with_reducible assumption | with_reducible apply ite_keeps | with_reducible apply deliverFault_keeps | with_reducible apply setStorm_keeps | (intro _; try beta_reduce) | split | extract_lets | (with_reducible apply Keeps.lit <;> first | rfl | skip)

theorem passUp_keeps (hK : Keeps a0 s) (agg : Nat) : Keeps a0 (passUp s agg) := by
  unfold passUp
  try extract_lets
  iterate 30 all_goals try first | with_reducible assumption | with_reducible apply ite_keeps | with_reducible apply packageRecord_keeps | with_reducible apply addReport_keeps | (intro _; try beta_reduce) | split | extract_lets | (dsimp +zetaDelta only; split) | (with_reducible apply Keeps.lit <;> first | rfl | skip)

theorem stopEngines_keeps (hK : Keeps a0 s) (es : List Nat) : Keeps a0 (stopEngines s es) := by
  unfold stopEngines
  iterate 30 all_goals try first | with_reducible assumption | with_reducible apply endAll_keeps | (intro _; try beta_reduce)

theorem clusterFails_keeps (hK : Keeps a0 s) (c : Nat) : Keeps a0 (clusterFails s c) := by
  unfold clusterFails
  try extract_lets
  iterate 30 all_goals try first | with_reducible assumption | with_reducible apply ite_keeps | with_reducible apply stopEngines_keeps | with_reducible apply failCluster_keeps | (intro _; try beta_reduce) | split | extract_lets

theorem regionFails_keeps (hK : Keeps a0 s) (p : Nat) : Keeps a0 (regionFails s p) := by
  unfold regionFails
  try extract_lets
  iterate 30 all_goals try first | with_reducible assumption | with_reducible apply ite_keeps | with_reducible apply stopEngines_keeps | with_reducible apply failRegion_keeps | (intro _; try beta_reduce) | split | extract_lets

theorem dieFails_keeps (hK : Keeps a0 s) (die : Nat) : Keeps a0 (dieFails s die) := by
  unfold dieFails
  iterate 30 all_goals try first | with_reducible assumption | with_reducible apply failPackage_keeps | with_reducible apply report_keeps

theorem hubFails_keeps (hK : Keeps a0 s) (die : Nat) : Keeps a0 (hubFails s die) := by
  unfold hubFails
  try extract_lets
  iterate 30 all_goals try first | with_reducible assumption | with_reducible apply dieFails_keeps | extract_lets | (with_reducible apply Keeps.lit <;> first | rfl | skip)

theorem countErrors_keeps (hK : Keeps a0 s) (a : Nat) : Keeps a0 (countErrors s a) := by
  unfold countErrors
  try extract_lets
  iterate 30 all_goals try first | with_reducible assumption | with_reducible apply ite_keeps | with_reducible apply setArr_keeps | with_reducible apply clusterFails_keeps | with_reducible apply regionFails_keeps | (intro _; try beta_reduce) | split | extract_lets | (dsimp +zetaDelta only; split) | (with_reducible apply Keeps.lit <;> first | rfl | skip)

theorem patrolFinds_keeps (hK : Keeps a0 s) (store : Store) (line : Nat) (found : Ecc) : Keeps a0 (patrolFinds s store line found) := by
  unfold patrolFinds
  repeat' first | with_reducible assumption | with_reducible apply failPackage_keeps | with_reducible apply countErrors_keeps | with_reducible apply bump_keeps | with_reducible apply countBad_keeps | with_reducible apply report_keeps | with_reducible apply readCoded_keeps | with_reducible apply loseExtent_keeps | with_reducible apply ite_keeps | with_reducible apply ite_keeps_fst | (intro _; try beta_reduce) | split | (dsimp +zetaDelta only; split)

theorem clearEngine_keeps (hK : Keeps a0 s) (e : Nat) : Keeps a0 (clearEngine s e) := by
  unfold clearEngine
  repeat' first | with_reducible assumption | with_reducible apply setBanks_keeps | with_reducible apply ite_keeps | with_reducible apply ite_keeps_fst | (intro _; try beta_reduce) | split | (dsimp +zetaDelta only; split)

theorem engineUnitFails_keeps (hK : Keeps a0 s) (e : Nat) : Keeps a0 (engineUnitFails s e) := by
  unfold engineUnitFails
  repeat' first | with_reducible assumption | with_reducible apply clusterFails_keeps | with_reducible apply regionFails_keeps | with_reducible apply dieFails_keeps | with_reducible apply ite_keeps | with_reducible apply ite_keeps_fst | (intro _; try beta_reduce) | split | (dsimp +zetaDelta only; split)

theorem resetEngine_keeps (hK : Keeps a0 s) (e : Nat) : Keeps a0 (resetEngine s e) := by
  unfold resetEngine
  iterate 30 all_goals try first | with_reducible assumption | with_reducible apply clearEngine_keeps | with_reducible apply stopEngines_keeps

theorem watchdogTrips_keeps (hK : Keeps a0 s) (e : Nat) : Keeps a0 (watchdogTrips s e) := by
  unfold watchdogTrips
  try extract_lets
  iterate 30 all_goals try first | with_reducible assumption | with_reducible apply ite_keeps | with_reducible apply reportUnit_keeps | with_reducible apply resetEngine_keeps | with_reducible apply engineUnitFails_keeps | (intro _; try beta_reduce) | split | extract_lets | (with_reducible apply Keeps.lit <;> first | rfl | skip)

theorem heartbeatsMissed_keeps (hK : Keeps a0 s) (u : Unit') : Keeps a0 (heartbeatsMissed s u) := by
  cases u with
  | engine c => exact clusterFails_keeps hK _
  | regionUnit r => exact regionFails_keeps hK _
  | computeDie d => exact dieFails_keeps hK _
  | hubDie d => exact hubFails_keeps hK _
  | ringProcessor => exact hubFails_keeps hK _

theorem fetchFails_keeps (hK : Keeps a0 s) (x n : Nat) : Keeps a0 (fetchFails s x n) := by
  unfold fetchFails
  try extract_lets
  iterate 30 all_goals try first | with_reducible assumption | with_reducible apply setIntakeOff_keeps | with_reducible apply modRing_keeps | with_reducible apply report_keeps | (intro _; try beta_reduce) | extract_lets | (with_reducible apply Keeps.lit <;> first | rfl | skip)

theorem freshArray_keeps (hK : Keeps a0 s) (c : Nat) : Keeps a0 (freshArray s c) := by
  unfold freshArray
  iterate 30 all_goals try first | with_reducible assumption | with_reducible apply setBudget_keeps | with_reducible apply setArr_keeps

theorem takeCluster_keeps (hK : Keeps a0 s) (c : Nat) : Keeps a0 (takeCluster s c) := by
  unfold takeCluster
  try extract_lets
  iterate 30 all_goals try first | with_reducible assumption | with_reducible apply ite_keeps | with_reducible apply stopEngines_keeps | with_reducible apply setClu_keeps | with_reducible apply refreshArrStat_keeps | with_reducible apply setRf_keeps | with_reducible apply freshArray_keeps | with_reducible apply loseExtent_keeps | with_reducible apply report_keeps | (intro _; try beta_reduce) | split | extract_lets | (dsimp +zetaDelta only; split) | (with_reducible apply Keeps.lit <;> first | rfl | skip)

theorem loseEmbers_keeps (hK : Keeps a0 s) (r : Nat) : Keeps a0 (loseEmbers s r) := by
  unfold loseEmbers
  iterate 30 all_goals try first | with_reducible assumption | with_reducible apply loseEmber_keeps | with_reducible apply foldl_keeps | with_reducible apply foldl_keeps_fst | with_reducible apply ite_keeps_fst | (intro _; try beta_reduce)

theorem loseRegion_keeps (hK : Keeps a0 s) (r : Nat) : Keeps a0 (loseRegion s r) := by
  unfold loseRegion
  iterate 30 all_goals try first | with_reducible assumption | with_reducible apply loseExtent_keeps | with_reducible apply loseEmbers_keeps

theorem takeRegion_keeps (hK : Keeps a0 s) (p : Nat) : Keeps a0 (takeRegion s p) := by
  unfold takeRegion
  try extract_lets
  iterate 30 all_goals try first | with_reducible assumption | with_reducible apply ite_keeps | with_reducible apply stopEngines_keeps | with_reducible apply refreshArrStat_keeps | with_reducible apply buildRegion_keeps | with_reducible apply freshArray_keeps | with_reducible apply loseRegion_keeps | with_reducible apply report_keeps | with_reducible apply foldl_keeps | with_reducible apply foldl_keeps_fst | (intro _; try beta_reduce) | split | extract_lets | (dsimp +zetaDelta only; split) | (with_reducible apply Keeps.lit <;> first | rfl | skip)

theorem setD2d_keeps (hK : Keeps a0 s) (k : Nat) (l : D2dLink) : Keeps a0 (setD2d s k l) := by
  unfold setD2d
  iterate 30 all_goals try first | with_reducible assumption | with_reducible apply ite_keeps | with_reducible apply setRf_keeps | (intro _; try beta_reduce) | split | (with_reducible apply Keeps.lit <;> first | rfl | skip)

theorem wireFails_keeps (hK : Keeps a0 s) (k wire : Nat) : Keeps a0 (wireFails s k wire) := by
  unfold wireFails
  try extract_lets
  iterate 30 all_goals try first | with_reducible assumption | with_reducible apply ite_keeps | with_reducible apply failPackage_keeps | with_reducible apply report_keeps | with_reducible apply setD2d_keeps | (intro _; try beta_reduce) | split | extract_lets | (with_reducible apply Keeps.lit <;> first | rfl | skip)

theorem writeRecord_keeps (hK : Keeps a0 s) : Keeps a0 (writeRecord s) := by
  unfold writeRecord
  iterate 30 all_goals try first | with_reducible assumption | (with_reducible apply Keeps.lit <;> first | rfl | skip)

theorem zeroRing_keeps (hK : Keeps a0 s) (x n : Nat) : Keeps a0 (zeroRing s x n) := by
  unfold zeroRing
  try extract_lets
  iterate 30 all_goals try first | with_reducible assumption | with_reducible apply modRing_keeps | with_reducible apply refreshBusy_keeps | with_reducible apply setReg_keeps | (intro _; try beta_reduce) | extract_lets | (with_reducible apply Keeps.lit <;> first | rfl | skip)

theorem startRing_keeps (hK : Keeps a0 s) (x n : Nat) : Keeps a0 (startRing s x n) := by
  unfold startRing
  iterate 30 all_goals try first | with_reducible assumption | with_reducible apply setIntakeOff_keeps | with_reducible apply zeroRing_keeps

theorem ringCfgWrite_keeps (hK : Keeps a0 s) (src : Source) (x n : Nat) (v : Word) : Keeps a0 (ringCfgWrite s src x n v) := by
  unfold ringCfgWrite
  try extract_lets
  iterate 30 all_goals try first | with_reducible assumption | with_reducible apply ite_keeps | with_reducible apply logAccess_keeps | with_reducible apply startRing_keeps | with_reducible apply setReg_keeps | with_reducible apply setIntakeOff_keeps | (intro _; try beta_reduce) | split | extract_lets

theorem eqCfgWrite_keeps (hK : Keeps a0 s) (src : Source) (x : Nat) (v : Word) : Keeps a0 (eqCfgWrite s src x v) := by
  unfold eqCfgWrite
  try extract_lets
  iterate 30 all_goals try first | with_reducible assumption | with_reducible apply ite_keeps | with_reducible apply logAccess_keeps | with_reducible apply modCtx_keeps | with_reducible apply setRf_keeps | with_reducible apply setReg_keeps | with_reducible apply flushOverflow_keeps | (intro _; try beta_reduce) | split | extract_lets | (with_reducible apply Keeps.lit <;> first | rfl | skip)

theorem initScale_keeps (hK : Keeps a0 s) (x : Nat) : Keeps a0 (initScale s x) := by
  unfold initScale
  extract_lets a s1 s2
  have h1 : Keeps a0 s1 := getD_keeps _ hK fun _ hh => backPages_keeps hK _ _ hh
  clear_value s1
  have h2 : Keeps a0 s2 := h1.stored (fun w => smWf_smFill _ _ _ _ _ w) (fun w => smWf_smErase _ _ _ _ w)
  clear_value s2
  exact touchExtent_keeps (slabWritten_keeps (slabWritten_keeps h2 _) _) _ _

theorem backSnap_keeps (hK : Keeps a0 s) (x : Nat) (p : Nat) : Keeps a0 (backSnap x s p) := by
  unfold backSnap
  iterate 30 all_goals try first | with_reducible assumption | with_reducible apply ite_keeps | with_reducible apply setTier_keeps | (intro _; try beta_reduce) | split | (with_reducible apply Keeps.lit <;> first | rfl | skip)

theorem backArea_keeps (hK : Keeps a0 s) (x : Nat) : Keeps a0 (backArea s x) := by
  unfold backArea
  try extract_lets
  iterate 30 all_goals try first | with_reducible assumption | with_reducible apply ite_keeps | with_reducible apply unbackPage_keeps | with_reducible apply showGens_keeps | with_reducible apply modCtx_keeps | with_reducible apply backSnap_keeps | with_reducible apply foldl_keeps | with_reducible apply foldl_keeps_fst | (intro _; try beta_reduce) | split | extract_lets | (with_reducible apply Keeps.lit <;> first | rfl | skip)

theorem enableNow_keeps (hK : Keeps a0 s) (x : Nat) : Keeps a0 (enableNow s x) := by
  unfold enableNow
  try extract_lets
  iterate 30 all_goals try first | with_reducible assumption | with_reducible apply backArea_keeps | with_reducible apply initScale_keeps | with_reducible apply showGens_keeps | with_reducible apply modCtx_keeps | with_reducible apply zeroRing_keeps | with_reducible apply setRf_keeps | with_reducible apply setReg_keeps | with_reducible apply runScript_keeps | with_reducible apply advanceEpoch_keeps | with_reducible apply foldl_keeps | with_reducible apply foldl_keeps_fst | (intro _; try beta_reduce) | extract_lets

theorem enableRefused_keeps (hK : Keeps a0 s) (x item st : Nat) : Keeps a0 (enableRefused s x item st) := by
  unfold enableRefused
  iterate 30 all_goals try first | with_reducible assumption | with_reducible apply setReg_keeps

theorem enableAttempt_keeps (hK : Keeps a0 s) (x : Nat) : Keeps a0 (enableAttempt s x) := by
  unfold enableAttempt
  iterate 30 all_goals try first | with_reducible assumption | with_reducible apply enableRefused_keeps | with_reducible apply enableNow_keeps | with_reducible apply setRf_keeps | with_reducible apply ite_keeps_fst | split | (with_reducible apply Keeps.lit <;> first | rfl | skip)

theorem endWork_keeps (hK : Keeps a0 s) (x : Nat) (fault : Option Nat) : Keeps a0 (endWork s x fault) := by
  unfold endWork
  try extract_lets
  iterate 30 all_goals try first | with_reducible assumption | with_reducible apply endCommand_keeps | with_reducible apply dropStream_keeps | with_reducible apply endAll_keeps | split | extract_lets | (dsimp +zetaDelta only; split) | (with_reducible apply Keeps.lit <;> first | rfl | skip)

theorem faultCause_keeps (hK : Keeps a0 s) (x : Nat) (fault : Option OutCmd) : Keeps a0 (faultCause s x fault) := by
  unfold faultCause
  iterate 30 all_goals try first | with_reducible assumption | with_reducible apply writeEvent_keeps | split | (with_reducible apply Keeps.lit <;> first | rfl | skip)

theorem scrubSram_keeps (hK : Keeps a0 s) (x : Nat) : Keeps a0 (scrubSram s x) := by
  unfold scrubSram
  extract_lets mine mine' theirs within gone
  clear_value gone
  exact hK.stored (fun w => smWf_filter _ _ _ w) (fun w => smWf_filter _ _ _ w)

theorem scrubPages_keeps (hK : Keeps a0 s) (x : Nat) : Keeps a0 (scrubPages s x) := by
  unfold scrubPages
  iterate 30 all_goals try first | with_reducible assumption | with_reducible apply unbackPage_keeps | with_reducible apply foldl_keeps | with_reducible apply foldl_keeps_fst | (intro _; try beta_reduce)

theorem releaseGroups_keeps (hK : Keeps a0 s) (x : Nat) : Keeps a0 (releaseGroups s x) := by
  unfold releaseGroups
  iterate 30 all_goals try first | with_reducible assumption | with_reducible apply ite_keeps | with_reducible apply restartGroup_keeps | with_reducible apply setRf_keeps | with_reducible apply foldl_keeps | with_reducible apply foldl_keeps_fst | (intro _; try beta_reduce) | split

theorem dropTiles_keeps (hK : Keeps a0 s) (x : Nat) : Keeps a0 (dropTiles s x) := by
  unfold dropTiles
  try extract_lets
  repeat' first | with_reducible assumption | with_reducible apply ite_keeps | with_reducible apply ite_keeps_fst | (intro _; try beta_reduce) | split | extract_lets | (dsimp +zetaDelta only; split) | (with_reducible apply Keeps.lit <;> first | rfl | skip)

theorem retireAll_keeps (hK : Keeps a0 s) (x : Nat) : Keeps a0 (retireAll s x) := by
  unfold retireAll
  iterate 30 all_goals try first | with_reducible assumption | with_reducible apply freeAdapter_keeps | with_reducible apply foldl_keeps | with_reducible apply foldl_keeps_fst | (intro _; try beta_reduce)

theorem unloadAll_keeps (hK : Keeps a0 s) (x : Nat) : Keeps a0 (unloadAll s x) := by
  unfold unloadAll
  iterate 30 all_goals try first | with_reducible assumption | with_reducible apply setReg_keeps | (intro _; try beta_reduce) | (with_reducible apply Keeps.lit <;> first | rfl | skip)

theorem releaseOwned_keeps (hK : Keeps a0 s) (x : Nat) : Keeps a0 (releaseOwned s x) := by
  unfold releaseOwned
  try extract_lets
  iterate 30 all_goals try first | with_reducible assumption | with_reducible apply unloadAll_keeps | with_reducible apply dropTiles_keeps | with_reducible apply releaseGroups_keeps | with_reducible apply retireAll_keeps | with_reducible apply scrubSram_keeps | with_reducible apply zeroExtent_keeps | with_reducible apply scrubPages_keeps | with_reducible apply modCtx_keeps | (intro _; try beta_reduce) | extract_lets

theorem markIdle_keeps (hK : Keeps a0 s) (x : Nat) : Keeps a0 (markIdle s x) := by
  unfold markIdle
  try extract_lets
  iterate 30 all_goals try first | with_reducible assumption | with_reducible apply setReg_keeps | with_reducible apply setRf_keeps | with_reducible apply advanceEpoch_keeps | extract_lets

theorem teardownNow_keeps (hK : Keeps a0 s) (x : Nat) (fault : Option Nat) : Keeps a0 (teardownNow s x fault) := by
  unfold teardownNow
  try extract_lets
  iterate 30 all_goals try first | with_reducible assumption | with_reducible apply ite_keeps | with_reducible apply setRf_keeps | with_reducible apply faultCause_keeps | with_reducible apply endWork_keeps | with_reducible apply settle_keeps | with_reducible apply markIdle_keeps | with_reducible apply releaseOwned_keeps | (intro _; try beta_reduce) | split | extract_lets

theorem disableCtx_keeps (hK : Keeps a0 s) (x : Nat) : Keeps a0 (disableCtx s x) := by
  unfold disableCtx
  try extract_lets
  iterate 30 all_goals try first | with_reducible assumption | with_reducible apply ite_keeps | with_reducible apply setRf_keeps | with_reducible apply modCtx_keeps | with_reducible apply teardownNow_keeps | (intro _; try beta_reduce) | split | extract_lets | (with_reducible apply Keeps.lit <;> first | rfl | skip)

theorem ctxCtlWrite_keeps (hK : Keeps a0 s) (src : Source) (x : Nat) (v : Word) : Keeps a0 (ctxCtlWrite s src x v) := by
  unfold ctxCtlWrite
  try extract_lets
  iterate 30 all_goals try first | with_reducible assumption | with_reducible apply ite_keeps | with_reducible apply advanceEpoch_keeps | with_reducible apply setRf_keeps | with_reducible apply enableAttempt_keeps | with_reducible apply logAccess_keeps | with_reducible apply disableCtx_keeps | (intro _; try beta_reduce) | split | extract_lets

theorem forceRing_keeps (hK : Keeps a0 s) (x n : Nat) : Keeps a0 (forceRing s x n) := by
  unfold forceRing
  try extract_lets
  iterate 30 all_goals try first | with_reducible assumption | with_reducible apply setIntakeOff_keeps | with_reducible apply setRf_keeps | with_reducible apply endAll_keeps | (intro _; try beta_reduce) | extract_lets

theorem forceWrite_keeps (hK : Keeps a0 s) (x : Nat) (v : Word) : Keeps a0 (forceWrite s x v) := by
  unfold forceWrite
  try extract_lets
  iterate 30 all_goals try first | with_reducible assumption | with_reducible apply ite_keeps | with_reducible apply forceRing_keeps | with_reducible apply teardownNow_keeps | with_reducible apply settle_keeps | with_reducible apply foldl_keeps | with_reducible apply foldl_keeps_fst | (intro _; try beta_reduce) | split | extract_lets

theorem refuseDoorbell_keeps (hK : Keeps a0 s) (x n which value : Nat) : Keeps a0 (refuseDoorbell s x n which value) := by
  unfold refuseDoorbell
  iterate 30 all_goals try first | with_reducible assumption | with_reducible apply writeEvent_keeps | with_reducible apply bump_keeps

theorem newSubTail_keeps (hK : Keeps a0 s) (x n v : Nat) : Keeps a0 (newSubTail s x n v) := by
  unfold newSubTail
  iterate 30 all_goals try first | with_reducible assumption | with_reducible apply ite_keeps | with_reducible apply modRing_keeps | with_reducible apply refuseDoorbell_keeps | (intro _; try beta_reduce) | split | (with_reducible apply Keeps.lit <;> first | rfl | skip)

theorem newCplHead_keeps (hK : Keeps a0 s) (x n v : Nat) : Keeps a0 (newCplHead s x n v) := by
  unfold newCplHead
  iterate 30 all_goals try first | with_reducible assumption | with_reducible apply ite_keeps | with_reducible apply modRing_keeps | with_reducible apply refuseDoorbell_keeps | (intro _; try beta_reduce) | split | (with_reducible apply Keeps.lit <;> first | rfl | skip)

theorem ringValue_keeps (hK : Keeps a0 s) (x n : Nat) (v : Option Word32) (accept : State → Nat → Nat → Nat → State) (haccept : ∀ q x0 x1 x2, Keeps a0 q → Keeps a0 (accept q x0 x1 x2)) : Keeps a0 (ringValue s x n v accept) := by
  unfold ringValue
  iterate 30 all_goals try first | with_reducible assumption | with_reducible apply ite_keeps | with_reducible apply accept_keeps | with_reducible apply bump_keeps | with_reducible apply haccept | (intro _; try beta_reduce) | split | (with_reducible apply Keeps.lit <;> first | rfl | skip)

theorem ringDoorbell_keeps (hK : Keeps a0 s) (x n : Nat) (subTail cplHead : Option Word32) :
    Keeps a0 (ringDoorbell s x n subTail cplHead) :=
  ringValue_keeps (ringValue_keeps hK _ _ _ _ fun q x0 x1 x2 h => newSubTail_keeps h x0 x1 x2) _ _ _ _
    fun q x0 x1 x2 h => newCplHead_keeps h x0 x1 x2

theorem newEvtHead_keeps (hK : Keeps a0 s) (x v : Nat) : Keeps a0 (newEvtHead s x v) := by
  unfold newEvtHead
  iterate 30 all_goals try first | with_reducible assumption | with_reducible apply ite_keeps | with_reducible apply bump_keeps | with_reducible apply flushOverflow_keeps | with_reducible apply modCtx_keeps | with_reducible apply refuseDoorbell_keeps | (intro _; try beta_reduce) | split | (with_reducible apply Keeps.lit <;> first | rfl | skip)

theorem setLock_keeps (hK : Keeps a0 s) (left : Int) : Keeps a0 (setLock s left) := by
  unfold setLock
  repeat' first | with_reducible assumption | with_reducible apply setRf_keeps | with_reducible apply ite_keeps | with_reducible apply ite_keeps_fst | (intro _; try beta_reduce) | split | (dsimp +zetaDelta only; split)

theorem ptmMeasures_keeps (hK : Keeps a0 s) (root : Word) : Keeps a0 (ptmMeasures s root) := by
  unfold ptmMeasures
  try extract_lets
  repeat' first | with_reducible assumption | with_reducible apply setLock_keeps | with_reducible apply setReg_keeps | with_reducible apply signalDevice_keeps | with_reducible apply ite_keeps | with_reducible apply ite_keeps_fst | (intro _; try beta_reduce) | split | extract_lets | (dsimp +zetaDelta only; split) | (with_reducible apply Keeps.lit <;> first | rfl | skip)

theorem runTimebase_keeps (hK : Keeps a0 s) : Keeps a0 (runTimebase s) := by
  unfold runTimebase
  try extract_lets
  repeat' first | with_reducible assumption | with_reducible apply setLock_keeps | with_reducible apply setReg_keeps | with_reducible apply ite_keeps | with_reducible apply ite_keeps_fst | (intro _; try beta_reduce) | split | extract_lets | (dsimp +zetaDelta only; split) | (with_reducible apply Keeps.lit <;> first | rfl | skip)

theorem tick_keeps (hK : Keeps a0 s) : Keeps a0 (tick s) := by
  unfold tick
  try extract_lets
  repeat' first | with_reducible assumption | with_reducible apply runTimebase_keeps | with_reducible apply settle_keeps | with_reducible apply ite_keeps | with_reducible apply ite_keeps_fst | (intro _; try beta_reduce) | split | extract_lets | (dsimp +zetaDelta only; split) | (with_reducible apply Keeps.lit <;> first | rfl | skip)

theorem bar4Reads_keeps (hK : Keeps a0 s) (a len : Nat) : Keeps a0 (bar4Reads s a len) := by
  unfold bar4Reads
  iterate 30 all_goals try first | with_reducible assumption | with_reducible apply ite_keeps | with_reducible apply emit_keeps | with_reducible apply bump_keeps | (intro _; try beta_reduce) | split

theorem bar4Writes_keeps (hK : Keeps a0 s) (a : Nat) (data : List Byte) (ep : Bool) : Keeps a0 (bar4Writes s a data ep) := by
  unfold bar4Writes
  try extract_lets
  iterate 30 all_goals try first | with_reducible assumption | with_reducible apply ite_keeps | with_reducible apply bump_keeps | with_reducible apply storeQuiet_keeps | with_reducible apply ite_keeps_fst | (intro _; try beta_reduce) | split | extract_lets

theorem scriptWrite_keeps (hK : Keeps a0 s) (x : Nat) (v : Word) : Keeps a0 (scriptWrite s x v) := by
  unfold scriptWrite
  try extract_lets
  iterate 30 all_goals try first | with_reducible assumption | with_reducible apply ite_keeps | with_reducible apply setReg_keeps | with_reducible apply settle_keeps | with_reducible apply startScript_keeps | with_reducible apply modCtx_keeps | (intro _; try beta_reduce) | split | extract_lets | (with_reducible apply Keeps.lit <;> first | rfl | skip)

theorem landSlab_keeps (hK : Keeps a0 s) (src dst : Nat) : Keeps a0 (landSlab s src dst) := by
  unfold landSlab
  extract_lets a s1
  have h1 : Keeps a0 s1 := hK.stored (fun w => smWf_smFill _ _ _ _ _ w) (fun w => smWf_smFill _ _ _ _ _ w)
  clear_value s1
  exact touchExtent_keeps (slabWritten_keeps h1 _) _ _

theorem stageReady_keeps (hK : Keeps a0 s) (x dst : Nat) : Keeps a0 (stageReady s x dst) := by
  unfold stageReady
  iterate 30 all_goals try first | with_reducible assumption | with_reducible apply modCtx_keeps | with_reducible apply landSlab_keeps | (intro _; try beta_reduce) | split | (with_reducible apply Keeps.lit <;> first | rfl | skip)

theorem emberTable_keeps (hK : Keeps a0 s) (x : Nat) (v : Word) (os : List EmberObj) (h : emberTable s x v = .ok (os, t)) :
    Keeps a0 t := by
  unfold emberTable at h
  extract_lets a n at h
  split at h
  · cases h
  · split at h
    · cases h
    · split at h
      · cases h
      · rename_i hb
        cases h
        exact backPages_keeps hK _ _ hb

theorem dropEmbers_keeps (hK : Keeps a0 s) (x : Nat) (os : List EmberObj) : Keeps a0 (dropEmbers s x os) := by
  unfold dropEmbers
  iterate 30 all_goals try first | with_reducible assumption | with_reducible apply emberOut_keeps | with_reducible apply foldl_keeps | with_reducible apply foldl_keeps_fst | (intro _; try beta_reduce)

theorem emberWrite_keeps (hK : Keeps a0 s) (x : Nat) (v : Word) : Keeps a0 (emberWrite s x v) := by
  unfold emberWrite
  split
  · exact hK
  · split
    · exact writeEvent_keeps hK _ _
    · rename_i he
      exact settle_keeps (modCtx_keeps (setReg_keeps (dropEmbers_keeps (emberTable_keeps hK _ _ _ he) _ _) _ _) _ _)

theorem honourRelease_keeps (hK : Keeps a0 s) (p : Nat) : Keeps a0 (honourRelease s p) := by
  unfold honourRelease
  iterate 30 all_goals try first | with_reducible assumption | with_reducible apply ite_keeps | with_reducible apply unbackPage_keeps | (intro _; try beta_reduce) | split

theorem failExchange_keeps (hK : Keeps a0 s) (up : Nat) (down : Nat) : Keeps a0 (failExchange s up down) := by
  unfold failExchange
  try extract_lets
  repeat' first | with_reducible assumption | with_reducible apply setTier_keeps | with_reducible apply honourRelease_keeps | (intro _; try beta_reduce) | extract_lets | (with_reducible apply Keeps.lit <;> first | rfl | skip)

theorem finishExchange_keeps (hK : Keeps a0 s) (up : Nat) (down : Nat) : Keeps a0 (finishExchange s up down) := by
  unfold finishExchange
  try extract_lets
  repeat' first | with_reducible assumption | with_reducible apply bump_keeps | with_reducible apply setTier_keeps | with_reducible apply honourRelease_keeps | (intro _; try beta_reduce) | extract_lets | (with_reducible apply Keeps.lit <;> first | rfl | skip)

theorem slabLands_keeps (hK : Keeps a0 s) (p : Nat) (slab : Nat) (ddr : Bool) : Keeps a0 (slabLands s p slab ddr) := by
  unfold slabLands
  try extract_lets
  repeat' first | with_reducible assumption | with_reducible apply setTier_keeps | (intro _; try beta_reduce) | extract_lets | (with_reducible apply Keeps.lit <;> first | rfl | skip)

theorem moveSlab_keeps (hK : Keeps a0 s) (p : Nat) (slab : Nat) : Keeps a0 (moveSlab s p slab) := by
  unfold moveSlab
  try extract_lets
  repeat' first | with_reducible assumption | with_reducible apply countFrame_keeps | with_reducible apply tierFailed_keeps | with_reducible apply failExchange_keeps | with_reducible apply finishExchange_keeps | with_reducible apply slabLands_keeps | with_reducible apply ite_keeps | with_reducible apply ite_keeps_fst | (intro _; try beta_reduce) | split | extract_lets | (dsimp +zetaDelta only; split)

theorem slabMoved_keeps (hK : Keeps a0 s) (page slab : Nat) : Keeps a0 (slabMoved s page slab) := by
  unfold slabMoved
  iterate 30 all_goals try first | with_reducible assumption | with_reducible apply emberIn_keeps | with_reducible apply moveSlab_keeps | split | (with_reducible apply Keeps.lit <;> first | rfl | skip)

theorem coolPages_keeps (hK : Keeps a0 s) : Keeps a0 (coolPages s) := by
  unfold coolPages
  iterate 30 all_goals try first | with_reducible assumption | with_reducible apply ite_keeps_fst | (intro _; try beta_reduce) | (with_reducible apply Keeps.lit <;> first | rfl | skip)

theorem epochEnds_keeps (hK : Keeps a0 s) : Keeps a0 (epochEnds s) := by
  unfold epochEnds
  try extract_lets
  iterate 30 all_goals try first | with_reducible assumption | with_reducible apply ite_keeps | with_reducible apply coolPages_keeps | with_reducible apply startExchange_keeps | with_reducible apply foldl_keeps | with_reducible apply foldl_keeps_fst | with_reducible apply ite_keeps_fst | (intro _; try beta_reduce) | split | extract_lets | (with_reducible apply Keeps.lit <;> first | rfl | skip)

theorem judgeChannel_keeps (hK : Keeps a0 s) (x : Nat) (total n : Nat) (cb : Nat × Nat) : Keeps a0 (judgeChannel x total n s cb) := by
  unfold judgeChannel
  try extract_lets
  iterate 30 all_goals try first | with_reducible assumption | with_reducible apply ite_keeps | with_reducible apply modCtx_keeps | with_reducible apply writeEvent_keeps | with_reducible apply ite_keeps_fst | (intro _; try beta_reduce) | split | extract_lets | (with_reducible apply Keeps.lit <;> first | rfl | skip)

theorem commandFails_keeps (hK : Keeps a0 s) (x : Nat) (n : Nat) (a : Nat) : Keeps a0 (commandFails s x n a) := by
  unfold commandFails
  repeat' first | with_reducible assumption | with_reducible apply endCommand_keeps | with_reducible apply requestFails_keeps | with_reducible apply ite_keeps | with_reducible apply ite_keeps_fst | (intro _; try beta_reduce) | split | (dsimp +zetaDelta only; split)

theorem stageFails_keeps (hK : Keeps a0 s) (x : Nat) (dst : Nat) : Keeps a0 (stageFails s x dst) := by
  unfold stageFails
  try extract_lets
  repeat' first | with_reducible assumption | with_reducible apply endAll_keeps | with_reducible apply modCtx_keeps | with_reducible apply requestFails_keeps | with_reducible apply ite_keeps | with_reducible apply ite_keeps_fst | (intro _; try beta_reduce) | split | extract_lets | (dsimp +zetaDelta only; split) | (with_reducible apply Keeps.lit <;> first | rfl | skip)

theorem startHere_keeps (hK : Keeps a0 s) (i : Nat) : Keeps a0 (startHere s i) := by
  unfold startHere
  iterate 30 all_goals try first | with_reducible assumption | with_reducible apply ite_keeps | with_reducible apply refuseCmd_keeps | with_reducible apply startCmd_keeps | with_reducible apply runOp_keeps | (intro _; try beta_reduce) | split | (with_reducible apply Keeps.lit <;> first | rfl | skip)

theorem emberInFails_keeps (hK : Keeps a0 s) (x : Nat) (a : Nat) : Keeps a0 (emberInFails s x a) := by
  unfold emberInFails
  try extract_lets
  repeat' first | with_reducible assumption | with_reducible apply modEmber_keeps | with_reducible apply requestFails_keeps | with_reducible apply startHere_keeps | with_reducible apply foldl_keeps | with_reducible apply foldl_keeps_fst | (intro _; try beta_reduce) | split | extract_lets | (dsimp +zetaDelta only; split) | (with_reducible apply Keeps.lit <;> first | rfl | skip)

theorem emberOutFails_keeps (hK : Keeps a0 s) (x a : Nat) : Keeps a0 (emberOutFails s x a) := by
  unfold emberOutFails
  iterate 30 all_goals try first | with_reducible assumption | with_reducible apply ite_keeps | with_reducible apply requestFails_keeps | (intro _; try beta_reduce) | split

theorem exchangeFails_keeps (hK : Keeps a0 s) (p : Nat) : Keeps a0 (exchangeFails s p) := by
  unfold exchangeFails
  iterate 30 all_goals try first | with_reducible assumption | with_reducible apply requestFails_keeps | with_reducible apply failExchange_keeps | split | (with_reducible apply Keeps.lit <;> first | rfl | skip)

theorem spillFails_keeps (hK : Keeps a0 s) (x : Nat) (a : Nat) : Keeps a0 (spillFails s x a) := by
  unfold spillFails
  repeat' first | with_reducible assumption | with_reducible apply requestFails_keeps | with_reducible apply ite_keeps | with_reducible apply ite_keeps_fst | (intro _; try beta_reduce) | split | (dsimp +zetaDelta only; split)

theorem bar4Fails_keeps (hK : Keeps a0 s) (a : Nat) (write : Bool) : Keeps a0 (bar4Fails s a write) := by
  unfold bar4Fails
  try extract_lets
  repeat' first | with_reducible assumption | with_reducible apply bump_keeps | with_reducible apply emit_keeps | with_reducible apply report_keeps | with_reducible apply ite_keeps | with_reducible apply ite_keeps_fst | (intro _; try beta_reduce) | split | extract_lets | (dsimp +zetaDelta only; split)

theorem acked_keeps (hK : Keeps a0 s) (sub : Nat) (pkg : Nat) (n : Nat) : Keeps a0 (acked s sub pkg n) := by
  unfold acked
  try extract_lets
  repeat' first | with_reducible assumption | with_reducible apply setConn_keeps | (intro _; try beta_reduce) | extract_lets | (with_reducible apply Keeps.lit <;> first | rfl | skip)

theorem nakOnce_keeps (hK : Keeps a0 s) (sub : Nat) (pkg : Nat) : Keeps a0 (nakOnce s sub pkg) := by
  unfold nakOnce
  try extract_lets
  repeat' first | with_reducible assumption | with_reducible apply setConn_keeps | with_reducible apply sendControl_keeps | with_reducible apply ite_keeps | with_reducible apply ite_keeps_fst | (intro _; try beta_reduce) | split | extract_lets | (dsimp +zetaDelta only; split) | (with_reducible apply Keeps.lit <;> first | rfl | skip)

theorem sendCredit_keeps (hK : Keeps a0 s) (sub : Nat) (pkg : Nat) (vc : Nat) (lines : Nat) : Keeps a0 (sendCredit s sub pkg vc lines) := by
  unfold sendCredit
  repeat' first | with_reducible assumption | with_reducible apply sendControl_keeps | with_reducible apply ite_keeps | with_reducible apply ite_keeps_fst | (intro _; try beta_reduce) | split | (dsimp +zetaDelta only; split)

theorem accepted_keeps (hK : Keeps a0 s) (f : Frame) (vc : Nat) (act : State → State) (hact : ∀ q, Keeps a0 q → Keeps a0 (act q)) : Keeps a0 (accepted s f vc act) := by
  unfold accepted
  try extract_lets
  repeat' first | with_reducible assumption | with_reducible apply setConn_keeps | with_reducible apply settle_keeps | with_reducible apply bump_keeps | with_reducible apply acked_keeps | with_reducible apply nakOnce_keeps | with_reducible apply sendCredit_keeps | with_reducible apply hact | with_reducible apply ite_keeps | with_reducible apply ite_keeps_fst | (intro _; try beta_reduce) | split | extract_lets | (dsimp +zetaDelta only; split) | (with_reducible apply Keeps.lit <;> first | rfl | skip)

theorem answerWrite_keeps (hK : Keeps a0 s) (f : Frame) (cause : Option Nat) : Keeps a0 (answerWrite s f cause) := by
  unfold answerWrite
  repeat' first | with_reducible assumption | with_reducible apply sendFrame_keeps | (intro _; try beta_reduce) | split | (dsimp +zetaDelta only; split)

theorem peerWriteFails_keeps (hK : Keeps a0 s) (f : Frame) : Keeps a0 (peerWriteFails s f) := by
  unfold peerWriteFails
  repeat' first | with_reducible assumption | with_reducible apply requestFails_keeps | with_reducible apply accepted_keeps | with_reducible apply answerWrite_keeps | with_reducible apply ite_keeps | with_reducible apply ite_keeps_fst | (intro _; try beta_reduce) | split | (dsimp +zetaDelta only; split)

theorem tierFails_keeps (hK : Keeps a0 s) (x : Nat) (r : TierRequest) : Keeps a0 (tierFails s x r) := by
  cases r with
  | command n a => exact commandFails_keeps hK _ _ _
  | stage a => exact stageFails_keeps hK _ _
  | exchange p => exact exchangeFails_keeps hK _
  | emberIn a => exact emberInFails_keeps hK _ _
  | emberOut a => exact emberOutFails_keeps hK _ _
  | spill a => exact spillFails_keeps hK _ _
  | bar4 o w => exact ite_keeps (fun _ => bar4Fails_keeps hK _ _) (fun _ => hK)
  | peerWrite f => exact peerWriteFails_keeps hK _

theorem pkgFinish_keeps (hK : Keeps a0 s) (e status : Nat) (slot : Option Nat) : Keeps a0 (pkgFinish s e status slot) := by
  unfold pkgFinish
  try extract_lets
  iterate 30 all_goals try first | with_reducible assumption | with_reducible apply storeBytes_keeps | split | extract_lets | (dsimp +zetaDelta only; split) | (with_reducible apply Keeps.lit <;> first | rfl | skip)

theorem pkgRequest_keeps (hK : Keeps a0 s) (x : Nat) (e : Nat) : Keeps a0 (pkgRequest s x e) := by
  unfold pkgRequest
  try extract_lets
  repeat' first | with_reducible assumption | with_reducible apply backPlan_keeps | with_reducible apply modCtx_keeps | with_reducible apply requestFails_keeps | with_reducible apply pkgFinish_keeps | with_reducible apply ite_keeps | with_reducible apply ite_keeps_fst | (intro _; try beta_reduce) | split | extract_lets | (dsimp +zetaDelta only; split) | (with_reducible apply Keeps.lit <;> first | rfl | skip)

theorem pkgWrite_keeps (hK : Keeps a0 s) (x : Nat) (v : Word) : Keeps a0 (pkgWrite s x v) := by
  unfold pkgWrite
  try extract_lets
  iterate 30 all_goals try first | with_reducible assumption | with_reducible apply ite_keeps | with_reducible apply setReg_keeps | with_reducible apply pkgRequest_keeps | with_reducible apply foldl_keeps | with_reducible apply foldl_keeps_fst | (intro _; try beta_reduce) | split | extract_lets

theorem loadEnds_keeps (hK : Keeps a0 s) (x e status : Nat) (slot : Option Nat) : Keeps a0 (loadEnds s x e status slot) := by
  unfold loadEnds
  try extract_lets
  iterate 30 all_goals try first | with_reducible assumption | with_reducible apply modCtx_keeps | with_reducible apply pkgFinish_keeps | with_reducible apply setRf_keeps | with_reducible apply ite_keeps_fst | (intro _; try beta_reduce) | extract_lets | (with_reducible apply Keeps.lit <;> first | rfl | skip)

theorem loadFails_keeps (hK : Keeps a0 s) (x e dst len status : Nat) : Keeps a0 (loadFails s x e dst len status) := by
  unfold loadFails
  iterate 30 all_goals try first | with_reducible assumption | with_reducible apply loadEnds_keeps | with_reducible apply storeCells_keeps | with_reducible apply ite_keeps_fst | (intro _; try beta_reduce)

theorem loadNow_keeps (hK : Keeps a0 s) (x : Nat) (e : Nat) (dst : Nat) (len : Nat) (readFails : Bool) : Keeps a0 (loadNow s x e dst len readFails) := by
  unfold loadNow
  try extract_lets
  repeat' first | with_reducible assumption | with_reducible apply advanceEpoch_keeps | with_reducible apply storeCells_keeps | with_reducible apply requestFails_keeps | with_reducible apply loadEnds_keeps | with_reducible apply loadFails_keeps | with_reducible apply ite_keeps | with_reducible apply ite_keeps_fst | (intro _; try beta_reduce) | split | extract_lets | (dsimp +zetaDelta only; split) | (with_reducible apply Keeps.lit <;> first | rfl | skip)

theorem unloadNow_keeps (hK : Keeps a0 s) (x e : Nat) : Keeps a0 (unloadNow s x e) := by
  unfold unloadNow
  try extract_lets
  iterate 30 all_goals try first | with_reducible assumption | with_reducible apply ite_keeps | with_reducible apply loadEnds_keeps | with_reducible apply advanceEpoch_keeps | (intro _; try beta_reduce) | split | extract_lets | (dsimp +zetaDelta only; split) | (with_reducible apply Keeps.lit <;> first | rfl | skip)

theorem failColls_keeps (hK : Keeps a0 s) (idents : List Nat) : Keeps a0 (failColls s idents) := by
  unfold failColls
  iterate 30 all_goals try first | with_reducible assumption | with_reducible apply collFailed_keeps | with_reducible apply foldl_keeps | with_reducible apply foldl_keeps_fst | (intro _; try beta_reduce) | split | (with_reducible apply Keeps.lit <;> first | rfl | skip)

theorem readLost_keeps (hK : Keeps a0 s) (x sub pkg : Nat) (r : PeerRead) : Keeps a0 (readLost s x sub pkg r) := by
  unfold readLost
  iterate 30 all_goals try first | with_reducible assumption | with_reducible apply endCommand_keeps | with_reducible apply tierFailed_keeps | split | (with_reducible apply Keeps.lit <;> first | rfl | skip)

theorem readsLost_keeps (hK : Keeps a0 s) (sub pkg : Nat) (x : Nat) : Keeps a0 (readsLost sub pkg s x) := by
  unfold readsLost
  try extract_lets
  iterate 30 all_goals try first | with_reducible assumption | with_reducible apply modCtx_keeps | with_reducible apply readLost_keeps | with_reducible apply foldl_keeps | with_reducible apply foldl_keeps_fst | (intro _; try beta_reduce) | extract_lets | (with_reducible apply Keeps.lit <;> first | rfl | skip)

theorem postsLost_keeps (hK : Keeps a0 s) (sub pkg : Nat) (x : Nat) : Keeps a0 (postsLost sub pkg s x) := by
  unfold postsLost
  try extract_lets
  iterate 30 all_goals try first | with_reducible assumption | with_reducible apply modCtx_keeps | with_reducible apply postedFailed_keeps | with_reducible apply foldl_keeps | with_reducible apply foldl_keeps_fst | (intro _; try beta_reduce) | extract_lets | (with_reducible apply Keeps.lit <;> first | rfl | skip)

theorem connDown_keeps (hK : Keeps a0 s) (sub pkg : Nat) : Keeps a0 (connDown s sub pkg) := by
  unfold connDown
  try extract_lets
  iterate 30 all_goals try first | with_reducible assumption | with_reducible apply ite_keeps | with_reducible apply setRf_keeps | with_reducible apply setConn_keeps | with_reducible apply report_keeps | with_reducible apply bump_keeps | with_reducible apply failColls_keeps | with_reducible apply postsLost_keeps | with_reducible apply readsLost_keeps | with_reducible apply foldl_keeps | with_reducible apply foldl_keeps_fst | (intro _; try beta_reduce) | split | extract_lets

theorem portsDown_keeps (hK : Keeps a0 s) : Keeps a0 (portsDown s) := by
  unfold portsDown
  try extract_lets
  iterate 30 all_goals try first | with_reducible assumption | with_reducible apply connDown_keeps | with_reducible apply setReg_keeps | with_reducible apply setRf_keeps | with_reducible apply foldl_keeps | with_reducible apply foldl_keeps_fst | with_reducible apply ite_keeps_fst | (intro _; try beta_reduce) | extract_lets | (with_reducible apply Keeps.lit <;> first | rfl | skip)

theorem control_keeps (hK : Keeps a0 s) (f : Frame) (act : State → State) (hact : ∀ q, Keeps a0 q → Keeps a0 (act q)) : Keeps a0 (Sys2Proof.Machine.control s f act) := by
  unfold Sys2Proof.Machine.control
  try extract_lets
  repeat' first | with_reducible assumption | with_reducible apply settle_keeps | with_reducible apply bump_keeps | with_reducible apply acked_keeps | with_reducible apply hact | with_reducible apply ite_keeps | with_reducible apply ite_keeps_fst | (intro _; try beta_reduce) | split | extract_lets | (dsimp +zetaDelta only; split)

theorem resend_keeps (hK : Keeps a0 s) (sub pkg : Nat) (f : Sent) : Keeps a0 (resend sub pkg s f) := by
  unfold resend
  try extract_lets
  iterate 30 all_goals try first | with_reducible assumption | with_reducible apply ite_keeps | with_reducible apply setConn_keeps | with_reducible apply transmit_keeps | with_reducible apply bump_keeps | (intro _; try beta_reduce) | split | extract_lets | (with_reducible apply Keeps.lit <;> first | rfl | skip)

theorem retransmit_keeps (hK : Keeps a0 s) (sub : Nat) (pkg : Nat) : Keeps a0 (retransmit s sub pkg) := by
  unfold retransmit
  try extract_lets
  repeat' first | with_reducible assumption | with_reducible apply connDown_keeps | with_reducible apply resend_keeps | with_reducible apply ite_keeps | with_reducible apply ite_keeps_fst | with_reducible apply foldl_keeps | with_reducible apply foldl_keeps_fst | (intro _; try beta_reduce) | split | extract_lets | (dsimp +zetaDelta only; split)

theorem serveRead_keeps (hK : Keeps a0 s) (f : Frame) : Keeps a0 (serveRead s f) := by
  unfold serveRead
  try extract_lets
  repeat' first | with_reducible assumption | with_reducible apply sendFrame_keeps | with_reducible apply touchExtent_keeps | with_reducible apply ite_keeps | with_reducible apply ite_keeps_fst | with_reducible apply foldl_keeps | with_reducible apply foldl_keeps_fst | (intro _; try beta_reduce) | split | extract_lets | (dsimp +zetaDelta only; split)

theorem serveWrite_keeps (hK : Keeps a0 s) (f : Frame) : Keeps a0 (serveWrite s f) := by
  unfold serveWrite
  try extract_lets
  iterate 30 all_goals try first | with_reducible assumption | with_reducible apply countBad_keeps | with_reducible apply ite_keeps | with_reducible apply answerWrite_keeps | (with_reducible refine getD_keeps _ ?_ fun _ hh => backPages_keeps ?_ _ _ hh) | (with_reducible refine backPages_keeps ?_ _ _ ‹backPages _ _ _ = some _›) | with_reducible apply storeCells_keeps | with_reducible apply ite_keeps_fst | (intro _; try beta_reduce) | split | extract_lets | (dsimp +zetaDelta only; split) | (with_reducible apply Keeps.lit <;> first | rfl | skip)

theorem readsDone_keeps (hK : Keeps a0 s) (o : OutCmd) : Keeps a0 (readsDone s o) := by
  unfold readsDone
  repeat' first | with_reducible assumption | with_reducible apply collFetched_keeps | with_reducible apply copyNow_keeps | with_reducible apply ite_keeps | with_reducible apply ite_keeps_fst | (intro _; try beta_reduce) | split | (dsimp +zetaDelta only; split)

theorem takeData_keeps (hK : Keeps a0 s) (f : Frame) (failed : Bool) : Keeps a0 (takeData s f failed) := by
  unfold takeData
  try extract_lets
  iterate 30 all_goals try first | with_reducible assumption | with_reducible apply countBad_keeps | with_reducible apply ite_keeps | with_reducible apply modCtx_keeps | with_reducible apply endCommand_keeps | with_reducible apply readsDone_keeps | with_reducible apply putOut_keeps | with_reducible apply foldl_keeps | with_reducible apply foldl_keeps_fst | (intro _; try beta_reduce) | split | extract_lets | (dsimp +zetaDelta only; split) | (with_reducible apply Keeps.lit <;> first | rfl | skip)

theorem dropPost_keeps (hK : Keeps a0 s) (x : Nat) (p : Posted) : Keeps a0 (dropPost s x p) := by
  unfold dropPost
  iterate 30 all_goals try first | with_reducible assumption | with_reducible apply modCtx_keeps | (intro _; try beta_reduce) | (with_reducible apply Keeps.lit <;> first | rfl | skip)

theorem helloFrom_keeps (hK : Keeps a0 s) (sub : Nat) (pkg : Nat) (peer : Nat) (mac : BitVec 48) : Keeps a0 (helloFrom s sub pkg peer mac) := by
  unfold helloFrom
  try extract_lets
  repeat' first | with_reducible assumption | with_reducible apply setConn_keeps | with_reducible apply setRf_keeps | with_reducible apply report_keeps | with_reducible apply ite_keeps | with_reducible apply ite_keeps_fst | (intro _; try beta_reduce) | split | extract_lets | (dsimp +zetaDelta only; split) | (with_reducible apply Keeps.lit <;> first | rfl | skip)

theorem bar2Read_keeps (hK : Keeps a0 s) (tee : Bool) (word : Nat) (place : Nat) (len : Nat) : Keeps a0 (bar2Read s tee word place len) := by
  unfold bar2Read
  repeat' first | with_reducible assumption | with_reducible apply emit_keeps | with_reducible apply ite_keeps | with_reducible apply ite_keeps_fst | (intro _; try beta_reduce) | split | (dsimp +zetaDelta only; split)

theorem doorbellWrite_keeps (hK : Keeps a0 s) (x : Nat) (n : Nat) (place : Nat) (data : List Byte) : Keeps a0 (doorbellWrite s x n place data) := by
  unfold doorbellWrite
  repeat' first | with_reducible assumption | with_reducible apply ringDoorbell_keeps | with_reducible apply ite_keeps | with_reducible apply ite_keeps_fst | (intro _; try beta_reduce) | split | (dsimp +zetaDelta only; split)

theorem ringRowWith_keeps (hK : Keeps a0 s) (op : RingOp) (run : State → OutCmd → State) (ev : List ArrEvent) (c : Cmd) (hrun : ∀ q o, Keeps a0 q → Keeps a0 (run q o)) : Keeps a0 (ringRowWith op run ev c s) := by
  unfold ringRowWith
  try extract_lets
  repeat' first | with_reducible assumption | with_reducible apply readCmd_keeps | with_reducible apply settle_keeps | with_reducible apply strike_keeps | with_reducible apply hrun | with_reducible apply ite_keeps | with_reducible apply ite_keeps_fst | (intro _; try beta_reduce) | split | extract_lets | (dsimp +zetaDelta only; split)

theorem sendHelloOn_keeps (hK : Keeps a0 s) (sub : Nat) : Keeps a0 (sendHelloOn s sub) := by
  unfold sendHelloOn
  try extract_lets
  repeat' first | with_reducible assumption | with_reducible apply emit_keeps | (intro _; try beta_reduce) | extract_lets

theorem heardAbandon_keeps (hK : Keeps a0 s) (g : Nat) (n : Nat) : Keeps a0 (heardAbandon s g n) := by
  unfold heardAbandon
  repeat' first | with_reducible assumption | with_reducible apply collFailed_keeps | with_reducible apply ite_keeps | with_reducible apply ite_keeps_fst | (intro _; try beta_reduce) | split | (dsimp +zetaDelta only; split) | (with_reducible apply Keeps.lit <;> first | rfl | skip)

theorem gangGoes_keeps (hK : Keeps a0 s) (o : OutCmd) : Keeps a0 (gangGoes s o) := by
  unfold gangGoes
  repeat' first | with_reducible assumption | with_reducible apply runOp_keeps | with_reducible apply attempt_keeps | with_reducible apply settle_keeps | with_reducible apply ite_keeps | with_reducible apply ite_keeps_fst | (intro _; try beta_reduce) | split | (dsimp +zetaDelta only; split)

theorem reserveFor_keeps (hK : Keeps a0 s) (o : OutCmd) (e : Nat) : Keeps a0 (reserveFor s o e) := by
  unfold reserveFor
  try extract_lets
  repeat' first | with_reducible assumption | with_reducible apply putOut_keeps | with_reducible apply gangGoes_keeps | (intro _; try beta_reduce) | extract_lets | (with_reducible apply Keeps.lit <;> first | rfl | skip)

theorem engineGoes_keeps (hK : Keeps a0 s) (e : Nat) (ev : List ArrEvent) : Keeps a0 (engineGoes s e ev) := by
  unfold engineGoes
  repeat' first | with_reducible assumption | with_reducible apply runOp_keeps | with_reducible apply attempt_keeps | with_reducible apply settle_keeps | with_reducible apply strike_keeps | with_reducible apply copyNow_keeps | with_reducible apply runZero_keeps | with_reducible apply gangGoes_keeps | with_reducible apply reserveFor_keeps | with_reducible apply ite_keeps | with_reducible apply ite_keeps_fst | (intro _; try beta_reduce) | split | (dsimp +zetaDelta only; split)

end Sys2Proof.Laws
end

