-- ==== Sys2Proof/Laws/KeepsDevice.lean ====
section
/-! SUPPORT. Settings, resets, registers, security, power and the monitor keep what Keeps says. -/

namespace Sys2Proof.Laws

open Sys2Proof.Machine

set_option linter.unusedTactic false
set_option linter.unreachableTactic false
set_option linter.unusedVariables false

variable {a0 s t : State}

theorem skipEntry_keeps (hK : Keeps a0 s) : Keeps a0 (skipEntry s) := by
  unfold skipEntry
  iterate 30 all_goals try first | with_reducible assumption | with_reducible apply bumpBy_keeps

theorem applyIdent_keeps (hK : Keeps a0 s) (e : Nat) : Keeps a0 (applyIdent s e) := by
  unfold applyIdent
  iterate 30 all_goals try first | with_reducible assumption | with_reducible apply ite_keeps | with_reducible apply setRf_keeps | with_reducible apply skipEntry_keeps | (intro _; try beta_reduce) | split | (with_reducible apply Keeps.lit <;> first | rfl | skip)

theorem beforeIdent_keeps (hK : Keeps a0 s) (digest : BitVec 384) : Keeps a0 (beforeIdent s digest) := by
  unfold beforeIdent
  iterate 30 all_goals try first | with_reducible assumption | (with_reducible apply Keeps.lit <;> first | rfl | skip)

theorem useSlot_keeps (hK : Keeps a0 s) (k : Nat) : Keeps a0 (useSlot s k) := by
  unfold useSlot
  extract_lets slot h native level s1 s2 s3 s4
  have h1 : Keeps a0 s1 := setRf_keeps (setRf_keeps (setRf_keeps hK _ _ _ _) _ _ _ _) _ _ _ _
  have h2 : Keeps a0 s2 := setRf_keeps h1 _ _ _ _
  have h3 : Keeps a0 s3 := setRf_keeps (setReg_keeps h2 _ _) _ _ _ _
  have h4 : Keeps a0 s4 := beforeIdent_keeps (setReg_keeps h3 _ _) _
  clear_value s4
  exact foldl_keeps _ (fun _ _ hq => applyIdent_keeps hq _) _ _ h4

theorem writeSlot_keeps (hK : Keeps a0 s) (k : Nat) (img : List Byte) : Keeps a0 (writeSlot s k img) := by
  unfold writeSlot
  iterate 30 all_goals try first | with_reducible assumption | with_reducible apply ite_keeps | (intro _; try beta_reduce) | split | (with_reducible apply Keeps.lit <;> first | rfl | skip)

theorem updateResult_keeps (hK : Keeps a0 s) (st : Nat) (written : Nat) : Keeps a0 (updateResult s st written) := by
  unfold updateResult
  iterate 30 all_goals try first | with_reducible assumption | with_reducible apply setReg_keeps

theorem updateNow_keeps (hK : Keeps a0 s) (hostReadFails flashFails : Bool) : Keeps a0 (updateNow s hostReadFails flashFails) := by
  unfold updateNow
  try extract_lets
  iterate 30 all_goals try first | with_reducible assumption | with_reducible apply ite_keeps | with_reducible apply updateResult_keeps | with_reducible apply writeSlot_keeps | (intro _; try beta_reduce) | split | extract_lets | (dsimp +zetaDelta only; split) | (with_reducible apply Keeps.lit <;> first | rfl | skip)

theorem logEntry_keeps (hK : Keeps a0 s) (code detail : Nat) : Keeps a0 (logEntry s code detail) := by
  unfold logEntry
  extract_lets e es
  refine ⟨hK.1, hK.2, hK.3, hK.4, hK.5, hK.6, hK.7, Nat.le_succ_of_le hK.8, fun h => ?_⟩
  obtain ⟨h1, h2⟩ := hK.9 h
  have h3 : es.length = s.sec.log.length + 1 := by simp [es]
  simp only [List.length_drop]
  omega

theorem refreshSec_keeps (hK : Keeps a0 s) : Keeps a0 (refreshSec s) := by
  unfold refreshSec
  try extract_lets
  iterate 30 all_goals try first | with_reducible assumption | with_reducible apply ite_keeps | with_reducible apply setRf_keeps | (intro _; try beta_reduce) | split | extract_lets

theorem setTdisp_keeps (hK : Keeps a0 s) (t : Nat) : Keeps a0 (setTdisp s t) := by
  unfold setTdisp
  iterate 30 all_goals try first | with_reducible assumption | with_reducible apply setRf_keeps

theorem embersGone_keeps (hK : Keeps a0 s) : Keeps a0 (embersGone s) := by
  unfold embersGone
  iterate 30 all_goals try first | with_reducible assumption | with_reducible apply freeExtent_keeps | with_reducible apply foldl_keeps | with_reducible apply foldl_keeps_fst | (intro _; try beta_reduce)

theorem recountHeld_keeps (hK : Keeps a0 s) : Keeps a0 (recountHeld s) := by
  unfold recountHeld
  try extract_lets
  iterate 30 all_goals try first | with_reducible assumption | with_reducible apply setHeld_keeps | with_reducible apply foldl_keeps | with_reducible apply foldl_keeps_fst | (intro _; try beta_reduce) | extract_lets

theorem warmCore_keeps (hK : Keeps a0 s) : Keeps a0 (warmCore s) := by
  unfold warmCore
  extract_lets u kept
  have h1 : Keeps a0 u := embersGone_keeps hK
  clear_value u
  exact ⟨h1.1, h1.2, h1.3, h1.4, fun w => smWf_filter _ _ _ (h1.5 w), fun w => smWf_filter _ _ _ (h1.6 w),
    fun w => smWf_filter _ _ _ (h1.7 w), h1.8, h1.9⟩

theorem coldCore_keeps (hK : Keeps a0 s) : Keeps a0 (coldCore s) :=
  ⟨hK.1, hK.2, hK.3, hK.4, fun w => smWf_filter _ _ _ (hK.5 w), fun _ => rfl, fun _ => rfl, hK.8, hK.9⟩

theorem loadRecord_keeps (hK : Keeps a0 s) : Keeps a0 (loadRecord s) := by
  unfold loadRecord
  try extract_lets
  iterate 30 all_goals try first | with_reducible assumption | with_reducible apply setRf_keeps | with_reducible apply foldl_keeps | with_reducible apply foldl_keeps_fst | (intro _; try beta_reduce) | extract_lets

theorem trainLink_keeps (hK : Keeps a0 s) (k : Nat) : Keeps a0 (trainLink s k) := by
  unfold trainLink
  try extract_lets
  iterate 30 all_goals try first | with_reducible assumption | with_reducible apply ite_keeps | with_reducible apply failPackage_keeps | with_reducible apply report_keeps | with_reducible apply setD2d_keeps | (intro _; try beta_reduce) | split | extract_lets

theorem buildMap_keeps (hK : Keeps a0 s) : Keeps a0 (buildMap s) := by
  unfold buildMap
  iterate 30 all_goals try first | with_reducible assumption | with_reducible apply trainLink_keeps | with_reducible apply buildDie_keeps | with_reducible apply loadRecord_keeps | with_reducible apply foldl_keeps | with_reducible apply foldl_keeps_fst | (intro _; try beta_reduce)

theorem drawKey_keeps (hK : Keeps a0 s) : Keeps a0 (drawKey s).2 := by
  unfold drawKey
  try extract_lets
  iterate 30 all_goals try first | with_reducible assumption | extract_lets | (with_reducible apply Keeps.lit <;> first | rfl | skip)

theorem drawMemKeys_keeps (hK : Keeps a0 s) : Keeps a0 (drawMemKeys s) := by
  unfold drawMemKeys
  try extract_lets
  iterate 30 all_goals try first | with_reducible assumption | with_reducible apply ite_keeps | with_reducible apply drawKey_keeps | with_reducible apply foldl_keeps | with_reducible apply foldl_keeps_fst | with_reducible apply ite_keeps_fst | (intro _; try beta_reduce) | split | extract_lets | (with_reducible apply Keeps.lit <;> first | rfl | skip)

theorem drawInterleave_keeps (hK : Keeps a0 s) : Keeps a0 (drawInterleave s) := by
  unfold drawInterleave
  try extract_lets
  iterate 30 all_goals try first | with_reducible assumption | with_reducible apply draw_keeps | with_reducible apply ite_keeps_fst | extract_lets | (with_reducible apply Keeps.lit <;> first | rfl | skip)

theorem trainDdr_keeps (hK : Keeps a0 s) (d : Nat) : Keeps a0 (trainDdr s d) := by
  unfold trainDdr
  try extract_lets
  repeat' first | with_reducible assumption | with_reducible apply setReg_keeps | with_reducible apply ite_keeps | with_reducible apply ite_keeps_fst | (intro _; try beta_reduce) | split | extract_lets | (dsimp +zetaDelta only; split)

theorem restoreStore_keeps (hK : Keeps a0 s) : Keeps a0 (restoreStore s) := by
  unfold restoreStore
  try extract_lets
  iterate 30 all_goals try first | with_reducible assumption | with_reducible apply ite_keeps | with_reducible apply setRf_keeps | with_reducible apply logEntry_keeps | (intro _; try beta_reduce) | split | extract_lets | (dsimp +zetaDelta only; split) | (with_reducible apply Keeps.lit <;> first | rfl | skip)

theorem clocksLost_keeps (hK : Keeps a0 s) (lockLost : Bool) : Keeps a0 (clocksLost s lockLost) := by
  unfold clocksLost
  try extract_lets
  iterate 30 all_goals try first | with_reducible assumption | with_reducible apply ite_keeps | with_reducible apply setReg_keeps | with_reducible apply failPackage_keeps | with_reducible apply report_keeps | (intro _; try beta_reduce) | split | extract_lets | (with_reducible apply Keeps.lit <;> first | rfl | skip)

theorem trainTier_keeps (hK : Keeps a0 s) : Keeps a0 (trainTier s) := by
  unfold trainTier
  repeat' first | with_reducible assumption | with_reducible apply trainDdr_keeps | with_reducible apply foldl_keeps | with_reducible apply foldl_keeps_fst | (intro _; try beta_reduce)

theorem loseDomain_keeps (hK : Keeps a0 s) : Keeps a0 (loseDomain s) := by
  unfold loseDomain
  repeat' first | with_reducible assumption | (intro _; try beta_reduce) | (with_reducible apply Keeps.lit <;> first | rfl | skip)

theorem coldBoot_keeps (hK : Keeps a0 s) (b : Board) : Keeps a0 (coldBoot s b) := by
  unfold coldBoot
  extract_lets off s1 s2 pw s3 s4
  have h2 : Keeps a0 s2 := ite_keeps (fun _ => loseDomain_keeps (coldCore_keeps hK)) (fun _ => coldCore_keeps hK)
  have h3 : Keeps a0 s3 := h2.upd rfl rfl rfl rfl rfl rfl rfl rfl rfl
  have h4 : Keeps a0 s4 := ite_keeps (fun _ => logEntry_keeps h3 _ _) (fun _ => h3)
  split
  · exact clocksLost_keeps h4 _
  · apply refreshSec_keeps
    apply restoreStore_keeps
    apply trainTier_keeps
    apply drawInterleave_keeps
    apply drawMemKeys_keeps
    apply buildMap_keeps
    apply useSlot_keeps
    exact h4.upd rfl rfl rfl rfl rfl rfl rfl rfl rfl

theorem coldReset_keeps (hK : Keeps a0 s) (b : Board) : Keeps a0 (coldReset s b) := by
  unfold coldReset
  iterate 30 all_goals try first | with_reducible assumption | with_reducible apply ite_keeps | with_reducible apply coldBoot_keeps | (intro _; try beta_reduce) | split

theorem packageWarm_keeps (hK : Keeps a0 s) (reread : Bool) : Keeps a0 (packageWarm s reread) := by
  unfold packageWarm
  try extract_lets
  repeat' first | with_reducible assumption | with_reducible apply setReg_keeps | with_reducible apply refreshSec_keeps | with_reducible apply recountHeld_keeps | with_reducible apply warmCore_keeps | with_reducible apply buildMap_keeps | with_reducible apply trainTier_keeps | with_reducible apply useSlot_keeps | with_reducible apply ite_keeps | with_reducible apply ite_keeps_fst | (intro _; try beta_reduce) | split | extract_lets | (dsimp +zetaDelta only; split)

theorem warmReset_keeps (hK : Keeps a0 s) : Keeps a0 (warmReset s) := by
  unfold warmReset
  iterate 30 all_goals try first | with_reducible assumption | with_reducible apply ite_keeps | with_reducible apply packageWarm_keeps | (intro _; try beta_reduce) | split

theorem abortOn_keeps (hK : Keeps a0 s) (es : List Nat) : Keeps a0 (abortOn s es) := by
  unfold abortOn
  iterate 30 all_goals try first | with_reducible assumption | with_reducible apply endAll_keeps | (intro _; try beta_reduce)

theorem moveOutEmbers_keeps (hK : Keeps a0 s) (r : Nat) : Keeps a0 (moveOutEmbers s r) := by
  unfold moveOutEmbers
  iterate 30 all_goals try first | with_reducible assumption | with_reducible apply emberOut_keeps | with_reducible apply modEmber_keeps | with_reducible apply foldl_keeps | with_reducible apply foldl_keeps_fst | with_reducible apply ite_keeps_fst | (intro _; try beta_reduce) | (with_reducible apply Keeps.lit <;> first | rfl | skip)

theorem regionReset_keeps (hK : Keeps a0 s) (p : Nat) : Keeps a0 (regionReset s p) := by
  unfold regionReset
  try extract_lets
  repeat' first | with_reducible assumption | with_reducible apply clearEngine_keeps | with_reducible apply settle_keeps | with_reducible apply abortOn_keeps | with_reducible apply moveOutEmbers_keeps | with_reducible apply loseExtent_keeps | with_reducible apply foldl_keeps | with_reducible apply foldl_keeps_fst | (intro _; try beta_reduce) | split | extract_lets | (dsimp +zetaDelta only; split)

theorem zeroRegion_keeps (hK : Keeps a0 s) (r : Nat) : Keeps a0 (zeroRegion s r) := by
  unfold zeroRegion
  iterate 30 all_goals try first | with_reducible assumption | with_reducible apply zeroExtent_keeps | with_reducible apply loseEmbers_keeps

theorem abandonStream_keeps (hK : Keeps a0 s) (x : Nat) : Keeps a0 (abandonStream s x) := by
  unfold abandonStream
  repeat' first | with_reducible assumption | with_reducible apply endCommand_keeps | with_reducible apply report_keeps | with_reducible apply nextCut_keeps | with_reducible apply dropStream_keeps | (intro _; try beta_reduce) | split | (dsimp +zetaDelta only; split)

theorem dieWarm_keeps (hK : Keeps a0 s) (d : Nat) : Keeps a0 (dieWarm s d) := by
  unfold dieWarm
  try extract_lets
  repeat' first | with_reducible assumption | with_reducible apply freshArray_keeps | with_reducible apply settle_keeps | with_reducible apply trainLink_keeps | with_reducible apply abortOn_keeps | with_reducible apply zeroRegion_keeps | with_reducible apply abandonStream_keeps | with_reducible apply buildDie_keeps | with_reducible apply foldl_keeps | with_reducible apply foldl_keeps_fst | (intro _; try beta_reduce) | extract_lets | (with_reducible apply Keeps.lit <;> first | rfl | skip)

theorem startChange_keeps (hK : Keeps a0 s) (target : Nat) : Keeps a0 (startChange s target) := by
  unfold startChange
  try extract_lets
  repeat' first | with_reducible assumption | with_reducible apply setRf_keeps | with_reducible apply advanceEpoch_keeps | with_reducible apply logEntry_keeps | with_reducible apply refreshSec_keeps | (intro _; try beta_reduce) | extract_lets | (with_reducible apply Keeps.lit <;> first | rfl | skip)

theorem tenantEnd_keeps (hK : Keeps a0 s) (v : Word) : Keeps a0 (tenantEnd s v) := by
  unfold tenantEnd
  iterate 30 all_goals try first | with_reducible assumption | with_reducible apply ite_keeps | with_reducible apply startChange_keeps | (intro _; try beta_reduce) | split

theorem resetWrite_keeps (hK : Keeps a0 s) (v : Word) : Keeps a0 (resetWrite s v) := by
  unfold resetWrite
  try extract_lets
  iterate 30 all_goals try first | with_reducible assumption | with_reducible apply ite_keeps | with_reducible apply teardownNow_keeps | with_reducible apply settle_keeps | with_reducible apply resetEngine_keeps | with_reducible apply regionReset_keeps | with_reducible apply dieWarm_keeps | with_reducible apply warmReset_keeps | with_reducible apply coldReset_keeps | (intro _; try beta_reduce) | split | extract_lets | (dsimp +zetaDelta only; split) | (with_reducible apply Keeps.lit <;> first | rfl | skip)

theorem peerCtlWrite_keeps (hK : Keeps a0 s) (v : Word) : Keeps a0 (peerCtlWrite s v) := by
  unfold peerCtlWrite
  try extract_lets
  iterate 30 all_goals try first | with_reducible assumption | with_reducible apply ite_keeps | with_reducible apply setReg_keeps | with_reducible apply settle_keeps | with_reducible apply portsDown_keeps | (intro _; try beta_reduce) | split | extract_lets

theorem fltCtlWrite_keeps (hK : Keeps a0 s) (v : Word) : Keeps a0 (fltCtlWrite s v) := by
  unfold fltCtlWrite
  try extract_lets
  iterate 30 all_goals try first | with_reducible assumption | with_reducible apply ite_keeps | with_reducible apply setReg_keeps | with_reducible apply setRf_keeps | (intro _; try beta_reduce) | split | extract_lets | (with_reducible apply Keeps.lit <;> first | rfl | skip)

theorem logHeadWrite_keeps (hK : Keeps a0 s) (v : Word) : Keeps a0 (logHeadWrite s v) := by
  unfold logHeadWrite
  iterate 30 all_goals try first | with_reducible assumption | with_reducible apply ite_keeps | with_reducible apply setReg_keeps | with_reducible apply bump_keeps | (intro _; try beta_reduce) | split

theorem tbSetWrite_keeps (hK : Keeps a0 s) (src : Source) (v : Word) : Keeps a0 (tbSetWrite s src v) := by
  unfold tbSetWrite
  repeat' first | with_reducible assumption | with_reducible apply setReg_keeps | with_reducible apply logAccess_keeps | with_reducible apply ite_keeps | with_reducible apply ite_keeps_fst | (intro _; try beta_reduce) | split | (dsimp +zetaDelta only; split) | (with_reducible apply Keeps.lit <;> first | rfl | skip)

theorem grpCfgWrite_keeps (hK : Keeps a0 s) (g : Nat) (v : Word) : Keeps a0 (grpCfgWrite s g v) := by
  unfold grpCfgWrite
  try extract_lets
  iterate 30 all_goals try first | with_reducible assumption | with_reducible apply ite_keeps | with_reducible apply advanceEpoch_keeps | with_reducible apply setReg_keeps | with_reducible apply restartGroup_keeps | (intro _; try beta_reduce) | split | extract_lets

theorem expertChange_keeps (hK : Keeps a0 s) (b : Block) (v : Word) : Keeps a0 (expertChange s b v) := by
  unfold expertChange
  iterate 30 all_goals try first | with_reducible assumption | with_reducible apply ite_keeps | with_reducible apply setReg_keeps | with_reducible apply foldl_keeps | with_reducible apply foldl_keeps_fst | (intro _; try beta_reduce) | split

theorem applyWrite_keeps (hK : Keeps a0 s) (src : Source) (r : Reg) (v : Word) : Keeps a0 (applyWrite s src r v) := by
  unfold applyWrite
  iterate 30 all_goals try first | with_reducible assumption | with_reducible apply ite_keeps | with_reducible apply ctxCtlWrite_keeps | with_reducible apply ringCfgWrite_keeps | with_reducible apply eqCfgWrite_keeps | with_reducible apply forceWrite_keeps | with_reducible apply scriptWrite_keeps | with_reducible apply emberWrite_keeps | with_reducible apply pkgWrite_keeps | with_reducible apply peerCtlWrite_keeps | with_reducible apply expertChange_keeps | with_reducible apply fltCtlWrite_keeps | with_reducible apply logHeadWrite_keeps | with_reducible apply resetWrite_keeps | with_reducible apply tbSetWrite_keeps | with_reducible apply tenantEnd_keeps | with_reducible apply updateNow_keeps | with_reducible apply setReg_keeps | with_reducible apply logAccess_keeps | with_reducible apply grpCfgWrite_keeps | with_reducible apply advanceEpoch_keeps | (intro _; try beta_reduce) | split | (with_reducible apply Keeps.lit <;> first | rfl | skip)

theorem writeReg_keeps (hK : Keeps a0 s) (src : Source) (r : Reg) (v : Word) : Keeps a0 (writeReg s src r v) := by
  unfold writeReg
  try extract_lets
  iterate 30 all_goals try first | with_reducible assumption | with_reducible apply ite_keeps | with_reducible apply applyWrite_keeps | with_reducible apply logAccess_keeps | (intro _; try beta_reduce) | split | extract_lets

theorem msixWriteWord_keeps (hK : Keeps a0 s) (i : Nat) (v : Word32) : Keeps a0 (msixWriteWord s i v) := by
  unfold msixWriteWord
  try extract_lets
  repeat' first | with_reducible assumption | with_reducible apply releaseVector_keeps | with_reducible apply ite_keeps | with_reducible apply ite_keeps_fst | (intro _; try beta_reduce) | split | extract_lets | (dsimp +zetaDelta only; split) | (with_reducible apply Keeps.lit <;> first | rfl | skip)

theorem msixWrite_keeps (hK : Keeps a0 s) (src : Source) (off size : Nat) (v : Word) : Keeps a0 (msixWrite s src off size v) := by
  unfold msixWrite
  try extract_lets
  iterate 30 all_goals try first | with_reducible assumption | with_reducible apply ite_keeps | with_reducible apply logAccess_keeps | with_reducible apply msixWriteWord_keeps | (intro _; try beta_reduce) | split | extract_lets

theorem dropLatch_keeps (hK : Keeps a0 s) (src : Source) : Keeps a0 (dropLatch s src) := by
  unfold dropLatch
  iterate 30 all_goals try first | with_reducible assumption | with_reducible apply ite_keeps_fst | (intro _; try beta_reduce) | (with_reducible apply Keeps.lit <;> first | rfl | skip)

theorem writeAt_keeps (hK : Keeps a0 s) (src : Source) (off size : Nat) (v : Word) : Keeps a0 (writeAt s src off size v) := by
  unfold writeAt
  try extract_lets
  iterate 30 all_goals try first | with_reducible assumption | with_reducible apply ite_keeps | with_reducible apply dropLatch_keeps | with_reducible apply logAccess_keeps | with_reducible apply msixWrite_keeps | with_reducible apply writeReg_keeps | (intro _; try beta_reduce) | split | extract_lets | (dsimp +zetaDelta only; split) | (with_reducible apply Keeps.lit <;> first | rfl | skip)

theorem barWrite_keeps (hK : Keeps a0 s) (src : Source) (off size : Nat) (v : Word) : Keeps a0 (barWrite s src off size v) := by
  unfold barWrite
  iterate 30 all_goals try first | with_reducible assumption | with_reducible apply ite_keeps | with_reducible apply gated_keeps | with_reducible apply writeAt_keeps | (intro _; try beta_reduce) | split | (with_reducible apply Keeps.lit <;> first | rfl | skip)

theorem barReg_keeps (hK : Keeps a0 s) (src : Source) (r : Reg) (v : Word) : Keeps a0 (barReg s src r v) := by
  unfold barReg
  iterate 30 all_goals try first | with_reducible assumption | with_reducible apply barWrite_keeps

theorem readLow_keeps (hK : Keeps a0 s) (src : Source) (off : Nat) : Keeps a0 (readLow s src off).2 := by
  unfold readLow
  try extract_lets
  iterate 30 all_goals try first | with_reducible assumption | with_reducible apply dropLatch_keeps | extract_lets | (with_reducible apply Keeps.lit <;> first | rfl | skip)

theorem readHigh_keeps (hK : Keeps a0 s) (src : Source) (off : Nat) : Keeps a0 (readHigh s src off).2 := by
  unfold readHigh
  try extract_lets
  iterate 30 all_goals try first | with_reducible assumption | with_reducible apply dropLatch_keeps | with_reducible apply ite_keeps_fst | (intro _; try beta_reduce) | split | extract_lets | (dsimp +zetaDelta only; split) | (with_reducible apply Keeps.lit <;> first | rfl | skip)

theorem readHalf_keeps (hK : Keeps a0 s) (src : Source) (off : Nat) : Keeps a0 (readHalf s src off).2 := by
  unfold readHalf
  iterate 30 all_goals try first | with_reducible assumption | with_reducible apply ite_keeps | with_reducible apply dropLatch_keeps | with_reducible apply readLow_keeps | with_reducible apply readHigh_keeps | (intro _; try beta_reduce) | split

theorem answerHalf_keeps (hK : Keeps a0 s) (src : Source) (v : Word32) : Keeps a0 (answerHalf s src v) := by
  unfold answerHalf
  iterate 30 all_goals try first | with_reducible assumption | with_reducible apply emit_keeps | split | (with_reducible apply Keeps.lit <;> first | rfl | skip)

theorem skipPreset_keeps (hK : Keeps a0 s) (off : Nat) : Keeps a0 (skipPreset s off) := by
  unfold skipPreset
  iterate 30 all_goals try first | with_reducible assumption | with_reducible apply logAccess_keeps | with_reducible apply skipEntry_keeps

theorem applyPreset_keeps (hK : Keeps a0 s) (e : Nat) : Keeps a0 (applyPreset s e) := by
  unfold applyPreset
  try extract_lets
  iterate 30 all_goals try first | with_reducible assumption | with_reducible apply ite_keeps | with_reducible apply writeReg_keeps | with_reducible apply skipPreset_keeps | (intro _; try beta_reduce) | split | extract_lets | (dsimp +zetaDelta only; split) | (with_reducible apply Keeps.lit <;> first | rfl | skip)

theorem applyPresets_keeps (hK : Keeps a0 s) : Keeps a0 (applyPresets s) := by
  unfold applyPresets
  iterate 30 all_goals try first | with_reducible assumption | with_reducible apply applyPreset_keeps | with_reducible apply foldl_keeps | with_reducible apply foldl_keeps_fst | (intro _; try beta_reduce)

theorem settleControls_keeps (hK : Keeps a0 s) : Keeps a0 (settleControls s) := by
  unfold settleControls
  iterate 30 all_goals try first | with_reducible assumption | (with_reducible apply Keeps.lit <;> first | rfl | skip)

theorem becomeReady_keeps (hK : Keeps a0 s) : Keeps a0 (becomeReady s) := by
  unfold becomeReady
  try extract_lets
  repeat' first | with_reducible assumption | with_reducible apply applyPresets_keeps | with_reducible apply settleControls_keeps | with_reducible apply setRf_keeps | with_reducible apply emit_keeps | with_reducible apply ite_keeps | with_reducible apply ite_keeps_fst | (intro _; try beta_reduce) | split | extract_lets | (dsimp +zetaDelta only; split) | (with_reducible apply Keeps.lit <;> first | rfl | skip)

theorem tearAll_keeps (hK : Keeps a0 s) : Keeps a0 (tearAll s) := by
  unfold tearAll
  iterate 30 all_goals try first | with_reducible assumption | with_reducible apply teardownNow_keeps | with_reducible apply foldl_keeps | with_reducible apply foldl_keeps_fst | (intro _; try beta_reduce)

theorem tdiError_keeps (hK : Keeps a0 s) : Keeps a0 (tdiError s) := by
  unfold tdiError
  iterate 30 all_goals try first | with_reducible assumption | with_reducible apply tearAll_keeps | with_reducible apply setTdisp_keeps | with_reducible apply advanceEpoch_keeps

theorem configure_keeps (hK : Keeps a0 s) (c : ConfigOp) : Keeps a0 (configure s c) := by
  cases c with
  | enables m b x k p =>
    exact foldl_keeps _ (fun _ _ h => releaseVector_keeps h _) _ _ (hK.upd rfl rfl rfl rfl rfl rfl rfl rfl rfl)
  | _ => exact hK.upd rfl rfl rfl rfl rfl rfl rfl rfl rfl

theorem spdm_keeps (hK : Keeps a0 s) (act : State → State) (hact : ∀ q, Keeps a0 q → Keeps a0 (act q)) : Keeps a0 (spdm s act) := by
  unfold spdm
  iterate 30 all_goals try first | with_reducible assumption | with_reducible apply ite_keeps | with_reducible apply hact | (intro _; try beta_reduce) | split

theorem spdmOk_keeps (hK : Keeps a0 s) (data : List Byte) : Keeps a0 (spdmOk s data) := by
  unfold spdmOk
  iterate 30 all_goals try first | with_reducible assumption | with_reducible apply emit_keeps | with_reducible apply spdm_keeps

theorem spdmError_keeps (hK : Keeps a0 s) (name : String) : Keeps a0 (spdmError s name) := by
  unfold spdmError
  iterate 30 all_goals try first | with_reducible assumption | with_reducible apply emit_keeps | with_reducible apply spdm_keeps

theorem closeSession_keeps (hK : Keeps a0 s) (n : Nat) : Keeps a0 (closeSession s n) := by
  unfold closeSession
  iterate 30 all_goals try first | with_reducible assumption | with_reducible apply refreshSec_keeps | (intro _; try beta_reduce) | (with_reducible apply Keeps.lit <;> first | rfl | skip)

theorem inSession_keeps (hK : Keeps a0 s) (n : Nat) (act : State → Session → State) (hact : ∀ q x0, Keeps a0 q → Keeps a0 (act q x0)) : Keeps a0 (inSession s n act) := by
  unfold inSession
  iterate 30 all_goals try first | with_reducible assumption | with_reducible apply spdm_keeps | with_reducible apply spdmError_keeps | with_reducible apply hact | (intro _; try beta_reduce) | split | (with_reducible apply Keeps.lit <;> first | rfl | skip)

theorem kpAnswer_keeps (hK : Keeps a0 s) (st : Nat) : Keeps a0 (kpAnswer s st) := by
  unfold kpAnswer
  iterate 30 all_goals try first | with_reducible assumption | with_reducible apply emit_keeps

theorem keyMessage_keeps (hK : Keeps a0 s) (n : Nat) (act : State → State) (hact : ∀ q, Keeps a0 q → Keeps a0 (act q)) : Keeps a0 (keyMessage s n act) := by
  unfold keyMessage
  iterate 30 all_goals try first | with_reducible assumption | with_reducible apply ite_keeps | with_reducible apply inSession_keeps | with_reducible apply kpAnswer_keeps | with_reducible apply hact | (intro _; try beta_reduce) | split

theorem setPolicyNow_keeps (hK : Keeps a0 s) (p : BitVec 512) : Keeps a0 (setPolicyNow s p) := by
  unfold setPolicyNow
  repeat' first | with_reducible apply kpAnswer_keeps | with_reducible assumption | split
  with_reducible apply startChange_keeps
  exact Keeps.upd (kpAnswer_keeps hK kpOk) rfl rfl rfl rfl rfl rfl rfl rfl rfl

theorem putSetKeyNow_keeps (hK : Keeps a0 s) (id : Word) (key : BitVec 256) : Keeps a0 (putSetKeyNow s id key) := by
  unfold putSetKeyNow
  iterate 30 all_goals try first | with_reducible assumption | with_reducible apply ite_keeps | with_reducible apply kpAnswer_keeps | with_reducible apply advanceEpoch_keeps | (intro _; try beta_reduce) | split | (with_reducible apply Keeps.lit <;> first | rfl | skip)

theorem putAdapterKeyNow_keeps (hK : Keeps a0 s) (k : Nat) (key : BitVec 256) : Keeps a0 (putAdapterKeyNow s k key) := by
  unfold putAdapterKeyNow
  iterate 30 all_goals try first | with_reducible assumption | with_reducible apply ite_keeps | with_reducible apply kpAnswer_keeps | with_reducible apply advanceEpoch_keeps | with_reducible apply setAdpKey_keeps | (intro _; try beta_reduce) | split

theorem eraseAdapterKey_keeps (hK : Keeps a0 s) (k : Nat) : Keeps a0 (eraseAdapterKey s k) := by
  unfold eraseAdapterKey
  iterate 30 all_goals try first | with_reducible assumption | with_reducible apply ite_keeps | with_reducible apply kpAnswer_keeps | with_reducible apply eraseSlot_keeps | (intro _; try beta_reduce) | split | (with_reducible apply Keeps.lit <;> first | rfl | skip)

theorem eraseKeyNow_keeps (hK : Keeps a0 s) (kind : Nat) (ident : Word) : Keeps a0 (eraseKeyNow s kind ident) := by
  unfold eraseKeyNow
  iterate 30 all_goals try first | with_reducible assumption | with_reducible apply kpAnswer_keeps | with_reducible apply advanceEpoch_keeps | with_reducible apply eraseAdapterKey_keeps | with_reducible apply ite_keeps_fst | (intro _; try beta_reduce) | split | (with_reducible apply Keeps.lit <;> first | rfl | skip)

theorem haveWrap_keeps (hK : Keeps a0 s) : Keeps a0 (haveWrap s) := by
  unfold haveWrap
  try extract_lets
  iterate 30 all_goals try first | with_reducible assumption | with_reducible apply ite_keeps | with_reducible apply drawKey_keeps | with_reducible apply ite_keeps_fst | (intro _; try beta_reduce) | split | extract_lets | (with_reducible apply Keeps.lit <;> first | rfl | skip)

theorem preserveNow_keeps (hK : Keeps a0 s) : Keeps a0 (preserveNow s) := by
  unfold preserveNow
  try extract_lets
  iterate 30 all_goals try first | with_reducible assumption | with_reducible apply ite_keeps | with_reducible apply kpAnswer_keeps | with_reducible apply haveWrap_keeps | with_reducible apply refreshSec_keeps | with_reducible apply logEntry_keeps | (intro _; try beta_reduce) | split | extract_lets | (with_reducible apply Keeps.lit <;> first | rfl | skip)

theorem endTenancyNow_keeps (hK : Keeps a0 s) : Keeps a0 (endTenancyNow s) := by
  unfold endTenancyNow
  iterate 30 all_goals try first | with_reducible assumption | with_reducible apply ite_keeps | with_reducible apply kpAnswer_keeps | with_reducible apply startChange_keeps | (intro _; try beta_reduce) | split

theorem tdispRequest_keeps (hK : Keeps a0 s) (n : Nat) (ok : State → Bool) (next : State → State) (hnext : ∀ q, Keeps a0 q → Keeps a0 (next q)) : Keeps a0 (tdispRequest s n ok next) := by
  unfold tdispRequest
  iterate 30 all_goals try first | with_reducible assumption | with_reducible apply ite_keeps | with_reducible apply inSession_keeps | with_reducible apply emit_keeps | with_reducible apply advanceEpoch_keeps | with_reducible apply hnext | (intro _; try beta_reduce) | split

theorem endTenancyWork_keeps (hK : Keeps a0 s) : Keeps a0 (endTenancyWork s) := by
  unfold endTenancyWork
  iterate 30 all_goals try first | with_reducible assumption | with_reducible apply portsDown_keeps | with_reducible apply setRf_keeps | with_reducible apply endWork_keeps | with_reducible apply foldl_keeps | with_reducible apply foldl_keeps_fst | (intro _; try beta_reduce)

theorem newKeys_keeps (hK : Keeps a0 s) : Keeps a0 (newKeys s) := by
  unfold newKeys
  try extract_lets
  iterate 30 all_goals try first | with_reducible assumption | with_reducible apply drawInterleave_keeps | with_reducible apply drawMemKeys_keeps | extract_lets | (with_reducible apply Keeps.lit <;> first | rfl | skip)

theorem scrubAll_keeps (hK : Keeps a0 s) (failed : List Nat) : Keeps a0 (scrubAll s failed) := by
  unfold scrubAll
  extract_lets u
  have h1 : Keeps a0 u :=
    ⟨hK.1, hK.2, hK.3, hK.4, fun w => smWf_filter _ _ _ (hK.5 w), hK.6, fun _ => rfl, hK.8, hK.9⟩
  exact h1.upd rfl rfl rfl rfl rfl rfl rfl rfl rfl

theorem installPolicy_keeps (hK : Keeps a0 s) (target : Nat) : Keeps a0 (installPolicy s target) := by
  unfold installPolicy
  try extract_lets
  iterate 30 all_goals try first | with_reducible assumption | with_reducible apply ite_keeps | (intro _; try beta_reduce) | split | extract_lets | (with_reducible apply Keeps.lit <;> first | rfl | skip)

theorem closeChange_keeps (hK : Keeps a0 s) (target : Nat) (failed : List Nat) : Keeps a0 (closeChange s target failed) := by
  unfold closeChange
  try extract_lets
  iterate 30 all_goals try first | with_reducible assumption | with_reducible apply ite_keeps | with_reducible apply setRf_keeps | with_reducible apply logEntry_keeps | with_reducible apply packageWarm_keeps | with_reducible apply report_keeps | with_reducible apply foldl_keeps | with_reducible apply foldl_keeps_fst | (intro _; try beta_reduce) | split | extract_lets

theorem dropWrap_keeps (hK : Keeps a0 s) : Keeps a0 (dropWrap s) := by
  unfold dropWrap
  iterate 30 all_goals try first | with_reducible assumption | with_reducible apply ite_keeps | with_reducible apply logEntry_keeps | (intro _; try beta_reduce) | split | (with_reducible apply Keeps.lit <;> first | rfl | skip)

theorem zeroiseStore_keeps (hK : Keeps a0 s) : Keeps a0 (zeroiseStore s) := by
  unfold zeroiseStore
  iterate 30 all_goals try first | with_reducible assumption | (with_reducible apply Keeps.lit <;> first | rfl | skip)

theorem alarm_keeps (hK : Keeps a0 s) (code detail : Nat) : Keeps a0 (alarm s code detail) := by
  unfold alarm
  try extract_lets
  iterate 30 all_goals try first | with_reducible assumption | with_reducible apply ite_keeps | with_reducible apply dropWrap_keeps | with_reducible apply logEntry_keeps | with_reducible apply refreshSec_keeps | with_reducible apply zeroiseStore_keeps | with_reducible apply startChange_keeps | (intro _; try beta_reduce) | split | extract_lets | (with_reducible apply Keeps.lit <;> first | rfl | skip)

theorem setPower_keeps (hK : Keeps a0 s) (p : PowerSt) : Keeps a0 (setPower s p) := by
  unfold setPower
  iterate 30 all_goals try first | with_reducible assumption | (with_reducible apply Keeps.lit <;> first | rfl | skip)

theorem supplyReport_keeps (hK : Keeps a0 s) (code sev action info : Nat) : Keeps a0 (supplyReport s code sev action info) := by
  unfold supplyReport
  iterate 30 all_goals try first | with_reducible assumption | with_reducible apply report_keeps

theorem measure_keeps (hK : Keeps a0 s) (w : Nat) : Keeps a0 (Sys2Proof.Machine.measure s w) := by
  unfold Sys2Proof.Machine.measure
  extract_lets unmet first at' q u
  have h1 : Keeps a0 u := setPower_keeps hK _
  clear_value u
  split
  · exact supplyReport_keeps h1 _ _ _ _
  · exact h1

theorem setThrottling_keeps (hK : Keeps a0 s) (u t : Nat) (on : Bool) : Keeps a0 (setThrottling s u t on) := by
  unfold setThrottling
  iterate 30 all_goals try first | with_reducible assumption | with_reducible apply ite_keeps | with_reducible apply supplyReport_keeps | with_reducible apply setPower_keeps | (intro _; try beta_reduce) | split | (with_reducible apply Keeps.lit <;> first | rfl | skip)

theorem setLimited_keeps (hK : Keeps a0 s) (u t : Nat) : Keeps a0 (setLimited s u t) := by
  unfold setLimited
  try extract_lets
  iterate 30 all_goals try first | with_reducible assumption | with_reducible apply ite_keeps | with_reducible apply setPower_keeps | with_reducible apply supplyReport_keeps | (intro _; try beta_reduce) | split | extract_lets | (with_reducible apply Keeps.lit <;> first | rfl | skip)

theorem setTherm_keeps (hK : Keeps a0 s) (d b : Nat) : Keeps a0 (setTherm s d b) := by
  unfold setTherm
  iterate 30 all_goals try first | with_reducible assumption | with_reducible apply setPower_keeps | (with_reducible apply Keeps.lit <;> first | rfl | skip)

theorem sampleDie_keeps (hK : Keeps a0 s) (ts : List Nat) (d : Nat) : Keeps a0 (sampleDie ts s d) := by
  unfold sampleDie
  try extract_lets
  repeat' first | with_reducible assumption | with_reducible apply setThrottling_keeps | with_reducible apply setLimited_keeps | with_reducible apply setTherm_keeps | (intro _; try beta_reduce) | extract_lets

theorem sampleOther_keeps (hK : Keeps a0 s) (u t : Nat) : Keeps a0 (sampleOther u t s) := by
  unfold sampleOther
  try extract_lets
  iterate 30 all_goals try first | with_reducible assumption | with_reducible apply ite_keeps | with_reducible apply setTherm_keeps | with_reducible apply setLimited_keeps | with_reducible apply setThrottling_keeps | (intro _; try beta_reduce) | split | extract_lets

theorem sampleAll_keeps (hK : Keeps a0 s) (dies hubs hbms : List Nat) : Keeps a0 (sampleAll s dies hubs hbms) := by
  unfold sampleAll
  try extract_lets
  iterate 30 all_goals try first | with_reducible assumption | with_reducible apply sampleDie_keeps | with_reducible apply sampleOther_keeps | with_reducible apply setReg_keeps | with_reducible apply setPower_keeps | with_reducible apply foldl_keeps | with_reducible apply foldl_keeps_fst | (intro _; try beta_reduce) | extract_lets | (with_reducible apply Keeps.lit <;> first | rfl | skip)

theorem railsOff_keeps (hK : Keeps a0 s) (rs : List Nat) : Keeps a0 (railsOff s rs) := by
  unfold railsOff
  iterate 30 all_goals try first | with_reducible assumption | with_reducible apply setPower_keeps | with_reducible apply foldl_keeps | with_reducible apply foldl_keeps_fst | (intro _; try beta_reduce) | (with_reducible apply Keeps.lit <;> first | rfl | skip)

theorem powerLoss_keeps (hK : Keeps a0 s) : Keeps a0 (powerLoss s) := by
  unfold powerLoss
  try extract_lets
  iterate 30 all_goals try first | with_reducible assumption | with_reducible apply coldCore_keeps | (intro _; try beta_reduce) | extract_lets | (with_reducible apply Keeps.lit <;> first | rfl | skip)

theorem smb_keeps (hK : Keeps a0 s) (act : State → State) (hact : ∀ q, Keeps a0 q → Keeps a0 (act q)) : Keeps a0 (smb s act) := by
  unfold smb
  iterate 30 all_goals try first | with_reducible assumption | with_reducible apply ite_keeps | with_reducible apply hact | (intro _; try beta_reduce) | split

theorem smbWord_keeps (hK : Keeps a0 s) (v : Nat) : Keeps a0 (smbWord s v) := by
  unfold smbWord
  iterate 30 all_goals try first | with_reducible assumption | with_reducible apply emit_keeps

theorem countByte_keeps (hK : Keeps a0 s) (n : Nat) : Keeps a0 (countByte s n).2 := by
  unfold countByte
  iterate 30 all_goals try first | with_reducible assumption | with_reducible apply ite_keeps | with_reducible apply draw_keeps | with_reducible apply ite_keeps_fst | (intro _; try beta_reduce) | split

theorem monOk_keeps (hK : Keeps a0 s) (data : List Nat) : Keeps a0 (monOk s data) := by
  unfold monOk
  iterate 30 all_goals try first | with_reducible assumption | with_reducible apply emit_keeps

theorem monErr_keeps (hK : Keeps a0 s) (name : String) : Keeps a0 (monErr s name) := by
  unfold monErr
  iterate 30 all_goals try first | with_reducible assumption | with_reducible apply emit_keeps

theorem monFailed_keeps (hK : Keeps a0 s) : Keeps a0 (monFailed s) := by
  unfold monFailed
  iterate 30 all_goals try first | with_reducible assumption | with_reducible apply emit_keeps | with_reducible apply draw_keeps | with_reducible apply ite_keeps_fst

theorem monitorLine_keeps (hK : Keeps a0 s) (act : State → State) (hact : ∀ q, Keeps a0 q → Keeps a0 (act q)) : Keeps a0 (monitorLine s act) := by
  unfold monitorLine
  iterate 30 all_goals try first | with_reducible assumption | with_reducible apply ite_keeps | with_reducible apply hact | (intro _; try beta_reduce) | split

theorem openOnly_keeps (hK : Keeps a0 s) (act : State → State) (hact : ∀ q, Keeps a0 q → Keeps a0 (act q)) : Keeps a0 (openOnly s act) := by
  unfold openOnly
  iterate 30 all_goals try first | with_reducible assumption | with_reducible apply ite_keeps | with_reducible apply monitorLine_keeps | with_reducible apply monErr_keeps | with_reducible apply hact | (intro _; try beta_reduce) | split

end Sys2Proof.Laws
end

