-- ==== Sys2Proof/Laws/Ops.lean ====
section
/-! SUPPORT. What the shared operations do, said once: homes of addresses, storing a register, and what a store changes of
memory and of poison marks. -/

namespace Sys2Proof.Laws

open Sys2Proof.Machine

/-! ## Registers -/

/-- A register reads back what was stored in it. -/
@[simp] theorem regRaw_setReg_same (s : State) (r : Reg) (v : Word) : regRaw (setReg s r v) r = v := by
  simp only [regRaw, setReg, smGet_smSet, if_true, BitVec.xor_assoc, BitVec.xor_self, BitVec.xor_zero]

/-- A register at another offset is as it was. -/
theorem regRaw_setReg_other (s : State) (r q : Reg) (v : Word) (h : q.offset ≠ r.offset) :
    regRaw (setReg s r v) q = regRaw s q := by
  simp only [regRaw, setReg, smGet_smSet, h, if_false]

/-- What a register reads depends on the registers alone. -/
theorem reg_of_regs {s t : State} (h : t.regs = s.regs) (r : Reg) : reg t r = reg s r := by
  simp only [reg, expertOn, regRaw, h]
  rfl

theorem rf_of_regs {s t : State} (h : t.regs = s.regs) (r : Reg) (lo len : Nat) : rf t r lo len = rf s r lo len := by
  simp only [rf, reg_of_regs h]

/-- The home of an address depends on the registers alone. -/
theorem resolve_of_regs {s t : State} (h : t.regs = s.regs) (a : Nat) : resolve t a = resolve s a := by
  simp only [resolve, ownPkg, rf_of_regs h]
  rfl

/-- What a byte reads depends on the registers and the bytes alone. -/
theorem readByte_of {s t : State} (h : t.regs = s.regs) (hm : t.mem = s.mem) (a : Nat) : readByte t a = readByte s a := by
  simp only [readByte, resolve_of_regs h, hm]

theorem poisoned_of {s t : State} (h : t.regs = s.regs) (hp : t.poison = s.poison) (a : Nat) : poisoned t a = poisoned s a := by
  simp only [poisoned, resolve_of_regs h, hp]

/-! ## Homes of addresses (R140) -/

/-- An offset of a window names nothing in a window. -/
theorem windowAddr_low (o a : Nat) (h : windowAddr o = some a) : a < 0x106000000000 := by
  unfold windowAddr at h
  split at h
  · have e := Option.some.inj h
    omega
  · split at h
    · have e := Option.some.inj h
      omega
    · exact absurd h (by simp)

/-- An address that is no address of a window is its own home. -/
theorem resolve_low (s : State) (a : Nat) (h : a < 0x106000000000) : resolve s a = a := by
  have h1 : ∀ p, rngOf a ≠ some (.peer p) := by
    intro p hp
    unfold rngOf at hp
    repeat' split at hp
    all_goals first | omega | simp at hp
  unfold resolve
  split
  · rename_i p hp
    exact absurd hp (h1 p)
  · rfl

/-- A home is its own home. -/
@[simp] theorem resolve_resolve (s : State) (a : Nat) : resolve s (resolve s a) = resolve s a := by
  cases hr : rngOf a with
  | none => simp only [resolve, hr]
  | some r =>
    cases r with
    | peer p =>
      by_cases hp : p = ownPkg s
      · cases hw : windowAddr (a % 2 ^ 40) with
        | none =>
          have h : resolve s a = a := by simp only [resolve, hr, hp, if_true, hw, Option.getD_none]
          rw [h, h]
        | some b =>
          have h : resolve s a = b := by simp only [resolve, hr, hp, if_true, hw, Option.getD_some]
          rw [h]
          exact resolve_low s b (windowAddr_low _ _ hw)
      · have h : resolve s a = a := by simp only [resolve, hr, hp, if_false]
        rw [h, h]
    | _ => simp only [resolve, hr]

/-! ## Stores -/

/-- Counting a written slab changes no byte, no mark and no register. -/
theorem slabWritten_mem (s : State) (k : Nat) :
    (slabWritten s k).mem = s.mem ∧ (slabWritten s k).poison = s.poison ∧ (slabWritten s k).regs = s.regs := by
  unfold slabWritten
  extract_lets
  split <;> exact ⟨rfl, rfl, rfl⟩

theorem addTraffic_mem (s : State) (p n : Nat) :
    (addTraffic s p n).mem = s.mem ∧ (addTraffic s p n).poison = s.poison ∧ (addTraffic s p n).regs = s.regs := by
  unfold addTraffic
  extract_lets
  split <;> exact ⟨rfl, rfl, rfl⟩

/-- An operation that changes no byte, mark or register, repeated, changes none. -/
theorem foldl_mem {α : Type} (f : State → α → State)
    (hf : ∀ s x, (f s x).mem = s.mem ∧ (f s x).poison = s.poison ∧ (f s x).regs = s.regs) (l : List α) (s : State) :
    (l.foldl f s).mem = s.mem ∧ (l.foldl f s).poison = s.poison ∧ (l.foldl f s).regs = s.regs := by
  induction l generalizing s with
  | nil => exact ⟨rfl, rfl, rfl⟩
  | cons x l ih =>
    obtain ⟨h1, h2, h3⟩ := ih (f s x)
    obtain ⟨g1, g2, g3⟩ := hf s x
    exact ⟨h1.trans g1, h2.trans g2, h3.trans g3⟩

/-- Storing cells at their homes: the bytes are set one after another, nothing else of the state changes. -/
theorem foldl_pokeByte (l : List Host.Cell) (s : State) :
    (l.foldl (fun s c => pokeByte s c.1 c.2) s).mem = l.foldl (fun m c => smSet 0 m (resolve s c.1) c.2) s.mem
      ∧ (l.foldl (fun s c => pokeByte s c.1 c.2) s).poison = s.poison
      ∧ (l.foldl (fun s c => pokeByte s c.1 c.2) s).regs = s.regs := by
  induction l generalizing s with
  | nil => exact ⟨rfl, rfl, rfl⟩
  | cons c l ih =>
    obtain ⟨h1, h2, h3⟩ := ih (pokeByte s c.1 c.2)
    refine ⟨h1.trans ?_, h2, h3⟩
    simp only [List.foldl_cons, pokeByte, resolve_of_regs (t := { s with mem := smSet 0 s.mem (resolve s c.1) c.2 }) (s := s) rfl]

/-- Setting poison marks of lines changes no byte and no register. -/
theorem foldl_setPoison (l : List Nat) (b : Bool) (s : State) :
    (l.foldl (fun s k => setPoison s (k * 64) b) s).mem = s.mem
      ∧ (l.foldl (fun s k => setPoison s (k * 64) b) s).poison = l.foldl (fun m k => smSet false m (resolve s (k * 64) / 64) b) s.poison
      ∧ (l.foldl (fun s k => setPoison s (k * 64) b) s).regs = s.regs := by
  induction l generalizing s with
  | nil => exact ⟨rfl, rfl, rfl⟩
  | cons k l ih =>
    obtain ⟨h1, h2, h3⟩ := ih (setPoison s (k * 64) b)
    refine ⟨h1, h2.trans ?_, h3⟩
    simp only [List.foldl_cons, setPoison,
      resolve_of_regs (t := { s with poison := smSet false s.poison (resolve s (k * 64) / 64) b }) (s := s) rfl]

/-- Writes into host memory only say what goes out. -/
theorem hostWrites_mem (s : State) (keep : List Host.Cell) (lines : List Nat) :
    (hostWrites s keep lines).mem = s.mem ∧ (hostWrites s keep lines).poison = s.poison ∧ (hostWrites s keep lines).regs = s.regs := by
  unfold hostWrites
  apply foldl_mem
  intro s l
  apply foldl_mem
  intro s d
  exact ⟨rfl, rfl, rfl⟩

/-- The lines of a store that receive poisoned data, each at its home. -/
def hitLines (s : State) (bad : List Nat) : List Nat := bad.map fun l => resolve s (l * 64) / 64

/-- The lines of a store that lose their marks, and those that gain them (R184). -/
def clearedLines (s : State) (cells : List Host.Cell) (bad : List Nat) : List Nat :=
  (dedup ((writable s cells).map fun c => c.1 / 64)).filter fun l =>
    !(hitLines s bad).contains l && (List.range 64).all fun i => (writable s cells).any fun c => c.1 == l * 64 + i

def markedLines (s : State) (cells : List Host.Cell) (bad : List Nat) : List Nat :=
  (hitLines s bad).filter fun l => (dedup ((writable s cells).map fun c => c.1 / 64)).contains l

/-- What a store does to bytes, marks and registers, and when it says that some of it was refused. -/
theorem storeQuiet_spec (s : State) (cells : List Host.Cell) (bad : List Nat) :
    (storeQuiet s cells bad).1.mem = (writable s cells).foldl (fun m c => smSet 0 m (resolve s c.1) c.2) s.mem
      ∧ (storeQuiet s cells bad).1.poison
          = (markedLines s cells bad).foldl (fun m k => smSet false m (resolve s (k * 64) / 64) true)
              ((clearedLines s cells bad).foldl (fun m k => smSet false m (resolve s (k * 64) / 64) false) s.poison)
      ∧ (storeQuiet s cells bad).1.regs = s.regs
      ∧ (storeQuiet s cells bad).2 = ((writable s cells).length != cells.length) := by
  unfold storeQuiet
  extract_lets keep lines hit full s1 s2 s3
  obtain ⟨a1, a2, a3⟩ := foldl_pokeByte keep s
  obtain ⟨b1, b2, b3⟩ := foldl_setPoison full false s1
  obtain ⟨c1, c2, c3⟩ := foldl_setPoison (hit.filter fun l => lines.contains l) true s2
  obtain ⟨d1, d2, d3⟩ := foldl_mem slabWritten slabWritten_mem (dedup (keep.map fun c => c.1 / slabBytes)) s3
  obtain ⟨w1, w2, w3⟩ := hostWrites_mem ((dedup (keep.map fun c => c.1 / slabBytes)).foldl slabWritten s3) keep lines
  refine ⟨w1.trans (d1.trans (c1.trans (b1.trans a1))), ?_, w3.trans (d3.trans (c3.trans (b3.trans a3))), rfl⟩
  refine w2.trans (d2.trans (c2.trans ?_))
  have e1 : s1.regs = s.regs := a3
  have e2 : s2.regs = s.regs := b3.trans a3
  simp only [resolve_of_regs e2]
  have e3 : s2.poison = full.foldl (fun m k => smSet false m (resolve s1 (k * 64) / 64) false) s1.poison := b2
  rw [e3]
  simp only [resolve_of_regs e1]
  have e4 : s1.poison = s.poison := a2
  rw [e4]
  rfl

/-- The same of a store that an engine makes: its traffic changes neither bytes nor marks nor registers. -/
theorem storeCells_spec (s : State) (cells : List Host.Cell) (bad : List Nat) :
    (storeCells s cells bad).1.mem = (storeQuiet s cells bad).1.mem
      ∧ (storeCells s cells bad).1.poison = (storeQuiet s cells bad).1.poison
      ∧ (storeCells s cells bad).1.regs = s.regs ∧ (storeCells s cells bad).2 = (storeQuiet s cells bad).2 := by
  unfold storeCells
  extract_lets keep r
  obtain ⟨h1, h2, h3⟩ := foldl_mem (fun x p => addTraffic x p (keep.filter fun c => c.1 / pageBytes == p).length)
    (fun x p => addTraffic_mem x p _) (dedup (keep.map fun c => c.1 / pageBytes)) r.1
  exact ⟨h1, h2, h3.trans (storeQuiet_spec s cells bad).2.2.1, rfl⟩

/-! ## Numbers and bytes (R4) -/

/-- A number of `k` bytes has `k` little-endian bytes. -/
@[simp] theorem leBytes_length (k n : Nat) : (leBytes k n).length = k := by
  induction k generalizing n with
  | zero => rfl
  | succ k ih => simp [leBytes, ih]

/-! ## A list without repeats -/

theorem mem_dedup (l : List Nat) (a : Nat) : a ∈ dedup l ↔ a ∈ l := by
  induction l with
  | nil => simp [dedup]
  | cons b l ih =>
    simp only [dedup, List.mem_cons, List.mem_filter, ih, bne_iff_ne, ne_eq]
    by_cases h : a = b <;> simp [h]

end Sys2Proof.Laws
end

