-- ==== Sys2Proof/Laws/State.lean ====
section
/-! SUPPORT. What each update of the state leaves alone: one lemma for each update and each field, true by
computation, so that no later proof unfolds a record update. -/

namespace Sys2Proof.Laws

open Sys2Proof.Machine

/-! ## setReg -/

@[simp] theorem setReg_pending (s : State) (r : Reg) (v : Word) : (setReg s r v).pending = s.pending := rfl
@[simp] theorem setReg_free (s : State) (r : Reg) (v : Word) : (setReg s r v).free = s.free := rfl
@[simp] theorem setReg_mem (s : State) (r : Reg) (v : Word) : (setReg s r v).mem = s.mem := rfl
@[simp] theorem setReg_poison (s : State) (r : Reg) (v : Word) : (setReg s r v).poison = s.poison := rfl
@[simp] theorem setReg_clean (s : State) (r : Reg) (v : Word) : (setReg s r v).clean = s.clean := rfl
@[simp] theorem setReg_ways (s : State) (r : Reg) (v : Word) : (setReg s r v).ways = s.ways := rfl
@[simp] theorem setReg_tierCtl (s : State) (r : Reg) (v : Word) : (setReg s r v).tierCtl = s.tierCtl := rfl
@[simp] theorem setReg_attCtl (s : State) (r : Reg) (v : Word) : (setReg s r v).attCtl = s.attCtl := rfl
@[simp] theorem setReg_attSpill (s : State) (r : Reg) (v : Word) : (setReg s r v).attSpill = s.attSpill := rfl
@[simp] theorem setReg_tier (s : State) (r : Reg) (v : Word) : (setReg s r v).tier = s.tier := rfl
@[simp] theorem setReg_ddrCtr (s : State) (r : Reg) (v : Word) : (setReg s r v).ddrCtr = s.ddrCtr := rfl
@[simp] theorem setReg_withheld (s : State) (r : Reg) (v : Word) : (setReg s r v).withheld = s.withheld := rfl
@[simp] theorem setReg_msix (s : State) (r : Reg) (v : Word) : (setReg s r v).msix = s.msix := rfl
@[simp] theorem setReg_msixPend (s : State) (r : Reg) (v : Word) : (setReg s r v).msixPend = s.msixPend := rfl
@[simp] theorem setReg_latches (s : State) (r : Reg) (v : Word) : (setReg s r v).latches = s.latches := rfl
@[simp] theorem setReg_pcie (s : State) (r : Reg) (v : Word) : (setReg s r v).pcie = s.pcie := rfl
@[simp] theorem setReg_ptm (s : State) (r : Reg) (v : Word) : (setReg s r v).ptm = s.ptm := rfl
@[simp] theorem setReg_ctxs (s : State) (r : Reg) (v : Word) : (setReg s r v).ctxs = s.ctxs := rfl
@[simp] theorem setReg_outs (s : State) (r : Reg) (v : Word) : (setReg s r v).outs = s.outs := rfl
@[simp] theorem setReg_nextId (s : State) (r : Reg) (v : Word) : (setReg s r v).nextId = s.nextId := rfl
@[simp] theorem setReg_adapters (s : State) (r : Reg) (v : Word) : (setReg s r v).adapters = s.adapters := rfl
@[simp] theorem setReg_packages (s : State) (r : Reg) (v : Word) : (setReg s r v).packages = s.packages := rfl
@[simp] theorem setReg_grpSeq (s : State) (r : Reg) (v : Word) : (setReg s r v).grpSeq = s.grpSeq := rfl
@[simp] theorem setReg_verdicts (s : State) (r : Reg) (v : Word) : (setReg s r v).verdicts = s.verdicts := rfl
@[simp] theorem setReg_abandoned (s : State) (r : Reg) (v : Word) : (setReg s r v).abandoned = s.abandoned := rfl
@[simp] theorem setReg_collIn (s : State) (r : Reg) (v : Word) : (setReg s r v).collIn = s.collIn := rfl
@[simp] theorem setReg_conns (s : State) (r : Reg) (v : Word) : (setReg s r v).conns = s.conns := rfl
@[simp] theorem setReg_pauses (s : State) (r : Reg) (v : Word) : (setReg s r v).pauses = s.pauses := rfl
@[simp] theorem setReg_arrays (s : State) (r : Reg) (v : Word) : (setReg s r v).arrays = s.arrays := rfl
@[simp] theorem setReg_glitches (s : State) (r : Reg) (v : Word) : (setReg s r v).glitches = s.glitches := rfl
@[simp] theorem setReg_served (s : State) (r : Reg) (v : Word) : (setReg s r v).served = s.served := rfl
@[simp] theorem setReg_halt (s : State) (r : Reg) (v : Word) : (setReg s r v).halt = s.halt := rfl
@[simp] theorem setReg_rgns (s : State) (r : Reg) (v : Word) : (setReg s r v).rgns = s.rgns := rfl
@[simp] theorem setReg_engTrips (s : State) (r : Reg) (v : Word) : (setReg s r v).engTrips = s.engTrips := rfl
@[simp] theorem setReg_d2d (s : State) (r : Reg) (v : Word) : (setReg s r v).d2d = s.d2d := rfl
@[simp] theorem setReg_merges (s : State) (r : Reg) (v : Word) : (setReg s r v).merges = s.merges := rfl
@[simp] theorem setReg_storms (s : State) (r : Reg) (v : Word) : (setReg s r v).storms = s.storms := rfl
@[simp] theorem setReg_logMerged (s : State) (r : Reg) (v : Word) : (setReg s r v).logMerged = s.logMerged := rfl
@[simp] theorem setReg_power (s : State) (r : Reg) (v : Word) : (setReg s r v).power = s.power := rfl
@[simp] theorem setReg_failed (s : State) (r : Reg) (v : Word) : (setReg s r v).failed = s.failed := rfl
@[simp] theorem setReg_pins (s : State) (r : Reg) (v : Word) : (setReg s r v).pins = s.pins := rfl
@[simp] theorem setReg_sec (s : State) (r : Reg) (v : Word) : (setReg s r v).sec = s.sec := rfl
@[simp] theorem setReg_part (s : State) (r : Reg) (v : Word) : (setReg s r v).part = s.part := rfl
@[simp] theorem setReg_baud (s : State) (r : Reg) (v : Word) : (setReg s r v).baud = s.baud := rfl
@[simp] theorem setReg_out (s : State) (r : Reg) (v : Word) : (setReg s r v).out = s.out := rfl

/-! ## emit -/

@[simp] theorem emit_pending (s : State) (o : Output) : (emit s o).pending = s.pending := rfl
@[simp] theorem emit_free (s : State) (o : Output) : (emit s o).free = s.free := rfl
@[simp] theorem emit_regs (s : State) (o : Output) : (emit s o).regs = s.regs := rfl
@[simp] theorem emit_mem (s : State) (o : Output) : (emit s o).mem = s.mem := rfl
@[simp] theorem emit_poison (s : State) (o : Output) : (emit s o).poison = s.poison := rfl
@[simp] theorem emit_clean (s : State) (o : Output) : (emit s o).clean = s.clean := rfl
@[simp] theorem emit_ways (s : State) (o : Output) : (emit s o).ways = s.ways := rfl
@[simp] theorem emit_tierCtl (s : State) (o : Output) : (emit s o).tierCtl = s.tierCtl := rfl
@[simp] theorem emit_attCtl (s : State) (o : Output) : (emit s o).attCtl = s.attCtl := rfl
@[simp] theorem emit_attSpill (s : State) (o : Output) : (emit s o).attSpill = s.attSpill := rfl
@[simp] theorem emit_tier (s : State) (o : Output) : (emit s o).tier = s.tier := rfl
@[simp] theorem emit_ddrCtr (s : State) (o : Output) : (emit s o).ddrCtr = s.ddrCtr := rfl
@[simp] theorem emit_withheld (s : State) (o : Output) : (emit s o).withheld = s.withheld := rfl
@[simp] theorem emit_msix (s : State) (o : Output) : (emit s o).msix = s.msix := rfl
@[simp] theorem emit_msixPend (s : State) (o : Output) : (emit s o).msixPend = s.msixPend := rfl
@[simp] theorem emit_latches (s : State) (o : Output) : (emit s o).latches = s.latches := rfl
@[simp] theorem emit_pcie (s : State) (o : Output) : (emit s o).pcie = s.pcie := rfl
@[simp] theorem emit_ptm (s : State) (o : Output) : (emit s o).ptm = s.ptm := rfl
@[simp] theorem emit_ctxs (s : State) (o : Output) : (emit s o).ctxs = s.ctxs := rfl
@[simp] theorem emit_outs (s : State) (o : Output) : (emit s o).outs = s.outs := rfl
@[simp] theorem emit_nextId (s : State) (o : Output) : (emit s o).nextId = s.nextId := rfl
@[simp] theorem emit_adapters (s : State) (o : Output) : (emit s o).adapters = s.adapters := rfl
@[simp] theorem emit_packages (s : State) (o : Output) : (emit s o).packages = s.packages := rfl
@[simp] theorem emit_grpSeq (s : State) (o : Output) : (emit s o).grpSeq = s.grpSeq := rfl
@[simp] theorem emit_verdicts (s : State) (o : Output) : (emit s o).verdicts = s.verdicts := rfl
@[simp] theorem emit_abandoned (s : State) (o : Output) : (emit s o).abandoned = s.abandoned := rfl
@[simp] theorem emit_collIn (s : State) (o : Output) : (emit s o).collIn = s.collIn := rfl
@[simp] theorem emit_conns (s : State) (o : Output) : (emit s o).conns = s.conns := rfl
@[simp] theorem emit_pauses (s : State) (o : Output) : (emit s o).pauses = s.pauses := rfl
@[simp] theorem emit_arrays (s : State) (o : Output) : (emit s o).arrays = s.arrays := rfl
@[simp] theorem emit_glitches (s : State) (o : Output) : (emit s o).glitches = s.glitches := rfl
@[simp] theorem emit_served (s : State) (o : Output) : (emit s o).served = s.served := rfl
@[simp] theorem emit_halt (s : State) (o : Output) : (emit s o).halt = s.halt := rfl
@[simp] theorem emit_rgns (s : State) (o : Output) : (emit s o).rgns = s.rgns := rfl
@[simp] theorem emit_engTrips (s : State) (o : Output) : (emit s o).engTrips = s.engTrips := rfl
@[simp] theorem emit_d2d (s : State) (o : Output) : (emit s o).d2d = s.d2d := rfl
@[simp] theorem emit_merges (s : State) (o : Output) : (emit s o).merges = s.merges := rfl
@[simp] theorem emit_storms (s : State) (o : Output) : (emit s o).storms = s.storms := rfl
@[simp] theorem emit_logMerged (s : State) (o : Output) : (emit s o).logMerged = s.logMerged := rfl
@[simp] theorem emit_power (s : State) (o : Output) : (emit s o).power = s.power := rfl
@[simp] theorem emit_failed (s : State) (o : Output) : (emit s o).failed = s.failed := rfl
@[simp] theorem emit_pins (s : State) (o : Output) : (emit s o).pins = s.pins := rfl
@[simp] theorem emit_sec (s : State) (o : Output) : (emit s o).sec = s.sec := rfl
@[simp] theorem emit_part (s : State) (o : Output) : (emit s o).part = s.part := rfl
@[simp] theorem emit_baud (s : State) (o : Output) : (emit s o).baud = s.baud := rfl

/-! ## setCtx -/

@[simp] theorem setCtx_pending (s : State) (x : Nat) (c : CtxSt) : (setCtx s x c).pending = s.pending := rfl
@[simp] theorem setCtx_free (s : State) (x : Nat) (c : CtxSt) : (setCtx s x c).free = s.free := rfl
@[simp] theorem setCtx_regs (s : State) (x : Nat) (c : CtxSt) : (setCtx s x c).regs = s.regs := rfl
@[simp] theorem setCtx_mem (s : State) (x : Nat) (c : CtxSt) : (setCtx s x c).mem = s.mem := rfl
@[simp] theorem setCtx_poison (s : State) (x : Nat) (c : CtxSt) : (setCtx s x c).poison = s.poison := rfl
@[simp] theorem setCtx_clean (s : State) (x : Nat) (c : CtxSt) : (setCtx s x c).clean = s.clean := rfl
@[simp] theorem setCtx_ways (s : State) (x : Nat) (c : CtxSt) : (setCtx s x c).ways = s.ways := rfl
@[simp] theorem setCtx_tierCtl (s : State) (x : Nat) (c : CtxSt) : (setCtx s x c).tierCtl = s.tierCtl := rfl
@[simp] theorem setCtx_attCtl (s : State) (x : Nat) (c : CtxSt) : (setCtx s x c).attCtl = s.attCtl := rfl
@[simp] theorem setCtx_attSpill (s : State) (x : Nat) (c : CtxSt) : (setCtx s x c).attSpill = s.attSpill := rfl
@[simp] theorem setCtx_tier (s : State) (x : Nat) (c : CtxSt) : (setCtx s x c).tier = s.tier := rfl
@[simp] theorem setCtx_ddrCtr (s : State) (x : Nat) (c : CtxSt) : (setCtx s x c).ddrCtr = s.ddrCtr := rfl
@[simp] theorem setCtx_withheld (s : State) (x : Nat) (c : CtxSt) : (setCtx s x c).withheld = s.withheld := rfl
@[simp] theorem setCtx_msix (s : State) (x : Nat) (c : CtxSt) : (setCtx s x c).msix = s.msix := rfl
@[simp] theorem setCtx_msixPend (s : State) (x : Nat) (c : CtxSt) : (setCtx s x c).msixPend = s.msixPend := rfl
@[simp] theorem setCtx_latches (s : State) (x : Nat) (c : CtxSt) : (setCtx s x c).latches = s.latches := rfl
@[simp] theorem setCtx_pcie (s : State) (x : Nat) (c : CtxSt) : (setCtx s x c).pcie = s.pcie := rfl
@[simp] theorem setCtx_ptm (s : State) (x : Nat) (c : CtxSt) : (setCtx s x c).ptm = s.ptm := rfl
@[simp] theorem setCtx_outs (s : State) (x : Nat) (c : CtxSt) : (setCtx s x c).outs = s.outs := rfl
@[simp] theorem setCtx_nextId (s : State) (x : Nat) (c : CtxSt) : (setCtx s x c).nextId = s.nextId := rfl
@[simp] theorem setCtx_adapters (s : State) (x : Nat) (c : CtxSt) : (setCtx s x c).adapters = s.adapters := rfl
@[simp] theorem setCtx_packages (s : State) (x : Nat) (c : CtxSt) : (setCtx s x c).packages = s.packages := rfl
@[simp] theorem setCtx_grpSeq (s : State) (x : Nat) (c : CtxSt) : (setCtx s x c).grpSeq = s.grpSeq := rfl
@[simp] theorem setCtx_verdicts (s : State) (x : Nat) (c : CtxSt) : (setCtx s x c).verdicts = s.verdicts := rfl
@[simp] theorem setCtx_abandoned (s : State) (x : Nat) (c : CtxSt) : (setCtx s x c).abandoned = s.abandoned := rfl
@[simp] theorem setCtx_collIn (s : State) (x : Nat) (c : CtxSt) : (setCtx s x c).collIn = s.collIn := rfl
@[simp] theorem setCtx_conns (s : State) (x : Nat) (c : CtxSt) : (setCtx s x c).conns = s.conns := rfl
@[simp] theorem setCtx_pauses (s : State) (x : Nat) (c : CtxSt) : (setCtx s x c).pauses = s.pauses := rfl
@[simp] theorem setCtx_arrays (s : State) (x : Nat) (c : CtxSt) : (setCtx s x c).arrays = s.arrays := rfl
@[simp] theorem setCtx_glitches (s : State) (x : Nat) (c : CtxSt) : (setCtx s x c).glitches = s.glitches := rfl
@[simp] theorem setCtx_served (s : State) (x : Nat) (c : CtxSt) : (setCtx s x c).served = s.served := rfl
@[simp] theorem setCtx_halt (s : State) (x : Nat) (c : CtxSt) : (setCtx s x c).halt = s.halt := rfl
@[simp] theorem setCtx_rgns (s : State) (x : Nat) (c : CtxSt) : (setCtx s x c).rgns = s.rgns := rfl
@[simp] theorem setCtx_engTrips (s : State) (x : Nat) (c : CtxSt) : (setCtx s x c).engTrips = s.engTrips := rfl
@[simp] theorem setCtx_d2d (s : State) (x : Nat) (c : CtxSt) : (setCtx s x c).d2d = s.d2d := rfl
@[simp] theorem setCtx_merges (s : State) (x : Nat) (c : CtxSt) : (setCtx s x c).merges = s.merges := rfl
@[simp] theorem setCtx_storms (s : State) (x : Nat) (c : CtxSt) : (setCtx s x c).storms = s.storms := rfl
@[simp] theorem setCtx_logMerged (s : State) (x : Nat) (c : CtxSt) : (setCtx s x c).logMerged = s.logMerged := rfl
@[simp] theorem setCtx_power (s : State) (x : Nat) (c : CtxSt) : (setCtx s x c).power = s.power := rfl
@[simp] theorem setCtx_failed (s : State) (x : Nat) (c : CtxSt) : (setCtx s x c).failed = s.failed := rfl
@[simp] theorem setCtx_pins (s : State) (x : Nat) (c : CtxSt) : (setCtx s x c).pins = s.pins := rfl
@[simp] theorem setCtx_sec (s : State) (x : Nat) (c : CtxSt) : (setCtx s x c).sec = s.sec := rfl
@[simp] theorem setCtx_part (s : State) (x : Nat) (c : CtxSt) : (setCtx s x c).part = s.part := rfl
@[simp] theorem setCtx_baud (s : State) (x : Nat) (c : CtxSt) : (setCtx s x c).baud = s.baud := rfl
@[simp] theorem setCtx_out (s : State) (x : Nat) (c : CtxSt) : (setCtx s x c).out = s.out := rfl

/-! ## setTier -/

@[simp] theorem setTier_pending (s : State) (p : Nat) (e : TierEntry) : (setTier s p e).pending = s.pending := rfl
@[simp] theorem setTier_free (s : State) (p : Nat) (e : TierEntry) : (setTier s p e).free = s.free := rfl
@[simp] theorem setTier_regs (s : State) (p : Nat) (e : TierEntry) : (setTier s p e).regs = s.regs := rfl
@[simp] theorem setTier_mem (s : State) (p : Nat) (e : TierEntry) : (setTier s p e).mem = s.mem := rfl
@[simp] theorem setTier_poison (s : State) (p : Nat) (e : TierEntry) : (setTier s p e).poison = s.poison := rfl
@[simp] theorem setTier_clean (s : State) (p : Nat) (e : TierEntry) : (setTier s p e).clean = s.clean := rfl
@[simp] theorem setTier_ways (s : State) (p : Nat) (e : TierEntry) : (setTier s p e).ways = s.ways := rfl
@[simp] theorem setTier_tierCtl (s : State) (p : Nat) (e : TierEntry) : (setTier s p e).tierCtl = s.tierCtl := rfl
@[simp] theorem setTier_attCtl (s : State) (p : Nat) (e : TierEntry) : (setTier s p e).attCtl = s.attCtl := rfl
@[simp] theorem setTier_attSpill (s : State) (p : Nat) (e : TierEntry) : (setTier s p e).attSpill = s.attSpill := rfl
@[simp] theorem setTier_ddrCtr (s : State) (p : Nat) (e : TierEntry) : (setTier s p e).ddrCtr = s.ddrCtr := rfl
@[simp] theorem setTier_withheld (s : State) (p : Nat) (e : TierEntry) : (setTier s p e).withheld = s.withheld := rfl
@[simp] theorem setTier_msix (s : State) (p : Nat) (e : TierEntry) : (setTier s p e).msix = s.msix := rfl
@[simp] theorem setTier_msixPend (s : State) (p : Nat) (e : TierEntry) : (setTier s p e).msixPend = s.msixPend := rfl
@[simp] theorem setTier_latches (s : State) (p : Nat) (e : TierEntry) : (setTier s p e).latches = s.latches := rfl
@[simp] theorem setTier_pcie (s : State) (p : Nat) (e : TierEntry) : (setTier s p e).pcie = s.pcie := rfl
@[simp] theorem setTier_ptm (s : State) (p : Nat) (e : TierEntry) : (setTier s p e).ptm = s.ptm := rfl
@[simp] theorem setTier_ctxs (s : State) (p : Nat) (e : TierEntry) : (setTier s p e).ctxs = s.ctxs := rfl
@[simp] theorem setTier_outs (s : State) (p : Nat) (e : TierEntry) : (setTier s p e).outs = s.outs := rfl
@[simp] theorem setTier_nextId (s : State) (p : Nat) (e : TierEntry) : (setTier s p e).nextId = s.nextId := rfl
@[simp] theorem setTier_adapters (s : State) (p : Nat) (e : TierEntry) : (setTier s p e).adapters = s.adapters := rfl
@[simp] theorem setTier_packages (s : State) (p : Nat) (e : TierEntry) : (setTier s p e).packages = s.packages := rfl
@[simp] theorem setTier_grpSeq (s : State) (p : Nat) (e : TierEntry) : (setTier s p e).grpSeq = s.grpSeq := rfl
@[simp] theorem setTier_verdicts (s : State) (p : Nat) (e : TierEntry) : (setTier s p e).verdicts = s.verdicts := rfl
@[simp] theorem setTier_abandoned (s : State) (p : Nat) (e : TierEntry) : (setTier s p e).abandoned = s.abandoned := rfl
@[simp] theorem setTier_collIn (s : State) (p : Nat) (e : TierEntry) : (setTier s p e).collIn = s.collIn := rfl
@[simp] theorem setTier_conns (s : State) (p : Nat) (e : TierEntry) : (setTier s p e).conns = s.conns := rfl
@[simp] theorem setTier_pauses (s : State) (p : Nat) (e : TierEntry) : (setTier s p e).pauses = s.pauses := rfl
@[simp] theorem setTier_arrays (s : State) (p : Nat) (e : TierEntry) : (setTier s p e).arrays = s.arrays := rfl
@[simp] theorem setTier_glitches (s : State) (p : Nat) (e : TierEntry) : (setTier s p e).glitches = s.glitches := rfl
@[simp] theorem setTier_served (s : State) (p : Nat) (e : TierEntry) : (setTier s p e).served = s.served := rfl
@[simp] theorem setTier_halt (s : State) (p : Nat) (e : TierEntry) : (setTier s p e).halt = s.halt := rfl
@[simp] theorem setTier_rgns (s : State) (p : Nat) (e : TierEntry) : (setTier s p e).rgns = s.rgns := rfl
@[simp] theorem setTier_engTrips (s : State) (p : Nat) (e : TierEntry) : (setTier s p e).engTrips = s.engTrips := rfl
@[simp] theorem setTier_d2d (s : State) (p : Nat) (e : TierEntry) : (setTier s p e).d2d = s.d2d := rfl
@[simp] theorem setTier_merges (s : State) (p : Nat) (e : TierEntry) : (setTier s p e).merges = s.merges := rfl
@[simp] theorem setTier_storms (s : State) (p : Nat) (e : TierEntry) : (setTier s p e).storms = s.storms := rfl
@[simp] theorem setTier_logMerged (s : State) (p : Nat) (e : TierEntry) : (setTier s p e).logMerged = s.logMerged := rfl
@[simp] theorem setTier_power (s : State) (p : Nat) (e : TierEntry) : (setTier s p e).power = s.power := rfl
@[simp] theorem setTier_failed (s : State) (p : Nat) (e : TierEntry) : (setTier s p e).failed = s.failed := rfl
@[simp] theorem setTier_pins (s : State) (p : Nat) (e : TierEntry) : (setTier s p e).pins = s.pins := rfl
@[simp] theorem setTier_sec (s : State) (p : Nat) (e : TierEntry) : (setTier s p e).sec = s.sec := rfl
@[simp] theorem setTier_part (s : State) (p : Nat) (e : TierEntry) : (setTier s p e).part = s.part := rfl
@[simp] theorem setTier_baud (s : State) (p : Nat) (e : TierEntry) : (setTier s p e).baud = s.baud := rfl
@[simp] theorem setTier_out (s : State) (p : Nat) (e : TierEntry) : (setTier s p e).out = s.out := rfl

/-! ## pokeByte -/

@[simp] theorem pokeByte_pending (s : State) (a : Nat) (b : Byte) : (pokeByte s a b).pending = s.pending := rfl
@[simp] theorem pokeByte_free (s : State) (a : Nat) (b : Byte) : (pokeByte s a b).free = s.free := rfl
@[simp] theorem pokeByte_regs (s : State) (a : Nat) (b : Byte) : (pokeByte s a b).regs = s.regs := rfl
@[simp] theorem pokeByte_poison (s : State) (a : Nat) (b : Byte) : (pokeByte s a b).poison = s.poison := rfl
@[simp] theorem pokeByte_clean (s : State) (a : Nat) (b : Byte) : (pokeByte s a b).clean = s.clean := rfl
@[simp] theorem pokeByte_ways (s : State) (a : Nat) (b : Byte) : (pokeByte s a b).ways = s.ways := rfl
@[simp] theorem pokeByte_tierCtl (s : State) (a : Nat) (b : Byte) : (pokeByte s a b).tierCtl = s.tierCtl := rfl
@[simp] theorem pokeByte_attCtl (s : State) (a : Nat) (b : Byte) : (pokeByte s a b).attCtl = s.attCtl := rfl
@[simp] theorem pokeByte_attSpill (s : State) (a : Nat) (b : Byte) : (pokeByte s a b).attSpill = s.attSpill := rfl
@[simp] theorem pokeByte_tier (s : State) (a : Nat) (b : Byte) : (pokeByte s a b).tier = s.tier := rfl
@[simp] theorem pokeByte_ddrCtr (s : State) (a : Nat) (b : Byte) : (pokeByte s a b).ddrCtr = s.ddrCtr := rfl
@[simp] theorem pokeByte_withheld (s : State) (a : Nat) (b : Byte) : (pokeByte s a b).withheld = s.withheld := rfl
@[simp] theorem pokeByte_msix (s : State) (a : Nat) (b : Byte) : (pokeByte s a b).msix = s.msix := rfl
@[simp] theorem pokeByte_msixPend (s : State) (a : Nat) (b : Byte) : (pokeByte s a b).msixPend = s.msixPend := rfl
@[simp] theorem pokeByte_latches (s : State) (a : Nat) (b : Byte) : (pokeByte s a b).latches = s.latches := rfl
@[simp] theorem pokeByte_pcie (s : State) (a : Nat) (b : Byte) : (pokeByte s a b).pcie = s.pcie := rfl
@[simp] theorem pokeByte_ptm (s : State) (a : Nat) (b : Byte) : (pokeByte s a b).ptm = s.ptm := rfl
@[simp] theorem pokeByte_ctxs (s : State) (a : Nat) (b : Byte) : (pokeByte s a b).ctxs = s.ctxs := rfl
@[simp] theorem pokeByte_outs (s : State) (a : Nat) (b : Byte) : (pokeByte s a b).outs = s.outs := rfl
@[simp] theorem pokeByte_nextId (s : State) (a : Nat) (b : Byte) : (pokeByte s a b).nextId = s.nextId := rfl
@[simp] theorem pokeByte_adapters (s : State) (a : Nat) (b : Byte) : (pokeByte s a b).adapters = s.adapters := rfl
@[simp] theorem pokeByte_packages (s : State) (a : Nat) (b : Byte) : (pokeByte s a b).packages = s.packages := rfl
@[simp] theorem pokeByte_grpSeq (s : State) (a : Nat) (b : Byte) : (pokeByte s a b).grpSeq = s.grpSeq := rfl
@[simp] theorem pokeByte_verdicts (s : State) (a : Nat) (b : Byte) : (pokeByte s a b).verdicts = s.verdicts := rfl
@[simp] theorem pokeByte_abandoned (s : State) (a : Nat) (b : Byte) : (pokeByte s a b).abandoned = s.abandoned := rfl
@[simp] theorem pokeByte_collIn (s : State) (a : Nat) (b : Byte) : (pokeByte s a b).collIn = s.collIn := rfl
@[simp] theorem pokeByte_conns (s : State) (a : Nat) (b : Byte) : (pokeByte s a b).conns = s.conns := rfl
@[simp] theorem pokeByte_pauses (s : State) (a : Nat) (b : Byte) : (pokeByte s a b).pauses = s.pauses := rfl
@[simp] theorem pokeByte_arrays (s : State) (a : Nat) (b : Byte) : (pokeByte s a b).arrays = s.arrays := rfl
@[simp] theorem pokeByte_glitches (s : State) (a : Nat) (b : Byte) : (pokeByte s a b).glitches = s.glitches := rfl
@[simp] theorem pokeByte_served (s : State) (a : Nat) (b : Byte) : (pokeByte s a b).served = s.served := rfl
@[simp] theorem pokeByte_halt (s : State) (a : Nat) (b : Byte) : (pokeByte s a b).halt = s.halt := rfl
@[simp] theorem pokeByte_rgns (s : State) (a : Nat) (b : Byte) : (pokeByte s a b).rgns = s.rgns := rfl
@[simp] theorem pokeByte_engTrips (s : State) (a : Nat) (b : Byte) : (pokeByte s a b).engTrips = s.engTrips := rfl
@[simp] theorem pokeByte_d2d (s : State) (a : Nat) (b : Byte) : (pokeByte s a b).d2d = s.d2d := rfl
@[simp] theorem pokeByte_merges (s : State) (a : Nat) (b : Byte) : (pokeByte s a b).merges = s.merges := rfl
@[simp] theorem pokeByte_storms (s : State) (a : Nat) (b : Byte) : (pokeByte s a b).storms = s.storms := rfl
@[simp] theorem pokeByte_logMerged (s : State) (a : Nat) (b : Byte) : (pokeByte s a b).logMerged = s.logMerged := rfl
@[simp] theorem pokeByte_power (s : State) (a : Nat) (b : Byte) : (pokeByte s a b).power = s.power := rfl
@[simp] theorem pokeByte_failed (s : State) (a : Nat) (b : Byte) : (pokeByte s a b).failed = s.failed := rfl
@[simp] theorem pokeByte_pins (s : State) (a : Nat) (b : Byte) : (pokeByte s a b).pins = s.pins := rfl
@[simp] theorem pokeByte_sec (s : State) (a : Nat) (b : Byte) : (pokeByte s a b).sec = s.sec := rfl
@[simp] theorem pokeByte_part (s : State) (a : Nat) (b : Byte) : (pokeByte s a b).part = s.part := rfl
@[simp] theorem pokeByte_baud (s : State) (a : Nat) (b : Byte) : (pokeByte s a b).baud = s.baud := rfl
@[simp] theorem pokeByte_out (s : State) (a : Nat) (b : Byte) : (pokeByte s a b).out = s.out := rfl

/-! ## setPoison -/

@[simp] theorem setPoison_pending (s : State) (a : Nat) (b : Bool) : (setPoison s a b).pending = s.pending := rfl
@[simp] theorem setPoison_free (s : State) (a : Nat) (b : Bool) : (setPoison s a b).free = s.free := rfl
@[simp] theorem setPoison_regs (s : State) (a : Nat) (b : Bool) : (setPoison s a b).regs = s.regs := rfl
@[simp] theorem setPoison_mem (s : State) (a : Nat) (b : Bool) : (setPoison s a b).mem = s.mem := rfl
@[simp] theorem setPoison_clean (s : State) (a : Nat) (b : Bool) : (setPoison s a b).clean = s.clean := rfl
@[simp] theorem setPoison_ways (s : State) (a : Nat) (b : Bool) : (setPoison s a b).ways = s.ways := rfl
@[simp] theorem setPoison_tierCtl (s : State) (a : Nat) (b : Bool) : (setPoison s a b).tierCtl = s.tierCtl := rfl
@[simp] theorem setPoison_attCtl (s : State) (a : Nat) (b : Bool) : (setPoison s a b).attCtl = s.attCtl := rfl
@[simp] theorem setPoison_attSpill (s : State) (a : Nat) (b : Bool) : (setPoison s a b).attSpill = s.attSpill := rfl
@[simp] theorem setPoison_tier (s : State) (a : Nat) (b : Bool) : (setPoison s a b).tier = s.tier := rfl
@[simp] theorem setPoison_ddrCtr (s : State) (a : Nat) (b : Bool) : (setPoison s a b).ddrCtr = s.ddrCtr := rfl
@[simp] theorem setPoison_withheld (s : State) (a : Nat) (b : Bool) : (setPoison s a b).withheld = s.withheld := rfl
@[simp] theorem setPoison_msix (s : State) (a : Nat) (b : Bool) : (setPoison s a b).msix = s.msix := rfl
@[simp] theorem setPoison_msixPend (s : State) (a : Nat) (b : Bool) : (setPoison s a b).msixPend = s.msixPend := rfl
@[simp] theorem setPoison_latches (s : State) (a : Nat) (b : Bool) : (setPoison s a b).latches = s.latches := rfl
@[simp] theorem setPoison_pcie (s : State) (a : Nat) (b : Bool) : (setPoison s a b).pcie = s.pcie := rfl
@[simp] theorem setPoison_ptm (s : State) (a : Nat) (b : Bool) : (setPoison s a b).ptm = s.ptm := rfl
@[simp] theorem setPoison_ctxs (s : State) (a : Nat) (b : Bool) : (setPoison s a b).ctxs = s.ctxs := rfl
@[simp] theorem setPoison_outs (s : State) (a : Nat) (b : Bool) : (setPoison s a b).outs = s.outs := rfl
@[simp] theorem setPoison_nextId (s : State) (a : Nat) (b : Bool) : (setPoison s a b).nextId = s.nextId := rfl
@[simp] theorem setPoison_adapters (s : State) (a : Nat) (b : Bool) : (setPoison s a b).adapters = s.adapters := rfl
@[simp] theorem setPoison_packages (s : State) (a : Nat) (b : Bool) : (setPoison s a b).packages = s.packages := rfl
@[simp] theorem setPoison_grpSeq (s : State) (a : Nat) (b : Bool) : (setPoison s a b).grpSeq = s.grpSeq := rfl
@[simp] theorem setPoison_verdicts (s : State) (a : Nat) (b : Bool) : (setPoison s a b).verdicts = s.verdicts := rfl
@[simp] theorem setPoison_abandoned (s : State) (a : Nat) (b : Bool) : (setPoison s a b).abandoned = s.abandoned := rfl
@[simp] theorem setPoison_collIn (s : State) (a : Nat) (b : Bool) : (setPoison s a b).collIn = s.collIn := rfl
@[simp] theorem setPoison_conns (s : State) (a : Nat) (b : Bool) : (setPoison s a b).conns = s.conns := rfl
@[simp] theorem setPoison_pauses (s : State) (a : Nat) (b : Bool) : (setPoison s a b).pauses = s.pauses := rfl
@[simp] theorem setPoison_arrays (s : State) (a : Nat) (b : Bool) : (setPoison s a b).arrays = s.arrays := rfl
@[simp] theorem setPoison_glitches (s : State) (a : Nat) (b : Bool) : (setPoison s a b).glitches = s.glitches := rfl
@[simp] theorem setPoison_served (s : State) (a : Nat) (b : Bool) : (setPoison s a b).served = s.served := rfl
@[simp] theorem setPoison_halt (s : State) (a : Nat) (b : Bool) : (setPoison s a b).halt = s.halt := rfl
@[simp] theorem setPoison_rgns (s : State) (a : Nat) (b : Bool) : (setPoison s a b).rgns = s.rgns := rfl
@[simp] theorem setPoison_engTrips (s : State) (a : Nat) (b : Bool) : (setPoison s a b).engTrips = s.engTrips := rfl
@[simp] theorem setPoison_d2d (s : State) (a : Nat) (b : Bool) : (setPoison s a b).d2d = s.d2d := rfl
@[simp] theorem setPoison_merges (s : State) (a : Nat) (b : Bool) : (setPoison s a b).merges = s.merges := rfl
@[simp] theorem setPoison_storms (s : State) (a : Nat) (b : Bool) : (setPoison s a b).storms = s.storms := rfl
@[simp] theorem setPoison_logMerged (s : State) (a : Nat) (b : Bool) : (setPoison s a b).logMerged = s.logMerged := rfl
@[simp] theorem setPoison_power (s : State) (a : Nat) (b : Bool) : (setPoison s a b).power = s.power := rfl
@[simp] theorem setPoison_failed (s : State) (a : Nat) (b : Bool) : (setPoison s a b).failed = s.failed := rfl
@[simp] theorem setPoison_pins (s : State) (a : Nat) (b : Bool) : (setPoison s a b).pins = s.pins := rfl
@[simp] theorem setPoison_sec (s : State) (a : Nat) (b : Bool) : (setPoison s a b).sec = s.sec := rfl
@[simp] theorem setPoison_part (s : State) (a : Nat) (b : Bool) : (setPoison s a b).part = s.part := rfl
@[simp] theorem setPoison_baud (s : State) (a : Nat) (b : Bool) : (setPoison s a b).baud = s.baud := rfl
@[simp] theorem setPoison_out (s : State) (a : Nat) (b : Bool) : (setPoison s a b).out = s.out := rfl

/-! ## zeroExtent -/

@[simp] theorem zeroExtent_pending (s : State) (lo len : Nat) : (zeroExtent s lo len).pending = s.pending := rfl
@[simp] theorem zeroExtent_free (s : State) (lo len : Nat) : (zeroExtent s lo len).free = s.free := rfl
@[simp] theorem zeroExtent_regs (s : State) (lo len : Nat) : (zeroExtent s lo len).regs = s.regs := rfl
@[simp] theorem zeroExtent_ways (s : State) (lo len : Nat) : (zeroExtent s lo len).ways = s.ways := rfl
@[simp] theorem zeroExtent_tierCtl (s : State) (lo len : Nat) : (zeroExtent s lo len).tierCtl = s.tierCtl := rfl
@[simp] theorem zeroExtent_attCtl (s : State) (lo len : Nat) : (zeroExtent s lo len).attCtl = s.attCtl := rfl
@[simp] theorem zeroExtent_attSpill (s : State) (lo len : Nat) : (zeroExtent s lo len).attSpill = s.attSpill := rfl
@[simp] theorem zeroExtent_tier (s : State) (lo len : Nat) : (zeroExtent s lo len).tier = s.tier := rfl
@[simp] theorem zeroExtent_ddrCtr (s : State) (lo len : Nat) : (zeroExtent s lo len).ddrCtr = s.ddrCtr := rfl
@[simp] theorem zeroExtent_withheld (s : State) (lo len : Nat) : (zeroExtent s lo len).withheld = s.withheld := rfl
@[simp] theorem zeroExtent_msix (s : State) (lo len : Nat) : (zeroExtent s lo len).msix = s.msix := rfl
@[simp] theorem zeroExtent_msixPend (s : State) (lo len : Nat) : (zeroExtent s lo len).msixPend = s.msixPend := rfl
@[simp] theorem zeroExtent_latches (s : State) (lo len : Nat) : (zeroExtent s lo len).latches = s.latches := rfl
@[simp] theorem zeroExtent_pcie (s : State) (lo len : Nat) : (zeroExtent s lo len).pcie = s.pcie := rfl
@[simp] theorem zeroExtent_ptm (s : State) (lo len : Nat) : (zeroExtent s lo len).ptm = s.ptm := rfl
@[simp] theorem zeroExtent_ctxs (s : State) (lo len : Nat) : (zeroExtent s lo len).ctxs = s.ctxs := rfl
@[simp] theorem zeroExtent_outs (s : State) (lo len : Nat) : (zeroExtent s lo len).outs = s.outs := rfl
@[simp] theorem zeroExtent_nextId (s : State) (lo len : Nat) : (zeroExtent s lo len).nextId = s.nextId := rfl
@[simp] theorem zeroExtent_adapters (s : State) (lo len : Nat) : (zeroExtent s lo len).adapters = s.adapters := rfl
@[simp] theorem zeroExtent_packages (s : State) (lo len : Nat) : (zeroExtent s lo len).packages = s.packages := rfl
@[simp] theorem zeroExtent_grpSeq (s : State) (lo len : Nat) : (zeroExtent s lo len).grpSeq = s.grpSeq := rfl
@[simp] theorem zeroExtent_verdicts (s : State) (lo len : Nat) : (zeroExtent s lo len).verdicts = s.verdicts := rfl
@[simp] theorem zeroExtent_abandoned (s : State) (lo len : Nat) : (zeroExtent s lo len).abandoned = s.abandoned := rfl
@[simp] theorem zeroExtent_collIn (s : State) (lo len : Nat) : (zeroExtent s lo len).collIn = s.collIn := rfl
@[simp] theorem zeroExtent_conns (s : State) (lo len : Nat) : (zeroExtent s lo len).conns = s.conns := rfl
@[simp] theorem zeroExtent_pauses (s : State) (lo len : Nat) : (zeroExtent s lo len).pauses = s.pauses := rfl
@[simp] theorem zeroExtent_arrays (s : State) (lo len : Nat) : (zeroExtent s lo len).arrays = s.arrays := rfl
@[simp] theorem zeroExtent_glitches (s : State) (lo len : Nat) : (zeroExtent s lo len).glitches = s.glitches := rfl
@[simp] theorem zeroExtent_served (s : State) (lo len : Nat) : (zeroExtent s lo len).served = s.served := rfl
@[simp] theorem zeroExtent_halt (s : State) (lo len : Nat) : (zeroExtent s lo len).halt = s.halt := rfl
@[simp] theorem zeroExtent_rgns (s : State) (lo len : Nat) : (zeroExtent s lo len).rgns = s.rgns := rfl
@[simp] theorem zeroExtent_engTrips (s : State) (lo len : Nat) : (zeroExtent s lo len).engTrips = s.engTrips := rfl
@[simp] theorem zeroExtent_d2d (s : State) (lo len : Nat) : (zeroExtent s lo len).d2d = s.d2d := rfl
@[simp] theorem zeroExtent_merges (s : State) (lo len : Nat) : (zeroExtent s lo len).merges = s.merges := rfl
@[simp] theorem zeroExtent_storms (s : State) (lo len : Nat) : (zeroExtent s lo len).storms = s.storms := rfl
@[simp] theorem zeroExtent_logMerged (s : State) (lo len : Nat) : (zeroExtent s lo len).logMerged = s.logMerged := rfl
@[simp] theorem zeroExtent_power (s : State) (lo len : Nat) : (zeroExtent s lo len).power = s.power := rfl
@[simp] theorem zeroExtent_failed (s : State) (lo len : Nat) : (zeroExtent s lo len).failed = s.failed := rfl
@[simp] theorem zeroExtent_pins (s : State) (lo len : Nat) : (zeroExtent s lo len).pins = s.pins := rfl
@[simp] theorem zeroExtent_sec (s : State) (lo len : Nat) : (zeroExtent s lo len).sec = s.sec := rfl
@[simp] theorem zeroExtent_part (s : State) (lo len : Nat) : (zeroExtent s lo len).part = s.part := rfl
@[simp] theorem zeroExtent_baud (s : State) (lo len : Nat) : (zeroExtent s lo len).baud = s.baud := rfl
@[simp] theorem zeroExtent_out (s : State) (lo len : Nat) : (zeroExtent s lo len).out = s.out := rfl

/-! ## addReport -/

@[simp] theorem addReport_pending (s : State) (agg : Nat) (e : MergeEntry) : (addReport s agg e).pending = s.pending := rfl
@[simp] theorem addReport_free (s : State) (agg : Nat) (e : MergeEntry) : (addReport s agg e).free = s.free := rfl
@[simp] theorem addReport_regs (s : State) (agg : Nat) (e : MergeEntry) : (addReport s agg e).regs = s.regs := rfl
@[simp] theorem addReport_mem (s : State) (agg : Nat) (e : MergeEntry) : (addReport s agg e).mem = s.mem := rfl
@[simp] theorem addReport_poison (s : State) (agg : Nat) (e : MergeEntry) : (addReport s agg e).poison = s.poison := rfl
@[simp] theorem addReport_clean (s : State) (agg : Nat) (e : MergeEntry) : (addReport s agg e).clean = s.clean := rfl
@[simp] theorem addReport_ways (s : State) (agg : Nat) (e : MergeEntry) : (addReport s agg e).ways = s.ways := rfl
@[simp] theorem addReport_tierCtl (s : State) (agg : Nat) (e : MergeEntry) : (addReport s agg e).tierCtl = s.tierCtl := rfl
@[simp] theorem addReport_attCtl (s : State) (agg : Nat) (e : MergeEntry) : (addReport s agg e).attCtl = s.attCtl := rfl
@[simp] theorem addReport_attSpill (s : State) (agg : Nat) (e : MergeEntry) : (addReport s agg e).attSpill = s.attSpill := rfl
@[simp] theorem addReport_tier (s : State) (agg : Nat) (e : MergeEntry) : (addReport s agg e).tier = s.tier := rfl
@[simp] theorem addReport_ddrCtr (s : State) (agg : Nat) (e : MergeEntry) : (addReport s agg e).ddrCtr = s.ddrCtr := rfl
@[simp] theorem addReport_withheld (s : State) (agg : Nat) (e : MergeEntry) : (addReport s agg e).withheld = s.withheld := rfl
@[simp] theorem addReport_msix (s : State) (agg : Nat) (e : MergeEntry) : (addReport s agg e).msix = s.msix := rfl
@[simp] theorem addReport_msixPend (s : State) (agg : Nat) (e : MergeEntry) : (addReport s agg e).msixPend = s.msixPend := rfl
@[simp] theorem addReport_latches (s : State) (agg : Nat) (e : MergeEntry) : (addReport s agg e).latches = s.latches := rfl
@[simp] theorem addReport_pcie (s : State) (agg : Nat) (e : MergeEntry) : (addReport s agg e).pcie = s.pcie := rfl
@[simp] theorem addReport_ptm (s : State) (agg : Nat) (e : MergeEntry) : (addReport s agg e).ptm = s.ptm := rfl
@[simp] theorem addReport_ctxs (s : State) (agg : Nat) (e : MergeEntry) : (addReport s agg e).ctxs = s.ctxs := rfl
@[simp] theorem addReport_outs (s : State) (agg : Nat) (e : MergeEntry) : (addReport s agg e).outs = s.outs := rfl
@[simp] theorem addReport_nextId (s : State) (agg : Nat) (e : MergeEntry) : (addReport s agg e).nextId = s.nextId := rfl
@[simp] theorem addReport_adapters (s : State) (agg : Nat) (e : MergeEntry) : (addReport s agg e).adapters = s.adapters := rfl
@[simp] theorem addReport_packages (s : State) (agg : Nat) (e : MergeEntry) : (addReport s agg e).packages = s.packages := rfl
@[simp] theorem addReport_grpSeq (s : State) (agg : Nat) (e : MergeEntry) : (addReport s agg e).grpSeq = s.grpSeq := rfl
@[simp] theorem addReport_verdicts (s : State) (agg : Nat) (e : MergeEntry) : (addReport s agg e).verdicts = s.verdicts := rfl
@[simp] theorem addReport_abandoned (s : State) (agg : Nat) (e : MergeEntry) : (addReport s agg e).abandoned = s.abandoned := rfl
@[simp] theorem addReport_collIn (s : State) (agg : Nat) (e : MergeEntry) : (addReport s agg e).collIn = s.collIn := rfl
@[simp] theorem addReport_conns (s : State) (agg : Nat) (e : MergeEntry) : (addReport s agg e).conns = s.conns := rfl
@[simp] theorem addReport_pauses (s : State) (agg : Nat) (e : MergeEntry) : (addReport s agg e).pauses = s.pauses := rfl
@[simp] theorem addReport_arrays (s : State) (agg : Nat) (e : MergeEntry) : (addReport s agg e).arrays = s.arrays := rfl
@[simp] theorem addReport_glitches (s : State) (agg : Nat) (e : MergeEntry) : (addReport s agg e).glitches = s.glitches := rfl
@[simp] theorem addReport_served (s : State) (agg : Nat) (e : MergeEntry) : (addReport s agg e).served = s.served := rfl
@[simp] theorem addReport_halt (s : State) (agg : Nat) (e : MergeEntry) : (addReport s agg e).halt = s.halt := rfl
@[simp] theorem addReport_rgns (s : State) (agg : Nat) (e : MergeEntry) : (addReport s agg e).rgns = s.rgns := rfl
@[simp] theorem addReport_engTrips (s : State) (agg : Nat) (e : MergeEntry) : (addReport s agg e).engTrips = s.engTrips := rfl
@[simp] theorem addReport_d2d (s : State) (agg : Nat) (e : MergeEntry) : (addReport s agg e).d2d = s.d2d := rfl
@[simp] theorem addReport_storms (s : State) (agg : Nat) (e : MergeEntry) : (addReport s agg e).storms = s.storms := rfl
@[simp] theorem addReport_logMerged (s : State) (agg : Nat) (e : MergeEntry) : (addReport s agg e).logMerged = s.logMerged := rfl
@[simp] theorem addReport_power (s : State) (agg : Nat) (e : MergeEntry) : (addReport s agg e).power = s.power := rfl
@[simp] theorem addReport_failed (s : State) (agg : Nat) (e : MergeEntry) : (addReport s agg e).failed = s.failed := rfl
@[simp] theorem addReport_pins (s : State) (agg : Nat) (e : MergeEntry) : (addReport s agg e).pins = s.pins := rfl
@[simp] theorem addReport_sec (s : State) (agg : Nat) (e : MergeEntry) : (addReport s agg e).sec = s.sec := rfl
@[simp] theorem addReport_part (s : State) (agg : Nat) (e : MergeEntry) : (addReport s agg e).part = s.part := rfl
@[simp] theorem addReport_baud (s : State) (agg : Nat) (e : MergeEntry) : (addReport s agg e).baud = s.baud := rfl
@[simp] theorem addReport_out (s : State) (agg : Nat) (e : MergeEntry) : (addReport s agg e).out = s.out := rfl

/-! ## dropOut -/

@[simp] theorem dropOut_pending (s : State) (i : Nat) : (dropOut s i).pending = s.pending := rfl
@[simp] theorem dropOut_free (s : State) (i : Nat) : (dropOut s i).free = s.free := rfl
@[simp] theorem dropOut_regs (s : State) (i : Nat) : (dropOut s i).regs = s.regs := rfl
@[simp] theorem dropOut_mem (s : State) (i : Nat) : (dropOut s i).mem = s.mem := rfl
@[simp] theorem dropOut_poison (s : State) (i : Nat) : (dropOut s i).poison = s.poison := rfl
@[simp] theorem dropOut_clean (s : State) (i : Nat) : (dropOut s i).clean = s.clean := rfl
@[simp] theorem dropOut_ways (s : State) (i : Nat) : (dropOut s i).ways = s.ways := rfl
@[simp] theorem dropOut_tierCtl (s : State) (i : Nat) : (dropOut s i).tierCtl = s.tierCtl := rfl
@[simp] theorem dropOut_attCtl (s : State) (i : Nat) : (dropOut s i).attCtl = s.attCtl := rfl
@[simp] theorem dropOut_attSpill (s : State) (i : Nat) : (dropOut s i).attSpill = s.attSpill := rfl
@[simp] theorem dropOut_tier (s : State) (i : Nat) : (dropOut s i).tier = s.tier := rfl
@[simp] theorem dropOut_ddrCtr (s : State) (i : Nat) : (dropOut s i).ddrCtr = s.ddrCtr := rfl
@[simp] theorem dropOut_withheld (s : State) (i : Nat) : (dropOut s i).withheld = s.withheld := rfl
@[simp] theorem dropOut_msix (s : State) (i : Nat) : (dropOut s i).msix = s.msix := rfl
@[simp] theorem dropOut_msixPend (s : State) (i : Nat) : (dropOut s i).msixPend = s.msixPend := rfl
@[simp] theorem dropOut_latches (s : State) (i : Nat) : (dropOut s i).latches = s.latches := rfl
@[simp] theorem dropOut_pcie (s : State) (i : Nat) : (dropOut s i).pcie = s.pcie := rfl
@[simp] theorem dropOut_ptm (s : State) (i : Nat) : (dropOut s i).ptm = s.ptm := rfl
@[simp] theorem dropOut_ctxs (s : State) (i : Nat) : (dropOut s i).ctxs = s.ctxs := rfl
@[simp] theorem dropOut_nextId (s : State) (i : Nat) : (dropOut s i).nextId = s.nextId := rfl
@[simp] theorem dropOut_adapters (s : State) (i : Nat) : (dropOut s i).adapters = s.adapters := rfl
@[simp] theorem dropOut_packages (s : State) (i : Nat) : (dropOut s i).packages = s.packages := rfl
@[simp] theorem dropOut_grpSeq (s : State) (i : Nat) : (dropOut s i).grpSeq = s.grpSeq := rfl
@[simp] theorem dropOut_verdicts (s : State) (i : Nat) : (dropOut s i).verdicts = s.verdicts := rfl
@[simp] theorem dropOut_abandoned (s : State) (i : Nat) : (dropOut s i).abandoned = s.abandoned := rfl
@[simp] theorem dropOut_collIn (s : State) (i : Nat) : (dropOut s i).collIn = s.collIn := rfl
@[simp] theorem dropOut_conns (s : State) (i : Nat) : (dropOut s i).conns = s.conns := rfl
@[simp] theorem dropOut_pauses (s : State) (i : Nat) : (dropOut s i).pauses = s.pauses := rfl
@[simp] theorem dropOut_arrays (s : State) (i : Nat) : (dropOut s i).arrays = s.arrays := rfl
@[simp] theorem dropOut_glitches (s : State) (i : Nat) : (dropOut s i).glitches = s.glitches := rfl
@[simp] theorem dropOut_served (s : State) (i : Nat) : (dropOut s i).served = s.served := rfl
@[simp] theorem dropOut_halt (s : State) (i : Nat) : (dropOut s i).halt = s.halt := rfl
@[simp] theorem dropOut_rgns (s : State) (i : Nat) : (dropOut s i).rgns = s.rgns := rfl
@[simp] theorem dropOut_engTrips (s : State) (i : Nat) : (dropOut s i).engTrips = s.engTrips := rfl
@[simp] theorem dropOut_d2d (s : State) (i : Nat) : (dropOut s i).d2d = s.d2d := rfl
@[simp] theorem dropOut_merges (s : State) (i : Nat) : (dropOut s i).merges = s.merges := rfl
@[simp] theorem dropOut_storms (s : State) (i : Nat) : (dropOut s i).storms = s.storms := rfl
@[simp] theorem dropOut_logMerged (s : State) (i : Nat) : (dropOut s i).logMerged = s.logMerged := rfl
@[simp] theorem dropOut_power (s : State) (i : Nat) : (dropOut s i).power = s.power := rfl
@[simp] theorem dropOut_failed (s : State) (i : Nat) : (dropOut s i).failed = s.failed := rfl
@[simp] theorem dropOut_pins (s : State) (i : Nat) : (dropOut s i).pins = s.pins := rfl
@[simp] theorem dropOut_sec (s : State) (i : Nat) : (dropOut s i).sec = s.sec := rfl
@[simp] theorem dropOut_part (s : State) (i : Nat) : (dropOut s i).part = s.part := rfl
@[simp] theorem dropOut_baud (s : State) (i : Nat) : (dropOut s i).baud = s.baud := rfl
@[simp] theorem dropOut_out (s : State) (i : Nat) : (dropOut s i).out = s.out := rfl

/-! ## putOut -/

@[simp] theorem putOut_pending (s : State) (o : OutCmd) : (putOut s o).pending = s.pending := rfl
@[simp] theorem putOut_free (s : State) (o : OutCmd) : (putOut s o).free = s.free := rfl
@[simp] theorem putOut_regs (s : State) (o : OutCmd) : (putOut s o).regs = s.regs := rfl
@[simp] theorem putOut_mem (s : State) (o : OutCmd) : (putOut s o).mem = s.mem := rfl
@[simp] theorem putOut_poison (s : State) (o : OutCmd) : (putOut s o).poison = s.poison := rfl
@[simp] theorem putOut_clean (s : State) (o : OutCmd) : (putOut s o).clean = s.clean := rfl
@[simp] theorem putOut_ways (s : State) (o : OutCmd) : (putOut s o).ways = s.ways := rfl
@[simp] theorem putOut_tierCtl (s : State) (o : OutCmd) : (putOut s o).tierCtl = s.tierCtl := rfl
@[simp] theorem putOut_attCtl (s : State) (o : OutCmd) : (putOut s o).attCtl = s.attCtl := rfl
@[simp] theorem putOut_attSpill (s : State) (o : OutCmd) : (putOut s o).attSpill = s.attSpill := rfl
@[simp] theorem putOut_tier (s : State) (o : OutCmd) : (putOut s o).tier = s.tier := rfl
@[simp] theorem putOut_ddrCtr (s : State) (o : OutCmd) : (putOut s o).ddrCtr = s.ddrCtr := rfl
@[simp] theorem putOut_withheld (s : State) (o : OutCmd) : (putOut s o).withheld = s.withheld := rfl
@[simp] theorem putOut_msix (s : State) (o : OutCmd) : (putOut s o).msix = s.msix := rfl
@[simp] theorem putOut_msixPend (s : State) (o : OutCmd) : (putOut s o).msixPend = s.msixPend := rfl
@[simp] theorem putOut_latches (s : State) (o : OutCmd) : (putOut s o).latches = s.latches := rfl
@[simp] theorem putOut_pcie (s : State) (o : OutCmd) : (putOut s o).pcie = s.pcie := rfl
@[simp] theorem putOut_ptm (s : State) (o : OutCmd) : (putOut s o).ptm = s.ptm := rfl
@[simp] theorem putOut_ctxs (s : State) (o : OutCmd) : (putOut s o).ctxs = s.ctxs := rfl
@[simp] theorem putOut_nextId (s : State) (o : OutCmd) : (putOut s o).nextId = s.nextId := rfl
@[simp] theorem putOut_adapters (s : State) (o : OutCmd) : (putOut s o).adapters = s.adapters := rfl
@[simp] theorem putOut_packages (s : State) (o : OutCmd) : (putOut s o).packages = s.packages := rfl
@[simp] theorem putOut_grpSeq (s : State) (o : OutCmd) : (putOut s o).grpSeq = s.grpSeq := rfl
@[simp] theorem putOut_verdicts (s : State) (o : OutCmd) : (putOut s o).verdicts = s.verdicts := rfl
@[simp] theorem putOut_abandoned (s : State) (o : OutCmd) : (putOut s o).abandoned = s.abandoned := rfl
@[simp] theorem putOut_collIn (s : State) (o : OutCmd) : (putOut s o).collIn = s.collIn := rfl
@[simp] theorem putOut_conns (s : State) (o : OutCmd) : (putOut s o).conns = s.conns := rfl
@[simp] theorem putOut_pauses (s : State) (o : OutCmd) : (putOut s o).pauses = s.pauses := rfl
@[simp] theorem putOut_arrays (s : State) (o : OutCmd) : (putOut s o).arrays = s.arrays := rfl
@[simp] theorem putOut_glitches (s : State) (o : OutCmd) : (putOut s o).glitches = s.glitches := rfl
@[simp] theorem putOut_served (s : State) (o : OutCmd) : (putOut s o).served = s.served := rfl
@[simp] theorem putOut_halt (s : State) (o : OutCmd) : (putOut s o).halt = s.halt := rfl
@[simp] theorem putOut_rgns (s : State) (o : OutCmd) : (putOut s o).rgns = s.rgns := rfl
@[simp] theorem putOut_engTrips (s : State) (o : OutCmd) : (putOut s o).engTrips = s.engTrips := rfl
@[simp] theorem putOut_d2d (s : State) (o : OutCmd) : (putOut s o).d2d = s.d2d := rfl
@[simp] theorem putOut_merges (s : State) (o : OutCmd) : (putOut s o).merges = s.merges := rfl
@[simp] theorem putOut_storms (s : State) (o : OutCmd) : (putOut s o).storms = s.storms := rfl
@[simp] theorem putOut_logMerged (s : State) (o : OutCmd) : (putOut s o).logMerged = s.logMerged := rfl
@[simp] theorem putOut_power (s : State) (o : OutCmd) : (putOut s o).power = s.power := rfl
@[simp] theorem putOut_failed (s : State) (o : OutCmd) : (putOut s o).failed = s.failed := rfl
@[simp] theorem putOut_pins (s : State) (o : OutCmd) : (putOut s o).pins = s.pins := rfl
@[simp] theorem putOut_sec (s : State) (o : OutCmd) : (putOut s o).sec = s.sec := rfl
@[simp] theorem putOut_part (s : State) (o : OutCmd) : (putOut s o).part = s.part := rfl
@[simp] theorem putOut_baud (s : State) (o : OutCmd) : (putOut s o).baud = s.baud := rfl
@[simp] theorem putOut_out (s : State) (o : OutCmd) : (putOut s o).out = s.out := rfl

/-! ## addOut -/

@[simp] theorem addOut_pending (s : State) (o : OutCmd) : (addOut s o).pending = s.pending := rfl
@[simp] theorem addOut_free (s : State) (o : OutCmd) : (addOut s o).free = s.free := rfl
@[simp] theorem addOut_regs (s : State) (o : OutCmd) : (addOut s o).regs = s.regs := rfl
@[simp] theorem addOut_mem (s : State) (o : OutCmd) : (addOut s o).mem = s.mem := rfl
@[simp] theorem addOut_poison (s : State) (o : OutCmd) : (addOut s o).poison = s.poison := rfl
@[simp] theorem addOut_clean (s : State) (o : OutCmd) : (addOut s o).clean = s.clean := rfl
@[simp] theorem addOut_ways (s : State) (o : OutCmd) : (addOut s o).ways = s.ways := rfl
@[simp] theorem addOut_tierCtl (s : State) (o : OutCmd) : (addOut s o).tierCtl = s.tierCtl := rfl
@[simp] theorem addOut_attCtl (s : State) (o : OutCmd) : (addOut s o).attCtl = s.attCtl := rfl
@[simp] theorem addOut_attSpill (s : State) (o : OutCmd) : (addOut s o).attSpill = s.attSpill := rfl
@[simp] theorem addOut_tier (s : State) (o : OutCmd) : (addOut s o).tier = s.tier := rfl
@[simp] theorem addOut_ddrCtr (s : State) (o : OutCmd) : (addOut s o).ddrCtr = s.ddrCtr := rfl
@[simp] theorem addOut_withheld (s : State) (o : OutCmd) : (addOut s o).withheld = s.withheld := rfl
@[simp] theorem addOut_msix (s : State) (o : OutCmd) : (addOut s o).msix = s.msix := rfl
@[simp] theorem addOut_msixPend (s : State) (o : OutCmd) : (addOut s o).msixPend = s.msixPend := rfl
@[simp] theorem addOut_latches (s : State) (o : OutCmd) : (addOut s o).latches = s.latches := rfl
@[simp] theorem addOut_pcie (s : State) (o : OutCmd) : (addOut s o).pcie = s.pcie := rfl
@[simp] theorem addOut_ptm (s : State) (o : OutCmd) : (addOut s o).ptm = s.ptm := rfl
@[simp] theorem addOut_ctxs (s : State) (o : OutCmd) : (addOut s o).ctxs = s.ctxs := rfl
@[simp] theorem addOut_nextId (s : State) (o : OutCmd) : (addOut s o).nextId = s.nextId := rfl
@[simp] theorem addOut_adapters (s : State) (o : OutCmd) : (addOut s o).adapters = s.adapters := rfl
@[simp] theorem addOut_packages (s : State) (o : OutCmd) : (addOut s o).packages = s.packages := rfl
@[simp] theorem addOut_grpSeq (s : State) (o : OutCmd) : (addOut s o).grpSeq = s.grpSeq := rfl
@[simp] theorem addOut_verdicts (s : State) (o : OutCmd) : (addOut s o).verdicts = s.verdicts := rfl
@[simp] theorem addOut_abandoned (s : State) (o : OutCmd) : (addOut s o).abandoned = s.abandoned := rfl
@[simp] theorem addOut_collIn (s : State) (o : OutCmd) : (addOut s o).collIn = s.collIn := rfl
@[simp] theorem addOut_conns (s : State) (o : OutCmd) : (addOut s o).conns = s.conns := rfl
@[simp] theorem addOut_pauses (s : State) (o : OutCmd) : (addOut s o).pauses = s.pauses := rfl
@[simp] theorem addOut_arrays (s : State) (o : OutCmd) : (addOut s o).arrays = s.arrays := rfl
@[simp] theorem addOut_glitches (s : State) (o : OutCmd) : (addOut s o).glitches = s.glitches := rfl
@[simp] theorem addOut_served (s : State) (o : OutCmd) : (addOut s o).served = s.served := rfl
@[simp] theorem addOut_halt (s : State) (o : OutCmd) : (addOut s o).halt = s.halt := rfl
@[simp] theorem addOut_rgns (s : State) (o : OutCmd) : (addOut s o).rgns = s.rgns := rfl
@[simp] theorem addOut_engTrips (s : State) (o : OutCmd) : (addOut s o).engTrips = s.engTrips := rfl
@[simp] theorem addOut_d2d (s : State) (o : OutCmd) : (addOut s o).d2d = s.d2d := rfl
@[simp] theorem addOut_merges (s : State) (o : OutCmd) : (addOut s o).merges = s.merges := rfl
@[simp] theorem addOut_storms (s : State) (o : OutCmd) : (addOut s o).storms = s.storms := rfl
@[simp] theorem addOut_logMerged (s : State) (o : OutCmd) : (addOut s o).logMerged = s.logMerged := rfl
@[simp] theorem addOut_power (s : State) (o : OutCmd) : (addOut s o).power = s.power := rfl
@[simp] theorem addOut_failed (s : State) (o : OutCmd) : (addOut s o).failed = s.failed := rfl
@[simp] theorem addOut_pins (s : State) (o : OutCmd) : (addOut s o).pins = s.pins := rfl
@[simp] theorem addOut_sec (s : State) (o : OutCmd) : (addOut s o).sec = s.sec := rfl
@[simp] theorem addOut_part (s : State) (o : OutCmd) : (addOut s o).part = s.part := rfl
@[simp] theorem addOut_baud (s : State) (o : OutCmd) : (addOut s o).baud = s.baud := rfl
@[simp] theorem addOut_out (s : State) (o : OutCmd) : (addOut s o).out = s.out := rfl

/-! ## setConn -/

@[simp] theorem setConn_pending (s : State) (sub pkg : Nat) (c : Conn) : (setConn s sub pkg c).pending = s.pending := rfl
@[simp] theorem setConn_free (s : State) (sub pkg : Nat) (c : Conn) : (setConn s sub pkg c).free = s.free := rfl
@[simp] theorem setConn_regs (s : State) (sub pkg : Nat) (c : Conn) : (setConn s sub pkg c).regs = s.regs := rfl
@[simp] theorem setConn_mem (s : State) (sub pkg : Nat) (c : Conn) : (setConn s sub pkg c).mem = s.mem := rfl
@[simp] theorem setConn_poison (s : State) (sub pkg : Nat) (c : Conn) : (setConn s sub pkg c).poison = s.poison := rfl
@[simp] theorem setConn_clean (s : State) (sub pkg : Nat) (c : Conn) : (setConn s sub pkg c).clean = s.clean := rfl
@[simp] theorem setConn_ways (s : State) (sub pkg : Nat) (c : Conn) : (setConn s sub pkg c).ways = s.ways := rfl
@[simp] theorem setConn_tierCtl (s : State) (sub pkg : Nat) (c : Conn) : (setConn s sub pkg c).tierCtl = s.tierCtl := rfl
@[simp] theorem setConn_attCtl (s : State) (sub pkg : Nat) (c : Conn) : (setConn s sub pkg c).attCtl = s.attCtl := rfl
@[simp] theorem setConn_attSpill (s : State) (sub pkg : Nat) (c : Conn) : (setConn s sub pkg c).attSpill = s.attSpill := rfl
@[simp] theorem setConn_tier (s : State) (sub pkg : Nat) (c : Conn) : (setConn s sub pkg c).tier = s.tier := rfl
@[simp] theorem setConn_ddrCtr (s : State) (sub pkg : Nat) (c : Conn) : (setConn s sub pkg c).ddrCtr = s.ddrCtr := rfl
@[simp] theorem setConn_withheld (s : State) (sub pkg : Nat) (c : Conn) : (setConn s sub pkg c).withheld = s.withheld := rfl
@[simp] theorem setConn_msix (s : State) (sub pkg : Nat) (c : Conn) : (setConn s sub pkg c).msix = s.msix := rfl
@[simp] theorem setConn_msixPend (s : State) (sub pkg : Nat) (c : Conn) : (setConn s sub pkg c).msixPend = s.msixPend := rfl
@[simp] theorem setConn_latches (s : State) (sub pkg : Nat) (c : Conn) : (setConn s sub pkg c).latches = s.latches := rfl
@[simp] theorem setConn_pcie (s : State) (sub pkg : Nat) (c : Conn) : (setConn s sub pkg c).pcie = s.pcie := rfl
@[simp] theorem setConn_ptm (s : State) (sub pkg : Nat) (c : Conn) : (setConn s sub pkg c).ptm = s.ptm := rfl
@[simp] theorem setConn_ctxs (s : State) (sub pkg : Nat) (c : Conn) : (setConn s sub pkg c).ctxs = s.ctxs := rfl
@[simp] theorem setConn_outs (s : State) (sub pkg : Nat) (c : Conn) : (setConn s sub pkg c).outs = s.outs := rfl
@[simp] theorem setConn_nextId (s : State) (sub pkg : Nat) (c : Conn) : (setConn s sub pkg c).nextId = s.nextId := rfl
@[simp] theorem setConn_adapters (s : State) (sub pkg : Nat) (c : Conn) : (setConn s sub pkg c).adapters = s.adapters := rfl
@[simp] theorem setConn_packages (s : State) (sub pkg : Nat) (c : Conn) : (setConn s sub pkg c).packages = s.packages := rfl
@[simp] theorem setConn_grpSeq (s : State) (sub pkg : Nat) (c : Conn) : (setConn s sub pkg c).grpSeq = s.grpSeq := rfl
@[simp] theorem setConn_verdicts (s : State) (sub pkg : Nat) (c : Conn) : (setConn s sub pkg c).verdicts = s.verdicts := rfl
@[simp] theorem setConn_abandoned (s : State) (sub pkg : Nat) (c : Conn) : (setConn s sub pkg c).abandoned = s.abandoned := rfl
@[simp] theorem setConn_collIn (s : State) (sub pkg : Nat) (c : Conn) : (setConn s sub pkg c).collIn = s.collIn := rfl
@[simp] theorem setConn_pauses (s : State) (sub pkg : Nat) (c : Conn) : (setConn s sub pkg c).pauses = s.pauses := rfl
@[simp] theorem setConn_arrays (s : State) (sub pkg : Nat) (c : Conn) : (setConn s sub pkg c).arrays = s.arrays := rfl
@[simp] theorem setConn_glitches (s : State) (sub pkg : Nat) (c : Conn) : (setConn s sub pkg c).glitches = s.glitches := rfl
@[simp] theorem setConn_served (s : State) (sub pkg : Nat) (c : Conn) : (setConn s sub pkg c).served = s.served := rfl
@[simp] theorem setConn_halt (s : State) (sub pkg : Nat) (c : Conn) : (setConn s sub pkg c).halt = s.halt := rfl
@[simp] theorem setConn_rgns (s : State) (sub pkg : Nat) (c : Conn) : (setConn s sub pkg c).rgns = s.rgns := rfl
@[simp] theorem setConn_engTrips (s : State) (sub pkg : Nat) (c : Conn) : (setConn s sub pkg c).engTrips = s.engTrips := rfl
@[simp] theorem setConn_d2d (s : State) (sub pkg : Nat) (c : Conn) : (setConn s sub pkg c).d2d = s.d2d := rfl
@[simp] theorem setConn_merges (s : State) (sub pkg : Nat) (c : Conn) : (setConn s sub pkg c).merges = s.merges := rfl
@[simp] theorem setConn_storms (s : State) (sub pkg : Nat) (c : Conn) : (setConn s sub pkg c).storms = s.storms := rfl
@[simp] theorem setConn_logMerged (s : State) (sub pkg : Nat) (c : Conn) : (setConn s sub pkg c).logMerged = s.logMerged := rfl
@[simp] theorem setConn_power (s : State) (sub pkg : Nat) (c : Conn) : (setConn s sub pkg c).power = s.power := rfl
@[simp] theorem setConn_failed (s : State) (sub pkg : Nat) (c : Conn) : (setConn s sub pkg c).failed = s.failed := rfl
@[simp] theorem setConn_pins (s : State) (sub pkg : Nat) (c : Conn) : (setConn s sub pkg c).pins = s.pins := rfl
@[simp] theorem setConn_sec (s : State) (sub pkg : Nat) (c : Conn) : (setConn s sub pkg c).sec = s.sec := rfl
@[simp] theorem setConn_part (s : State) (sub pkg : Nat) (c : Conn) : (setConn s sub pkg c).part = s.part := rfl
@[simp] theorem setConn_baud (s : State) (sub pkg : Nat) (c : Conn) : (setConn s sub pkg c).baud = s.baud := rfl
@[simp] theorem setConn_out (s : State) (sub pkg : Nat) (c : Conn) : (setConn s sub pkg c).out = s.out := rfl

/-! ## dropLatch -/

@[simp] theorem dropLatch_pending (s : State) (src : Source) : (dropLatch s src).pending = s.pending := rfl
@[simp] theorem dropLatch_free (s : State) (src : Source) : (dropLatch s src).free = s.free := rfl
@[simp] theorem dropLatch_regs (s : State) (src : Source) : (dropLatch s src).regs = s.regs := rfl
@[simp] theorem dropLatch_mem (s : State) (src : Source) : (dropLatch s src).mem = s.mem := rfl
@[simp] theorem dropLatch_poison (s : State) (src : Source) : (dropLatch s src).poison = s.poison := rfl
@[simp] theorem dropLatch_clean (s : State) (src : Source) : (dropLatch s src).clean = s.clean := rfl
@[simp] theorem dropLatch_ways (s : State) (src : Source) : (dropLatch s src).ways = s.ways := rfl
@[simp] theorem dropLatch_tierCtl (s : State) (src : Source) : (dropLatch s src).tierCtl = s.tierCtl := rfl
@[simp] theorem dropLatch_attCtl (s : State) (src : Source) : (dropLatch s src).attCtl = s.attCtl := rfl
@[simp] theorem dropLatch_attSpill (s : State) (src : Source) : (dropLatch s src).attSpill = s.attSpill := rfl
@[simp] theorem dropLatch_tier (s : State) (src : Source) : (dropLatch s src).tier = s.tier := rfl
@[simp] theorem dropLatch_ddrCtr (s : State) (src : Source) : (dropLatch s src).ddrCtr = s.ddrCtr := rfl
@[simp] theorem dropLatch_withheld (s : State) (src : Source) : (dropLatch s src).withheld = s.withheld := rfl
@[simp] theorem dropLatch_msix (s : State) (src : Source) : (dropLatch s src).msix = s.msix := rfl
@[simp] theorem dropLatch_msixPend (s : State) (src : Source) : (dropLatch s src).msixPend = s.msixPend := rfl
@[simp] theorem dropLatch_pcie (s : State) (src : Source) : (dropLatch s src).pcie = s.pcie := rfl
@[simp] theorem dropLatch_ptm (s : State) (src : Source) : (dropLatch s src).ptm = s.ptm := rfl
@[simp] theorem dropLatch_ctxs (s : State) (src : Source) : (dropLatch s src).ctxs = s.ctxs := rfl
@[simp] theorem dropLatch_outs (s : State) (src : Source) : (dropLatch s src).outs = s.outs := rfl
@[simp] theorem dropLatch_nextId (s : State) (src : Source) : (dropLatch s src).nextId = s.nextId := rfl
@[simp] theorem dropLatch_adapters (s : State) (src : Source) : (dropLatch s src).adapters = s.adapters := rfl
@[simp] theorem dropLatch_packages (s : State) (src : Source) : (dropLatch s src).packages = s.packages := rfl
@[simp] theorem dropLatch_grpSeq (s : State) (src : Source) : (dropLatch s src).grpSeq = s.grpSeq := rfl
@[simp] theorem dropLatch_verdicts (s : State) (src : Source) : (dropLatch s src).verdicts = s.verdicts := rfl
@[simp] theorem dropLatch_abandoned (s : State) (src : Source) : (dropLatch s src).abandoned = s.abandoned := rfl
@[simp] theorem dropLatch_collIn (s : State) (src : Source) : (dropLatch s src).collIn = s.collIn := rfl
@[simp] theorem dropLatch_conns (s : State) (src : Source) : (dropLatch s src).conns = s.conns := rfl
@[simp] theorem dropLatch_pauses (s : State) (src : Source) : (dropLatch s src).pauses = s.pauses := rfl
@[simp] theorem dropLatch_arrays (s : State) (src : Source) : (dropLatch s src).arrays = s.arrays := rfl
@[simp] theorem dropLatch_glitches (s : State) (src : Source) : (dropLatch s src).glitches = s.glitches := rfl
@[simp] theorem dropLatch_served (s : State) (src : Source) : (dropLatch s src).served = s.served := rfl
@[simp] theorem dropLatch_halt (s : State) (src : Source) : (dropLatch s src).halt = s.halt := rfl
@[simp] theorem dropLatch_rgns (s : State) (src : Source) : (dropLatch s src).rgns = s.rgns := rfl
@[simp] theorem dropLatch_engTrips (s : State) (src : Source) : (dropLatch s src).engTrips = s.engTrips := rfl
@[simp] theorem dropLatch_d2d (s : State) (src : Source) : (dropLatch s src).d2d = s.d2d := rfl
@[simp] theorem dropLatch_merges (s : State) (src : Source) : (dropLatch s src).merges = s.merges := rfl
@[simp] theorem dropLatch_storms (s : State) (src : Source) : (dropLatch s src).storms = s.storms := rfl
@[simp] theorem dropLatch_logMerged (s : State) (src : Source) : (dropLatch s src).logMerged = s.logMerged := rfl
@[simp] theorem dropLatch_power (s : State) (src : Source) : (dropLatch s src).power = s.power := rfl
@[simp] theorem dropLatch_failed (s : State) (src : Source) : (dropLatch s src).failed = s.failed := rfl
@[simp] theorem dropLatch_pins (s : State) (src : Source) : (dropLatch s src).pins = s.pins := rfl
@[simp] theorem dropLatch_sec (s : State) (src : Source) : (dropLatch s src).sec = s.sec := rfl
@[simp] theorem dropLatch_part (s : State) (src : Source) : (dropLatch s src).part = s.part := rfl
@[simp] theorem dropLatch_baud (s : State) (src : Source) : (dropLatch s src).baud = s.baud := rfl
@[simp] theorem dropLatch_out (s : State) (src : Source) : (dropLatch s src).out = s.out := rfl

/-! ## setPower -/

@[simp] theorem setPower_pending (s : State) (p : PowerSt) : (setPower s p).pending = s.pending := rfl
@[simp] theorem setPower_free (s : State) (p : PowerSt) : (setPower s p).free = s.free := rfl
@[simp] theorem setPower_regs (s : State) (p : PowerSt) : (setPower s p).regs = s.regs := rfl
@[simp] theorem setPower_mem (s : State) (p : PowerSt) : (setPower s p).mem = s.mem := rfl
@[simp] theorem setPower_poison (s : State) (p : PowerSt) : (setPower s p).poison = s.poison := rfl
@[simp] theorem setPower_clean (s : State) (p : PowerSt) : (setPower s p).clean = s.clean := rfl
@[simp] theorem setPower_ways (s : State) (p : PowerSt) : (setPower s p).ways = s.ways := rfl
@[simp] theorem setPower_tierCtl (s : State) (p : PowerSt) : (setPower s p).tierCtl = s.tierCtl := rfl
@[simp] theorem setPower_attCtl (s : State) (p : PowerSt) : (setPower s p).attCtl = s.attCtl := rfl
@[simp] theorem setPower_attSpill (s : State) (p : PowerSt) : (setPower s p).attSpill = s.attSpill := rfl
@[simp] theorem setPower_tier (s : State) (p : PowerSt) : (setPower s p).tier = s.tier := rfl
@[simp] theorem setPower_ddrCtr (s : State) (p : PowerSt) : (setPower s p).ddrCtr = s.ddrCtr := rfl
@[simp] theorem setPower_withheld (s : State) (p : PowerSt) : (setPower s p).withheld = s.withheld := rfl
@[simp] theorem setPower_msix (s : State) (p : PowerSt) : (setPower s p).msix = s.msix := rfl
@[simp] theorem setPower_msixPend (s : State) (p : PowerSt) : (setPower s p).msixPend = s.msixPend := rfl
@[simp] theorem setPower_latches (s : State) (p : PowerSt) : (setPower s p).latches = s.latches := rfl
@[simp] theorem setPower_pcie (s : State) (p : PowerSt) : (setPower s p).pcie = s.pcie := rfl
@[simp] theorem setPower_ptm (s : State) (p : PowerSt) : (setPower s p).ptm = s.ptm := rfl
@[simp] theorem setPower_ctxs (s : State) (p : PowerSt) : (setPower s p).ctxs = s.ctxs := rfl
@[simp] theorem setPower_outs (s : State) (p : PowerSt) : (setPower s p).outs = s.outs := rfl
@[simp] theorem setPower_nextId (s : State) (p : PowerSt) : (setPower s p).nextId = s.nextId := rfl
@[simp] theorem setPower_adapters (s : State) (p : PowerSt) : (setPower s p).adapters = s.adapters := rfl
@[simp] theorem setPower_packages (s : State) (p : PowerSt) : (setPower s p).packages = s.packages := rfl
@[simp] theorem setPower_grpSeq (s : State) (p : PowerSt) : (setPower s p).grpSeq = s.grpSeq := rfl
@[simp] theorem setPower_verdicts (s : State) (p : PowerSt) : (setPower s p).verdicts = s.verdicts := rfl
@[simp] theorem setPower_abandoned (s : State) (p : PowerSt) : (setPower s p).abandoned = s.abandoned := rfl
@[simp] theorem setPower_collIn (s : State) (p : PowerSt) : (setPower s p).collIn = s.collIn := rfl
@[simp] theorem setPower_conns (s : State) (p : PowerSt) : (setPower s p).conns = s.conns := rfl
@[simp] theorem setPower_pauses (s : State) (p : PowerSt) : (setPower s p).pauses = s.pauses := rfl
@[simp] theorem setPower_arrays (s : State) (p : PowerSt) : (setPower s p).arrays = s.arrays := rfl
@[simp] theorem setPower_glitches (s : State) (p : PowerSt) : (setPower s p).glitches = s.glitches := rfl
@[simp] theorem setPower_served (s : State) (p : PowerSt) : (setPower s p).served = s.served := rfl
@[simp] theorem setPower_halt (s : State) (p : PowerSt) : (setPower s p).halt = s.halt := rfl
@[simp] theorem setPower_rgns (s : State) (p : PowerSt) : (setPower s p).rgns = s.rgns := rfl
@[simp] theorem setPower_engTrips (s : State) (p : PowerSt) : (setPower s p).engTrips = s.engTrips := rfl
@[simp] theorem setPower_d2d (s : State) (p : PowerSt) : (setPower s p).d2d = s.d2d := rfl
@[simp] theorem setPower_merges (s : State) (p : PowerSt) : (setPower s p).merges = s.merges := rfl
@[simp] theorem setPower_storms (s : State) (p : PowerSt) : (setPower s p).storms = s.storms := rfl
@[simp] theorem setPower_logMerged (s : State) (p : PowerSt) : (setPower s p).logMerged = s.logMerged := rfl
@[simp] theorem setPower_failed (s : State) (p : PowerSt) : (setPower s p).failed = s.failed := rfl
@[simp] theorem setPower_pins (s : State) (p : PowerSt) : (setPower s p).pins = s.pins := rfl
@[simp] theorem setPower_sec (s : State) (p : PowerSt) : (setPower s p).sec = s.sec := rfl
@[simp] theorem setPower_part (s : State) (p : PowerSt) : (setPower s p).part = s.part := rfl
@[simp] theorem setPower_baud (s : State) (p : PowerSt) : (setPower s p).baud = s.baud := rfl
@[simp] theorem setPower_out (s : State) (p : PowerSt) : (setPower s p).out = s.out := rfl

/-! ## failPackage -/

@[simp] theorem failPackage_pending (s : State) : (failPackage s).pending = s.pending := rfl
@[simp] theorem failPackage_free (s : State) : (failPackage s).free = s.free := rfl
@[simp] theorem failPackage_regs (s : State) : (failPackage s).regs = s.regs := rfl
@[simp] theorem failPackage_mem (s : State) : (failPackage s).mem = s.mem := rfl
@[simp] theorem failPackage_poison (s : State) : (failPackage s).poison = s.poison := rfl
@[simp] theorem failPackage_clean (s : State) : (failPackage s).clean = s.clean := rfl
@[simp] theorem failPackage_ways (s : State) : (failPackage s).ways = s.ways := rfl
@[simp] theorem failPackage_tierCtl (s : State) : (failPackage s).tierCtl = s.tierCtl := rfl
@[simp] theorem failPackage_attCtl (s : State) : (failPackage s).attCtl = s.attCtl := rfl
@[simp] theorem failPackage_attSpill (s : State) : (failPackage s).attSpill = s.attSpill := rfl
@[simp] theorem failPackage_tier (s : State) : (failPackage s).tier = s.tier := rfl
@[simp] theorem failPackage_ddrCtr (s : State) : (failPackage s).ddrCtr = s.ddrCtr := rfl
@[simp] theorem failPackage_withheld (s : State) : (failPackage s).withheld = s.withheld := rfl
@[simp] theorem failPackage_msix (s : State) : (failPackage s).msix = s.msix := rfl
@[simp] theorem failPackage_msixPend (s : State) : (failPackage s).msixPend = s.msixPend := rfl
@[simp] theorem failPackage_latches (s : State) : (failPackage s).latches = s.latches := rfl
@[simp] theorem failPackage_pcie (s : State) : (failPackage s).pcie = s.pcie := rfl
@[simp] theorem failPackage_ptm (s : State) : (failPackage s).ptm = s.ptm := rfl
@[simp] theorem failPackage_ctxs (s : State) : (failPackage s).ctxs = s.ctxs := rfl
@[simp] theorem failPackage_outs (s : State) : (failPackage s).outs = s.outs := rfl
@[simp] theorem failPackage_nextId (s : State) : (failPackage s).nextId = s.nextId := rfl
@[simp] theorem failPackage_adapters (s : State) : (failPackage s).adapters = s.adapters := rfl
@[simp] theorem failPackage_packages (s : State) : (failPackage s).packages = s.packages := rfl
@[simp] theorem failPackage_grpSeq (s : State) : (failPackage s).grpSeq = s.grpSeq := rfl
@[simp] theorem failPackage_verdicts (s : State) : (failPackage s).verdicts = s.verdicts := rfl
@[simp] theorem failPackage_abandoned (s : State) : (failPackage s).abandoned = s.abandoned := rfl
@[simp] theorem failPackage_collIn (s : State) : (failPackage s).collIn = s.collIn := rfl
@[simp] theorem failPackage_conns (s : State) : (failPackage s).conns = s.conns := rfl
@[simp] theorem failPackage_pauses (s : State) : (failPackage s).pauses = s.pauses := rfl
@[simp] theorem failPackage_arrays (s : State) : (failPackage s).arrays = s.arrays := rfl
@[simp] theorem failPackage_glitches (s : State) : (failPackage s).glitches = s.glitches := rfl
@[simp] theorem failPackage_served (s : State) : (failPackage s).served = s.served := rfl
@[simp] theorem failPackage_halt (s : State) : (failPackage s).halt = s.halt := rfl
@[simp] theorem failPackage_rgns (s : State) : (failPackage s).rgns = s.rgns := rfl
@[simp] theorem failPackage_engTrips (s : State) : (failPackage s).engTrips = s.engTrips := rfl
@[simp] theorem failPackage_d2d (s : State) : (failPackage s).d2d = s.d2d := rfl
@[simp] theorem failPackage_merges (s : State) : (failPackage s).merges = s.merges := rfl
@[simp] theorem failPackage_storms (s : State) : (failPackage s).storms = s.storms := rfl
@[simp] theorem failPackage_logMerged (s : State) : (failPackage s).logMerged = s.logMerged := rfl
@[simp] theorem failPackage_power (s : State) : (failPackage s).power = s.power := rfl
@[simp] theorem failPackage_sec (s : State) : (failPackage s).sec = s.sec := rfl
@[simp] theorem failPackage_part (s : State) : (failPackage s).part = s.part := rfl
@[simp] theorem failPackage_baud (s : State) : (failPackage s).baud = s.baud := rfl
@[simp] theorem failPackage_out (s : State) : (failPackage s).out = s.out := rfl

/-! ## setArr -/

@[simp] theorem setArr_pending (s : State) (p : Nat) (a : ArrSt) : (setArr s p a).pending = s.pending := rfl
@[simp] theorem setArr_free (s : State) (p : Nat) (a : ArrSt) : (setArr s p a).free = s.free := rfl
@[simp] theorem setArr_regs (s : State) (p : Nat) (a : ArrSt) : (setArr s p a).regs = s.regs := rfl
@[simp] theorem setArr_mem (s : State) (p : Nat) (a : ArrSt) : (setArr s p a).mem = s.mem := rfl
@[simp] theorem setArr_poison (s : State) (p : Nat) (a : ArrSt) : (setArr s p a).poison = s.poison := rfl
@[simp] theorem setArr_clean (s : State) (p : Nat) (a : ArrSt) : (setArr s p a).clean = s.clean := rfl
@[simp] theorem setArr_ways (s : State) (p : Nat) (a : ArrSt) : (setArr s p a).ways = s.ways := rfl
@[simp] theorem setArr_tierCtl (s : State) (p : Nat) (a : ArrSt) : (setArr s p a).tierCtl = s.tierCtl := rfl
@[simp] theorem setArr_attCtl (s : State) (p : Nat) (a : ArrSt) : (setArr s p a).attCtl = s.attCtl := rfl
@[simp] theorem setArr_attSpill (s : State) (p : Nat) (a : ArrSt) : (setArr s p a).attSpill = s.attSpill := rfl
@[simp] theorem setArr_tier (s : State) (p : Nat) (a : ArrSt) : (setArr s p a).tier = s.tier := rfl
@[simp] theorem setArr_ddrCtr (s : State) (p : Nat) (a : ArrSt) : (setArr s p a).ddrCtr = s.ddrCtr := rfl
@[simp] theorem setArr_withheld (s : State) (p : Nat) (a : ArrSt) : (setArr s p a).withheld = s.withheld := rfl
@[simp] theorem setArr_msix (s : State) (p : Nat) (a : ArrSt) : (setArr s p a).msix = s.msix := rfl
@[simp] theorem setArr_msixPend (s : State) (p : Nat) (a : ArrSt) : (setArr s p a).msixPend = s.msixPend := rfl
@[simp] theorem setArr_latches (s : State) (p : Nat) (a : ArrSt) : (setArr s p a).latches = s.latches := rfl
@[simp] theorem setArr_pcie (s : State) (p : Nat) (a : ArrSt) : (setArr s p a).pcie = s.pcie := rfl
@[simp] theorem setArr_ptm (s : State) (p : Nat) (a : ArrSt) : (setArr s p a).ptm = s.ptm := rfl
@[simp] theorem setArr_ctxs (s : State) (p : Nat) (a : ArrSt) : (setArr s p a).ctxs = s.ctxs := rfl
@[simp] theorem setArr_outs (s : State) (p : Nat) (a : ArrSt) : (setArr s p a).outs = s.outs := rfl
@[simp] theorem setArr_nextId (s : State) (p : Nat) (a : ArrSt) : (setArr s p a).nextId = s.nextId := rfl
@[simp] theorem setArr_adapters (s : State) (p : Nat) (a : ArrSt) : (setArr s p a).adapters = s.adapters := rfl
@[simp] theorem setArr_packages (s : State) (p : Nat) (a : ArrSt) : (setArr s p a).packages = s.packages := rfl
@[simp] theorem setArr_grpSeq (s : State) (p : Nat) (a : ArrSt) : (setArr s p a).grpSeq = s.grpSeq := rfl
@[simp] theorem setArr_verdicts (s : State) (p : Nat) (a : ArrSt) : (setArr s p a).verdicts = s.verdicts := rfl
@[simp] theorem setArr_abandoned (s : State) (p : Nat) (a : ArrSt) : (setArr s p a).abandoned = s.abandoned := rfl
@[simp] theorem setArr_collIn (s : State) (p : Nat) (a : ArrSt) : (setArr s p a).collIn = s.collIn := rfl
@[simp] theorem setArr_conns (s : State) (p : Nat) (a : ArrSt) : (setArr s p a).conns = s.conns := rfl
@[simp] theorem setArr_pauses (s : State) (p : Nat) (a : ArrSt) : (setArr s p a).pauses = s.pauses := rfl
@[simp] theorem setArr_glitches (s : State) (p : Nat) (a : ArrSt) : (setArr s p a).glitches = s.glitches := rfl
@[simp] theorem setArr_served (s : State) (p : Nat) (a : ArrSt) : (setArr s p a).served = s.served := rfl
@[simp] theorem setArr_halt (s : State) (p : Nat) (a : ArrSt) : (setArr s p a).halt = s.halt := rfl
@[simp] theorem setArr_rgns (s : State) (p : Nat) (a : ArrSt) : (setArr s p a).rgns = s.rgns := rfl
@[simp] theorem setArr_engTrips (s : State) (p : Nat) (a : ArrSt) : (setArr s p a).engTrips = s.engTrips := rfl
@[simp] theorem setArr_d2d (s : State) (p : Nat) (a : ArrSt) : (setArr s p a).d2d = s.d2d := rfl
@[simp] theorem setArr_merges (s : State) (p : Nat) (a : ArrSt) : (setArr s p a).merges = s.merges := rfl
@[simp] theorem setArr_storms (s : State) (p : Nat) (a : ArrSt) : (setArr s p a).storms = s.storms := rfl
@[simp] theorem setArr_logMerged (s : State) (p : Nat) (a : ArrSt) : (setArr s p a).logMerged = s.logMerged := rfl
@[simp] theorem setArr_power (s : State) (p : Nat) (a : ArrSt) : (setArr s p a).power = s.power := rfl
@[simp] theorem setArr_failed (s : State) (p : Nat) (a : ArrSt) : (setArr s p a).failed = s.failed := rfl
@[simp] theorem setArr_pins (s : State) (p : Nat) (a : ArrSt) : (setArr s p a).pins = s.pins := rfl
@[simp] theorem setArr_sec (s : State) (p : Nat) (a : ArrSt) : (setArr s p a).sec = s.sec := rfl
@[simp] theorem setArr_part (s : State) (p : Nat) (a : ArrSt) : (setArr s p a).part = s.part := rfl
@[simp] theorem setArr_baud (s : State) (p : Nat) (a : ArrSt) : (setArr s p a).baud = s.baud := rfl
@[simp] theorem setArr_out (s : State) (p : Nat) (a : ArrSt) : (setArr s p a).out = s.out := rfl

/-! ## strike -/

@[simp] theorem strike_pending (s : State) (ev : List ArrEvent) : (strike s ev).pending = s.pending := rfl
@[simp] theorem strike_free (s : State) (ev : List ArrEvent) : (strike s ev).free = s.free := rfl
@[simp] theorem strike_regs (s : State) (ev : List ArrEvent) : (strike s ev).regs = s.regs := rfl
@[simp] theorem strike_mem (s : State) (ev : List ArrEvent) : (strike s ev).mem = s.mem := rfl
@[simp] theorem strike_poison (s : State) (ev : List ArrEvent) : (strike s ev).poison = s.poison := rfl
@[simp] theorem strike_clean (s : State) (ev : List ArrEvent) : (strike s ev).clean = s.clean := rfl
@[simp] theorem strike_ways (s : State) (ev : List ArrEvent) : (strike s ev).ways = s.ways := rfl
@[simp] theorem strike_tierCtl (s : State) (ev : List ArrEvent) : (strike s ev).tierCtl = s.tierCtl := rfl
@[simp] theorem strike_attCtl (s : State) (ev : List ArrEvent) : (strike s ev).attCtl = s.attCtl := rfl
@[simp] theorem strike_attSpill (s : State) (ev : List ArrEvent) : (strike s ev).attSpill = s.attSpill := rfl
@[simp] theorem strike_tier (s : State) (ev : List ArrEvent) : (strike s ev).tier = s.tier := rfl
@[simp] theorem strike_ddrCtr (s : State) (ev : List ArrEvent) : (strike s ev).ddrCtr = s.ddrCtr := rfl
@[simp] theorem strike_withheld (s : State) (ev : List ArrEvent) : (strike s ev).withheld = s.withheld := rfl
@[simp] theorem strike_msix (s : State) (ev : List ArrEvent) : (strike s ev).msix = s.msix := rfl
@[simp] theorem strike_msixPend (s : State) (ev : List ArrEvent) : (strike s ev).msixPend = s.msixPend := rfl
@[simp] theorem strike_latches (s : State) (ev : List ArrEvent) : (strike s ev).latches = s.latches := rfl
@[simp] theorem strike_pcie (s : State) (ev : List ArrEvent) : (strike s ev).pcie = s.pcie := rfl
@[simp] theorem strike_ptm (s : State) (ev : List ArrEvent) : (strike s ev).ptm = s.ptm := rfl
@[simp] theorem strike_ctxs (s : State) (ev : List ArrEvent) : (strike s ev).ctxs = s.ctxs := rfl
@[simp] theorem strike_outs (s : State) (ev : List ArrEvent) : (strike s ev).outs = s.outs := rfl
@[simp] theorem strike_nextId (s : State) (ev : List ArrEvent) : (strike s ev).nextId = s.nextId := rfl
@[simp] theorem strike_adapters (s : State) (ev : List ArrEvent) : (strike s ev).adapters = s.adapters := rfl
@[simp] theorem strike_packages (s : State) (ev : List ArrEvent) : (strike s ev).packages = s.packages := rfl
@[simp] theorem strike_grpSeq (s : State) (ev : List ArrEvent) : (strike s ev).grpSeq = s.grpSeq := rfl
@[simp] theorem strike_verdicts (s : State) (ev : List ArrEvent) : (strike s ev).verdicts = s.verdicts := rfl
@[simp] theorem strike_abandoned (s : State) (ev : List ArrEvent) : (strike s ev).abandoned = s.abandoned := rfl
@[simp] theorem strike_collIn (s : State) (ev : List ArrEvent) : (strike s ev).collIn = s.collIn := rfl
@[simp] theorem strike_conns (s : State) (ev : List ArrEvent) : (strike s ev).conns = s.conns := rfl
@[simp] theorem strike_pauses (s : State) (ev : List ArrEvent) : (strike s ev).pauses = s.pauses := rfl
@[simp] theorem strike_arrays (s : State) (ev : List ArrEvent) : (strike s ev).arrays = s.arrays := rfl
@[simp] theorem strike_served (s : State) (ev : List ArrEvent) : (strike s ev).served = s.served := rfl
@[simp] theorem strike_halt (s : State) (ev : List ArrEvent) : (strike s ev).halt = s.halt := rfl
@[simp] theorem strike_rgns (s : State) (ev : List ArrEvent) : (strike s ev).rgns = s.rgns := rfl
@[simp] theorem strike_engTrips (s : State) (ev : List ArrEvent) : (strike s ev).engTrips = s.engTrips := rfl
@[simp] theorem strike_d2d (s : State) (ev : List ArrEvent) : (strike s ev).d2d = s.d2d := rfl
@[simp] theorem strike_merges (s : State) (ev : List ArrEvent) : (strike s ev).merges = s.merges := rfl
@[simp] theorem strike_storms (s : State) (ev : List ArrEvent) : (strike s ev).storms = s.storms := rfl
@[simp] theorem strike_logMerged (s : State) (ev : List ArrEvent) : (strike s ev).logMerged = s.logMerged := rfl
@[simp] theorem strike_power (s : State) (ev : List ArrEvent) : (strike s ev).power = s.power := rfl
@[simp] theorem strike_failed (s : State) (ev : List ArrEvent) : (strike s ev).failed = s.failed := rfl
@[simp] theorem strike_pins (s : State) (ev : List ArrEvent) : (strike s ev).pins = s.pins := rfl
@[simp] theorem strike_sec (s : State) (ev : List ArrEvent) : (strike s ev).sec = s.sec := rfl
@[simp] theorem strike_part (s : State) (ev : List ArrEvent) : (strike s ev).part = s.part := rfl
@[simp] theorem strike_baud (s : State) (ev : List ArrEvent) : (strike s ev).baud = s.baud := rfl
@[simp] theorem strike_out (s : State) (ev : List ArrEvent) : (strike s ev).out = s.out := rfl

/-! ## What the updates write -/

@[simp] theorem strike_glitches (s : State) (ev : List ArrEvent) : (strike s ev).glitches = s.glitches ++ ev := rfl
@[simp] theorem strike_nil (s : State) : strike s [] = s := by simp [strike]
@[simp] theorem withHalt_none (act : State → State) (s : State) : withHalt none act s = act s := rfl
@[simp] theorem withHalt_some (n : Nat) (act : State → State) (s : State) :
    withHalt (some n) act s = { act { s with halt := some n } with halt := none } := rfl
@[simp] theorem addOut_outs (s : State) (o : OutCmd) : (addOut s o).outs = s.outs ++ [o] := rfl
@[simp] theorem setPower_power (s : State) (p : PowerSt) : (setPower s p).power = p := rfl
@[simp] theorem emit_out (s : State) (o : Output) : (emit s o).out = s.out ++ [o] := rfl

end Sys2Proof.Laws
end

