-- ==== Sys2Proof/WellFormed.lean ====
section
/-! DEFINITION. Which commands can arrive: the shape of what comes with a row, where Syntax.lean's types say less than
the spec does. The meanings are total, and answer an ill-formed term too. -/

namespace Sys2Proof

/-- A frame's payload is a whole number of lines, 64 at most, with a header line for some types (R260). -/
def Frame.wf (f : Frame) : Bool := decide (f.lines ≤ 64) && decide (f.payload.length ≤ 65 * 64)

/-- A board has twelve DIMM channels (R351). -/
def Board.wf (b : Board) : Bool :=
  b.dimms.length == 12 && b.dimms.all fun m => decide (m.gib < 65536) && decide (1 ≤ m.ranks) && decide (m.ranks ≤ 4)

/-- Bytes that a host access reads or writes: at least one, one request's at most (R288). -/
def Bar2Access.wf : Bar2Access → Bool
  | .read len => decide (1 ≤ len) && decide (len ≤ 4096)
  | .write data => decide (1 ≤ data.length) && decide (data.length ≤ 512)

/-- A page of the paged ranges, by address / 2 MiB (R149). -/
def pageWf (p : Nat) : Bool := decide (p < 2 ^ 27)

/-- What a tier request names. -/
def TierRequest.wf : TierRequest → Bool
  | .exchange p => pageWf p
  | .peerWrite f => f.wf
  | _ => true

/-- The poisoned lines of a collective payload are lines of it, and its bytes come in whole lines (R260). -/
def CollBody.wf : CollBody → Bool
  | .shake _ => true
  | .data bs bad _ | .block bs bad _ => bs.length % 64 == 0 && decide (bs.length ≤ 63 * 64) && bad.all fun l => decide (64 * l < bs.length)

/-- A snapshot part has 8 phase maps of 32 regions, and its cells lie below 2^48 (R231, R364). -/
def SnapPart.wf (p : SnapPart) : Bool :=
  p.maps.length == 8 && (p.maps.all fun m => m.length == 32) && p.cells.all fun c => decide (c.1 < 2 ^ 48)

/-- A command can arrive. -/
def Instr.wf : Instr → Bool
  | .doorbell _ _ _ _ acc => acc.wf
  | .cancel _ _ _ _ acc => acc.wf
  | .eventHead _ _ acc => acc.wf
  | .bar4Read _ len => decide (1 ≤ len) && decide (len ≤ 4096)
  | .bar4Write _ data _ => decide (1 ≤ data.length) && decide (data.length ≤ 4096)
  | .registerWrite _ _ size _ => decide (1 ≤ size) && decide (size ≤ 4096)
  | .thermalSample dies hubs hbms => dies.length == 4 && hubs.length == 2 && hbms.length == 8
  | .coldReset b => b.wf
  | .inputLossRecovery b => b.wf
  | .slabMoveDone page _ => pageWf page
  | .tierTimeout _ req => req.wf
  | .imbalanceWindow _ bytes => decide (bytes.length ≤ 256)
  | .restoreFrom _ parts _ => parts.all SnapPart.wf
  | .read f => f.wf
  | .postedWrite f => f.wf
  | .readData f _ => f.wf
  | .writeAcknowledge f => f.wf
  | .writeFailure f _ => f.wf
  | .creditAndAcknowledge f credits => f.wf && credits.length == 5
  | .negativeAcknowledge f => f.wf
  | .hello f _ _ => f.wf
  | .collective f p => f.wf && p.body.wf
  | .abandonNotice f _ _ => f.wf
  | .stepVerdict f _ _ _ => f.wf
  | .faultReport f _ _ _ => f.wf
  | .frameDiscarded f _ => f.wf
  | .powerMeasurement w => decide (w < 65536)
  | _ => true

end Sys2Proof
end

