-- ==== Sys2Proof/Tests/Slice0.lean ====
section
/-! SUPPORT. The model's own tests: the checks of WellFormed, a state and operands for the hypotheses of every statement,
and worked values. -/

namespace Sys2Proof.Tests

open Sys2Proof Sys2Proof.Machine

set_option Elab.async false

/-! ## States that tests run in -/

/-- A state with some registers set. -/
def putRegs (s : State) (l : List (Reg × Word)) : State := l.foldl (fun s p => setReg s p.1 p.2) s

/-- A state with some values stored in memory: address, bytes, value. -/
def place (s : State) (l : List (Nat × Nat × Nat)) : State := l.foldl (fun s p => storeBytes s p.1 (leBytes p.2.1 p.2.2)) s

/-- The state after reset, booted to READY with the PCIe link up and the function enabled. -/
def up : State :=
  putRegs { State.reset with pcie := ⟨true, true, true, true, false, true, true, 0, 0, 128, 512⟩, power := { PowerSt.reset with state := .active, bCap := 16, bTherm := [16, 16, 16, 16] } }
    [(.hifStat, 1), (.clkStat, 3)]

/-- Context 0 enabled with ring 0 open on a submission ring and a completion ring of 64 entries in host memory, one
descriptor waiting, and windows on scratchpad, HBM and region SRAM. -/
def oneCtx : State :=
  putRegs { up with ctxs := [(0, { CtxSt.reset with rings := [(0, { RingSt.reset with subTail := 1 })] })] }
    [(.ctxEnabled, 1), (.ctxCxCtl 0, 3), (.ctxCxSq 0 0, 0x6800000000000), (.ctxCxCq 0 0, 0x6800000010000), (.ctxCxRing 0 0, 1),
     (.ctxCxWinBase 0 0, 0), (.ctxCxWinSize 0 0, 0x2000), (.ctxCxWinBase 0 1, 0x100000000000), (.ctxCxWinSize 0 1, 0x100),
     (.ctxCxWinBase 0 2, 0x40000000), (.ctxCxWinSize 0 2, 0x100), (.ctxCxScale 0, 0x100000000000), (.ctxCxJournal 0, 0x100000C00000),
     (.tierCxQuota 0, 100), (.schCxStat 0, 0)]

/-- Package 0 with a connection to package 1 on sub-port 0, group 0 of both, and a window on package 1's stores. -/
def peered : State :=
  setConn (putRegs oneCtx
    [(.peerStat, 0x101), (.peerCtl, 6), (.peerRoute 1, 1), (.peerGrpMem 0, 3), (.peerGrpCfg 0, 64),
     (.ctxCxWinBase 0 3, 0x410000000000), (.ctxCxWinSize 0 3, 0x10000)]) 0 1 { Conn.reset with up := true }

/-- A descriptor at SUB_HEAD of ring 0 of context 0, with TAG 7. -/
def cmd (w0 w2 w3 w4 w5 w6 w7 : Word) : Cmd := ⟨0, 0, ⟨w0, 7, w2, w3, w4, w5, w6, w7⟩⟩

/-- The descriptor of a row with every field 0. -/
def blank (op : RingOp) : Cmd := ⟨0, 0, op.blank⟩

/-- What a command leaves, seen through a function; a fallback where it does not answer a next state. -/
def after {α : Type} (c : Instr) (s : State) (none' : α) (f : State → α) : α :=
  match exec c s with
  | .next t => f t
  | _ => none'

/-- The first completion record of ring 0: TAG, then STATUS and flags (R312). -/
def record (t : State) : Nat × Nat := (readLe t 0x800000010000 4, readLe t 0x800000010004 2)

/-! ## Which commands can arrive -/

def aFrame : Frame := ⟨0, true, 1, 1, 0, 0, 0, 0x40000000, 0, 0, 0, 1, []⟩
def aBoard : Board := ⟨List.replicate 12 ⟨64, 1, true, true⟩, true, false, 5, 4⟩
def aPart : SnapPart := ⟨1, [], [], [], List.replicate 8 (List.replicate 32 0), [], []⟩

theorem test_wf_bar4_read : (Instr.bar4Read 0 64).wf = true ∧ (Instr.bar4Read 0 0).wf = false
    ∧ (Instr.bar4Read 0 4097).wf = false := by decide +kernel
theorem test_wf_bar4_write : (Instr.bar4Write 0 [1] false).wf = true ∧ (Instr.bar4Write 0 [] false).wf = false
    ∧ (Instr.bar4Write 0 (List.replicate 4097 0) false).wf = false := by decide +kernel
theorem test_wf_register_write : (Instr.registerWrite .host 0 8 0).wf = true ∧ (Instr.registerWrite .host 0 0 0).wf = false
    ∧ (Instr.registerWrite .host 0 4097 0).wf = false := by decide +kernel
theorem test_wf_thermal_sample :
    (Instr.thermalSample (List.replicate 4 50) [50, 50] (List.replicate 8 50)).wf = true
    ∧ (Instr.thermalSample [50] [50, 50] (List.replicate 8 50)).wf = false
    ∧ (Instr.thermalSample (List.replicate 4 50) [50] (List.replicate 8 50)).wf = false
    ∧ (Instr.thermalSample (List.replicate 4 50) [50, 50] [50]).wf = false := by decide +kernel
theorem test_wf_board : (Instr.coldReset aBoard).wf = true ∧ (Instr.coldReset { aBoard with dimms := [⟨64, 1, true, true⟩] }).wf = false
    ∧ (Instr.inputLossRecovery { aBoard with dimms := [] }).wf = false
    ∧ (Instr.coldReset { aBoard with dimms := List.replicate 12 ⟨65536, 1, true, true⟩ }).wf = false
    ∧ (Instr.coldReset { aBoard with dimms := List.replicate 12 ⟨64, 5, true, true⟩ }).wf = false := by decide +kernel
theorem test_wf_page : (Instr.slabMoveDone 0x8000000 0).wf = false ∧ (Instr.slabMoveDone 0x7FFFFFF 0).wf = true
    ∧ (Instr.tierTimeout 0 (.exchange 0x8000000)).wf = false ∧ (Instr.tierTimeout 0 (.exchange 0)).wf = true := by decide +kernel
theorem test_wf_imbalance : (Instr.imbalanceWindow 0 (List.replicate 257 0)).wf = false
    ∧ (Instr.imbalanceWindow 0 [1]).wf = true := by decide +kernel
theorem test_wf_snap_part : (Instr.restoreFrom (blank .restoreFrom) [aPart] false).wf = true
    ∧ (Instr.restoreFrom (blank .restoreFrom) [{ aPart with maps := [] }] false).wf = false
    ∧ (Instr.restoreFrom (blank .restoreFrom) [{ aPart with maps := List.replicate 8 [0] }] false).wf = false
    ∧ (Instr.restoreFrom (blank .restoreFrom) [{ aPart with cells := [(2 ^ 48, 0)] }] false).wf = false := by decide +kernel
theorem test_wf_frame : aFrame.wf = true ∧ (Instr.read { aFrame with lines := 65 }).wf = false
    ∧ (Instr.postedWrite { aFrame with payload := List.replicate 4161 0 }).wf = false
    ∧ (Instr.hello { aFrame with lines := 65 } 0 ⟨0, 0⟩).wf = false
    ∧ (Instr.stepVerdict { aFrame with lines := 65 } 0 0 true).wf = false ∧ (Instr.abandonNotice { aFrame with lines := 65 } 0 0).wf = false
    ∧ (Instr.faultReport { aFrame with lines := 65 } 0 0 0).wf = false ∧ (Instr.frameDiscarded { aFrame with lines := 65 } .crc).wf = false
    ∧ (Instr.creditAndAcknowledge aFrame [1]).wf = false ∧ (Instr.creditAndAcknowledge aFrame [1, 1, 1, 1, 1]).wf = true := by
  decide +kernel
theorem test_wf_bar2 : (Instr.doorbell 0 0 0 true (.write [])).wf = false ∧ (Instr.cancel 0 0 8 true (.read 0)).wf = false
    ∧ (Instr.eventHead 16 true (.write (List.replicate 513 0))).wf = false ∧ (Instr.doorbell 0 0 0 true (.read 8)).wf = true := by decide +kernel
theorem test_wf_collective : (Instr.collective aFrame ⟨0, 0, .data [1] [] true⟩).wf = false
    ∧ (Instr.collective aFrame ⟨0, 0, .data (List.replicate 64 0) [1] true⟩).wf = false
    ∧ (Instr.collective aFrame ⟨0, 0, .block (List.replicate 64 0) [0] none⟩).wf = true := by decide +kernel
theorem test_wf_power : (Instr.powerMeasurement 65536).wf = false ∧ (Instr.powerMeasurement 2400).wf = true := by decide +kernel

/-! ## The block and its stores -/

theorem witness_StepTakesTheFrontCommand : { State.reset with pending := [Instr.sendHello] }.pending = .sendHello :: [] := by
  decide +kernel
theorem witness_EmptyQueueStepTicks : (setReg up .clkStat 0).pending = [] ∧ clocksRun (setReg up .clkStat 0) = false
    ∧ up.pending = [] ∧ clocksRun up = true
    ∧ (settle { up with ptm := ⟨-5, 0⟩, sec := { up.sec with rtc := 1 } }).ptm.left ≠ 0 := by decide +kernel
theorem witness_StepKeepsTheCanonicalForm : canonical State.reset ∧ canonical oneCtx
    ∧ (match step (oneCtx.withFront (.add (blank .add))) with | .next _ => true | _ => false) = true := by decide +kernel
/-- A full battery log. -/
def fullLog : State := { up with sec := { up.sec with log := List.replicate 512 0, logCount := 512 } }
theorem witness_NoCommandClearsTheBatteryLog :
    (match exec (.tamperInput 1) fullLog with | .next _ => true | _ => false) = true
    ∧ fullLog.sec.log.length = 512 ∧ up.sec.log.length < 512 := by decide +kernel
theorem witness_RegistersStandAtTheirOffsets :
    ∀ r ∈ [Reg.arrCluStat 323, .ctxCxRing 63 15, .tierCxHmask 0, .idRgn 35, .strmSplit 11, .fltFailClu 5, .hifTb], r.inTable = true := by
  decide +kernel
theorem witness_StoredBytesReadBack :
    ∀ i, i < 3 → resolve up (0x10000000003D + i) = 0x10000000003D + i ∧ exhausted up (0x10000000003D + i) = false := by
  decide +kernel
theorem witness_PoisonMarksFollowStores :
    (∀ c ∈ [((0x400000C0 : Nat), (1 : Byte)), (0x400000FF, 2)], c.1 / 64 = 0x1000003 ∧ resolve up c.1 = c.1 ∧ exhausted up c.1 = false)
    ∧ resolve up (0x1000003 * 64) = 0x1000003 * 64 := by decide +kernel
theorem witness_DescriptorsSpellTheirCommands : RingOp.topk ≠ .distillGrad ∧ RingOp.ofDesc (blank .topk).d = some .topk
    ∧ RingOp.ofDesc (blank .distillGrad).d = some .distillStats := by decide +kernel
/-- A stream of 3 rows of 2 FP32 elements, its rows running down. -/
def aStream : Strm := ⟨0x40001000, 0, 2, [3, 2], [-64, 4]⟩
theorem witness_StreamExtentIsItsFormula : aStream.counts.length = aStream.strides.length ∧ aStream.empty = false := by
  decide +kernel
theorem witness_StreamUnitsLieInTheirExtent : aStream.counts.length = aStream.strides.length
    ∧ (0x40001000 - 128 : Int) ∈ unitAddrs (aStream.counts.zip aStream.strides).reverse aStream.base := by decide +kernel
theorem witness_ExpertFieldsKeepTheirDefaults :
    Reg.arrChkCtl.expert = true ∧ expertOn up Reg.arrChkCtl.block = false ∧ Reg.arrChkCtl.writeOnly = false := by decide +kernel

/-- R175's formula on a stream that runs down by rows: lo is 2 rows below base, hi one element above it. -/
theorem test_extent : (aStream.extent false).lo = 0x40001000 - 128 ∧ (aStream.extent false).hi = 0x40001000 + 4 + 3 := by
  decide +kernel
/-- R463: the arrays' control reads its Reset column. -/
theorem test_reset_value : readReg State.reset .arrCtl = 2 := by decide +kernel
/-- A row's words in the order of R298: class in bits 3:0 of word 0, OP in bits 7:0 of word 2 for VEC. -/
theorem test_spell : RingOp.ofDesc ⟨0x2, 0, 0x34, 0, 0, 0, 0, 0⟩ = some .topk ∧ RingOp.ofDesc ⟨0x9, 0, 0x2, 0, 0, 0, 0, 0⟩ = some .callRelease
    ∧ RingOp.ofDesc ⟨0xB, 0, 0, 0, 0, 0, 0, 0⟩ = none := by decide +kernel

/-! ## Rows of the ring processor -/

/-- A slab of a prefetch script that has not come, under the operands of a PIN of the first HBM page. -/
def staging : State := modCtx oneCtx 0 fun c => { c with stage := [⟨0x100000210000, 0x1000, 0, false⟩] }
def cPin : Cmd := cmd 0 2 0x100000200000 1 0 0 0
theorem witness_DescriptorsThatDoNotRun :
    canRead up 0 0 (blank .sum).d = false ∧ RingOp.ofDesc (blank .sum).d = some .sum ∧ RingOp.sum ≠ .amax
    ∧ (let s := modRing oneCtx 0 0 fun r => { r with cancels := [(1, 0, 0)] }
       RingOp.ofDesc (blank .sum).d = some .sum ∧ canRead s 0 0 (blank .sum).d = true
         ∧ cancelled s 0 0 (readHere s (blank .sum)).2.pos (readHere s (blank .sum)).2.d.tag = true)
    ∧ (reads oneCtx .copy (blank .copy) = true ∧ turnAtRead oneCtx (blank .copy) = true
       ∧ hasPlace (readHere oneCtx (blank .copy)).1 (readHere oneCtx (blank .copy)).2 = true
       ∧ checkCmd (readHere oneCtx (blank .copy)).1 (readHere oneCtx (blank .copy)).2 = some stBadDesc)
    ∧ (let u := (readHere staging cPin).1
       let o := (readHere staging cPin).2
       reads staging .pin cPin = true ∧ turnAtRead staging cPin = true ∧ hasPlace u o = true ∧ checkCmd u o = none
         ∧ (stageHeld (heldOf u o).1 (operandExts (heldOf u o).1 o)).any (·.failed) = false
         ∧ dataHolds (heldOf u o).1 (heldOf u o).2 = true) := by decide +kernel
/-- As `staging`, after the slab's request has failed. -/
def stageLost : State := modCtx oneCtx 0 fun c => { c with stage := [⟨0x100000210000, 0x1000, 0, true⟩] }
/-- Ring 0 in HBM holds a COPY from host memory, which the function may not reach. -/
def noHost : State :=
  putRegs { place oneCtx [(0x100000240000, 8, 0x0), (0x100000240008, 8, 7), (0x100000240018, 8, 0x40000000), (0x100000240020, 8, 0x40000040),
      (0x40000000, 64, 0x800000001000 + 2 ^ 52 + 4 * 2 ^ 64 + 4 * 2 ^ 144), (0x40000040, 64, 0x40002000 + 2 ^ 52 + 4 * 2 ^ 64 + 4 * 2 ^ 144)]
    with pcie := { oneCtx.pcie with busMaster := false } }
    [(.ctxCxSq 0 0, 0x6100000240000), (.ctxCxCq 0 0, 0x6100000250000), (.ctxCxWinBase 0 4, 0x800000000000), (.ctxCxWinSize 0 4, 0x100)]
def cHost : Cmd := cmd 0 0 0x40000000 0x40000040 0 0 0
theorem witness_DescriptorsThatDoNotRun_failed :
    (let u := (readHere stageLost cPin).1
     let o := (readHere stageLost cPin).2
     reads stageLost .pin cPin = true ∧ turnAtRead stageLost cPin = true ∧ hasPlace u o = true ∧ checkCmd u o = none
       ∧ (stageHeld (heldOf u o).1 (operandExts (heldOf u o).1 o)).any (·.failed) = true)
    ∧ (let u := (readHere noHost cHost).1
       let o := (readHere noHost cHost).2
       let h := heldOf u o
       reads noHost .copy cHost = true ∧ turnAtRead noHost cHost = true ∧ hasPlace u o = true ∧ checkCmd u o = none
         ∧ (stageHeld h.1 (operandExts h.1 o)).any (·.failed) = false ∧ dataHolds h.1 h.2 = false
         ∧ (hostBarred h.1 (planOp h.2.op h.1 h.2.ctx h.2.d)).isSome = true) := by decide +kernel

/-- R10: a descriptor with a violation of an earlier kind reports that kind. -/
theorem test_bad_desc_completes : after (.copy ⟨blank .copy, none⟩) oneCtx (0, 0) record = (0, stBadDesc + 256) := by decide +kernel

/-- PlacementCommandsSetTheirPages, VectorCommandsLandTheirResults and NormBackwardLandsItsGradients. -/
theorem witness_rows_start :
    ∀ op ∈ [RingOp.pin, .unpin, .planes, .moveRelease, .add, .mul, .axpby, .scale, .convert, .transpose, .relu, .gelu, .silu,
        .reluBwd, .geluBwd, .siluBwd, .rmsnorm, .layernorm, .rmsnormBwd, .layernormBwd, .rowmax, .expSub, .rowsum, .rowdiv],
      starts oneCtx op (blank op) = true := by decide +kernel
theorem witness_more_rows_start :
    ∀ op ∈ [RingOp.mma, .sum, .sumsq, .amax, .scaleSet, .fwd, .bwd, .bwdP, .append, .sync, .step, .admitTable,
        .restore, .restoreFrom, .assayRead, .assayClear, .assayReadClear, .ctxRead],
      starts oneCtx op (blank op) = true := by decide +kernel

/-- A stream record of 4 FP32 units 4 bytes apart (R172). -/
def streamRec (base : Nat) : Nat := base + 2 ^ 52 + 4 * 2 ^ 64 + 4 * 2 ^ 144
/-- Three stream records: a source, a destination, and a source in package 1's window. -/
def streams : State :=
  place peered [(0x40000000, 64, streamRec 0x40001000), (0x40000040, 64, streamRec 0x40002000),
    (0x40000080, 64, streamRec 0x410040001000), (0x40001000, 16, 0x0F0E0D0C0B0A09080706050403020100)]
def cCopy : Cmd := cmd 0 0 0x40000000 0x40000040 0 0 0
def cCopyRemote : Cmd := cmd 0 0 0x40000080 0x40000040 0 0 0
def cZero : Cmd := cmd 0 1 0 0x40000040 0 0 0
theorem witness_MoveCommandsRunTheirStreams :
    (∀ c ∈ [cCopy, cCopyRemote], starts streams .copy c = true
      ∧ (planStream (workState streams c) 0 (moveSrc (workCmd streams c).d) false).2.isSome = true
      ∧ (planStream (workState streams c) 0 (moveDst (workCmd streams c).d) true).2.isSome = true)
    ∧ (((planStream (workState streams cCopy) 0 0x40000000 false).2.map (remoteLines (workState streams cCopy))) = some [])
    ∧ (((planStream (workState streams cCopyRemote) 0 0x40000080 false).2.map (remoteLines (workState streams cCopyRemote)))
        = some [0x410040001000])
    ∧ starts streams .zero cZero = true ∧ (planStream (workState streams cZero) 0 0x40000040 true).2.isSome = true
    ∧ streams.halt = none ∧ (workState { streams with halt := some 0 } cCopy).halt = some 0
    ∧ starts { streams with halt := some 0 } .copy cCopy = true
    ∧ (planStream (workState streams cZero) 0 0x40000040 true).2.map movedSlabs = some 1 := by
  decide +kernel
/-- Its destination stands in a DDR frame whose counter is at its end. -/
def worn : State :=
  setTier { place streams [(0x40000040, 64, streamRec 0x100000400000)] with ddrCtr := [(3, 2 ^ 56 - 1)] } 0x800002
    { TierEntry.reset with backed := true, ddr := true, frame := 3, owner := 0 }
theorem witness_MoveCommandsRunTheirStreams_exhausted :
    starts worn .copy cCopy = true ∧ exhausted (workState worn cCopy) 0x100000400000 = true
    ∧ (planStream (workState worn cCopy) 0 0x40000000 false).2.map (remoteLines (workState worn cCopy)) = some []
    ∧ (planStream (workState worn cCopy) 0 0x40000040 true).2.map (·.addrs.head?) = some (some 0x100000400000) := by decide +kernel
/-- R178: COPY moves the bytes, in order. -/
theorem test_copy : after (.copy ⟨cCopy, none⟩) streams 0 (readLe · 0x40002000 16) = 0x0F0E0D0C0B0A09080706050403020100 := by decide +kernel

/-- One token through one tile, scratchpad to region SRAM. -/
def cMma : Cmd := cmd 1 0 0 0x1010001 0 0x10000 0x40003000
theorem witness_MmaLandsItsMembersResults :
    starts oneCtx .mma cMma = true
    ∧ ¬ (mmaT (workCmd oneCtx cMma).d = 0 ∨ mmaK (workCmd oneCtx cMma).d = 0 ∨ mmaN (workCmd oneCtx cMma).d = 0)
    ∧ (mmaT (workCmd oneCtx (blank .mma)).d = 0)
    ∧ (let d := (workCmd oneCtx cMma).d
       let u := workState oneCtx cMma
       let m := mmaDims u 0 d
       heldHit u 0 d m (memberOf u 0 d 0) = none ∧ mmaCplx d = 0) := by
  decide +kernel
/-- Array 0 holds a poisoned tile, which a HELD command uses again. -/
def heldTile : State :=
  let b : Bank := ⟨0, 0x10000, 1, 0, 3, 0, true, 64, [], true, [], [], [], []⟩
  setArr (place oneCtx [(0x100000000020, 32, 0x3)]) 0 { ArrSt.reset with active := some b, shadow := some b }
def cHeld : Cmd := cmd 1 0x20004 0x1000 0x1010001 0 0x10000 0x40003000
theorem witness_MmaLandsItsMembersResults_held : starts heldTile .mma cHeld = true ∧ mmaN (workCmd heldTile cHeld).d ≠ 0 := by
  decide +kernel
theorem witness_MmaLandsItsMembersResults_checked :
    let u := workState heldTile cHeld
    let d := (workCmd heldTile cHeld).d
    let m := mmaDims u 0 d
    (heldHit u 0 d m (memberOf u 0 d 0)).isSome = true ∧ (checkPasses u 0 d m (cmdRef (workCmd heldTile cHeld)) []).2.dead = none := by
  decide +kernel
/-- A lane of the first pass's tile that does not hold what was loaded, twice (R76, R78). -/
def twice : List ArrEvent := [.lane 0 0 0 0 0 false 1, .lane 0 0 0 0 0 true 1]
theorem witness_MmaLandsItsMembersResults_dead :
    starts (strike oneCtx twice) .mma cMma = true
    ∧ (let u := workState (strike oneCtx twice) cMma
       let d := (workCmd (strike oneCtx twice) cMma).d
       (checkPasses u 0 d (mmaDims u 0 d) 0
         (u.glitches.filter fun e => ((mmaMembers d).filterMap (arrOf u d.region)).contains e.cluster)).2.dead = some 0) := by
  decide +kernel
/-- R78: a mismatch is counted as a retry of its cluster. -/
theorem test_retry : after (.mma cMma twice) oneCtx 0 (fun t => rf t (.arrCluStat 0) 0 16) = 1 := by decide +kernel
/-- A row of 1.0 and 2.0 at 0x40000000, and a block at 0x40000100: inverse temperature 1.0, FIRST (R203). -/
def rowOf : State := place oneCtx [(0x40000000, 8, 0x400000003F800000), (0x40000100, 8, 0x10000003F800000)]
/-- VEC of 1 row by 2 columns: A, B and D as `rowOf` has them; IMM0 and IMM1 1.0. -/
def cVec (op : RingOp) : Cmd := cmd 2 (BitVec.ofNat 64 op.code.2) 0x3F80000000020001 0x3F800000 0x40000000 0x40000100 0x40003000
/-- DISTILL_GRAD of no rows, k 1, with the MODE of its block and inverse temperature 1.0; TID 0 is a gradient (R205). -/
def cDistill : Cmd := cmd 2 0x35 0x3F80000000000000 0 0 0x40000100 0
def distill (mode : Nat) : State := place oneCtx [(0x100000000000, 32, 0x400), (0x40000100, 8, 0x3F80000000000000 + mode)]
theorem witness_TopkAndDistillRunTheirPasses :
    starts rowOf .topk (cVec .topk) = true
    ∧ starts (distill 0) .distillStats cDistill = true ∧ rowMode cDistill (distill 0) ≠ 1
    ∧ starts (distill 1) .distillStats cDistill = true ∧ rowMode cDistill (distill 1) = 1
    ∧ dgMode (distillBlock (workState (distill 0) cDistill) (workCmd (distill 0) cDistill).d) ≠ 1
    ∧ dgMode (distillBlock (workState (distill 1) cDistill) (workCmd (distill 1) cDistill).d) = 1 := by decide +kernel
theorem witness_VectorResultsAreTheTables : 1 < vecCols (cVec .add).d := by decide +kernel
/-- R201: after a first block of 1.0 and 2.0, m = 2 and l = exp(-1) + 1, rounded: 0x3FAF16AC. -/
theorem test_topk : after (.topk (cVec .topk)) rowOf 0 (readLe · 0x40003000 8) = 0x3FAF16AC40000000 := by decide +kernel
/-- SUM of 1.0 and 2.0 is 3.0, SUMSQ 5.0, AMAX 2.0; ROWMAX 2.0; SCALE by 1.0 keeps the row (R103). -/
theorem test_vec : after (.sum (cVec .sum)) rowOf 0 (readLe · 0x40003000 4) = 0x40400000
    ∧ after (.sumsq (cVec .sumsq)) rowOf 0 (readLe · 0x40003000 4) = 0x40A00000
    ∧ after (.amax (cVec .amax)) rowOf 0 (readLe · 0x40003000 4) = 0x40000000
    ∧ after (.rowmax (cVec .rowmax)) rowOf 0 (readLe · 0x40003000 4) = 0x40000000
    ∧ after (.scale (cVec .scale)) rowOf 0 (readLe · 0x40003000 8) = 0x400000003F800000 := by decide +kernel

/-- Scale-table entries of a gradient (TID 0) and a master (TID 1), and a block for SGD_MOM at 0x40000200 (R225). -/
def sgd : State :=
  place oneCtx [(0x100000000000, 32, 0x400), (0x100000000020, 32, 0x600), (0x40000200, 8, 0x100000100000),
    (0x40000208, 8, 0x100000110000), (0x40000228, 8, 0x1001), (0x40000230, 4, 0x3F800000)]
/-- As `sgd`, with a second moment and an epsilon of 1.0, for ADAM. -/
def adam : State := place sgd [(0x40000210, 8, 0x100000120000), (0x40000228, 8, 0x1001001), (0x40000240, 4, 0x3F800000)]
def cOpt (op : RingOp) : Cmd := cmd 2 (BitVec.ofNat 64 op.code.2) 0x00020001 0 0x40000000 0x40000200 0
theorem witness_DeferredCommandsJournalTheirEffect :
    starts oneCtx .scaleSet (blank .scaleSet) = true ∧ starts sgd .sgdMom (cOpt .sgdMom) = true
    ∧ starts adam .adam (cOpt .adam) = true ∧ starts adam .adamw (cOpt .adamw) = true
    ∧ vecRows (workCmd oneCtx (blank .scaleSet)).d = 0
    ∧ (let u := workState sgd (cOpt .sgdMom)
       vecRows (workCmd sgd (cOpt .sgdMom)).d ≠ 0 ∧ vecCols (workCmd sgd (cOpt .sgdMom)).d ≠ 0
         ∧ (ctx u 0).journal.length < journalLen u 0 ∧ (backPages u 0 (pagesOf u (journalAddr u 0) 256)).isSome = true) := by
  decide +kernel
/-- As `sgd`, its one journal entry taken. -/
def sgdFull : State := modCtx sgd 0 fun c => { c with journal := [.flip 0] }
theorem witness_DeferredCommandsJournalTheirEffect_full :
    starts sgdFull .sgdMom (cOpt .sgdMom) = true
    ∧ journalLen (workState sgdFull (cOpt .sgdMom)) 0 ≤ (ctx (workState sgdFull (cOpt .sgdMom)) 0).journal.length := by decide +kernel
/-- R217: ADAM completes OK, and its master keeps its bytes until the step commits. -/
theorem test_deferred : after (.adam (cOpt .adam)) adam (0, 0) record = (7, 0x100)
    ∧ after (.adam (cOpt .adam)) adam 1 (readLe · 0x100000100000 8) = 0 := by decide +kernel

/-- One sequence of one token in the ragged table, a cache of one head, and two parameter blocks (R111, R118, R125). -/
def attn : State :=
  modCtx (place oneCtx
    [(0x100000200000, 8, 1), (0x100000200040, 8, 0x1000000), (0x100000000020, 32, 0x1A00),
     (0x100000300000, 8, 0x2002000000000), (0x100000300008, 8, 0xC0003F800000), (0x100000300018, 8, 0x100000400000),
     (0x100000300020, 8, 0x200000),
     (0x40000300, 16, 0x40020000 * 2 ^ 64 + 0x40010000), (0x40000400, 16, 0x40020000 * 2 ^ 64 + 0x40010000),
     (0x40000410, 16, 0x40040000 * 2 ^ 64 + 0x40030000), (0x40000420, 16, 0x40060000 * 2 ^ 64 + 0x40050000),
     (0x40000500, 16, 0x40020000 * 2 ^ 64 + 0x40010000),
     (0x40000510, 16, 0x40040000 * 2 ^ 64 + 0x40030000)]) 0 fun c => { c with ragged := some 0x100000200000 }
def cAttn (op : RingOp) (w4 opb : Word) : Cmd := cmd 3 (BitVec.ofNat 64 op.code.2) 0 w4 0x40070000 opb 0x100000300000
theorem witness_AttentionForwardAndBackwardLand :
    (∀ p ∈ [(RingOp.fwd, cAttn .fwd 0x1000000 0x40000300), (.bwd, cAttn .bwd 0x1000000 0x40000400)],
      starts attn p.1 p.2 = true ∧ atSeqs (workState attn p.2) 0 (workCmd attn p.2).d ≠ [])
    ∧ atPartial (cAttn .fwd 0x1000000 0x40000300).d = false ∧ atSaveP (cAttn .fwd 0x1000000 0x40000300).d = false
    ∧ (let s := place attn [(0x40000430, 8, 0x40080000)]
       let c := cAttn .bwdP 0x1000000 0x40000400
       starts s .bwdP c = true ∧ atSeqs (workState s c) 0 (workCmd s c).d ≠ []) := by decide +kernel
/-- FWD whose part of the sum is not the whole. -/
def cPart : Cmd := cmd 3 32 0 0x1000000 0x40070000 0x40000300 0x100000300000
theorem witness_AttentionForwardAndBackwardLand_partial :
    starts attn .fwd cPart = true ∧ atSeqs (workState attn cPart) 0 (workCmd attn cPart).d ≠ [] ∧ atPartial (workCmd attn cPart).d = true := by
  decide +kernel
theorem witness_AttentionAppendAndCombineLand :
    (∀ p ∈ [(RingOp.append, cAttn .append 0x1000000 0x40000300), (.attnCombine, cAttn .attnCombine 0x1000001000000 0x40000500)],
      starts attn p.1 p.2 = true ∧ atSeqs (workState attn p.2) 0 (workCmd attn p.2).d ≠ [])
    ∧ ∀ op ∈ [RingOp.fwd, .bwd, .bwdP, .append], starts oneCtx op (blank op) = true
        ∧ atSeqs (workState oneCtx (blank op)) 0 (workCmd oneCtx (blank op)).d = [] := by decide +kernel
theorem witness_combine_with_no_sequence :
    let s := modCtx attn 0 fun c => { c with ragged := none }
    let c := cAttn .attnCombine 0x1000001000000 0x40000500
    starts s .attnCombine c = true ∧ atSeqs (workState s c) 0 (workCmd s c).d = [] := by decide +kernel
/-- COLL of 4 elements from 0x100000500000 to 0x100000600000, within the package or with group 0. -/
def cColl (op : RingOp) (own : Bool) (aux : Word) (count : Nat) : Cmd :=
  cmd 4 (BitVec.ofNat 64 (op.code.2 + if own then 1024 else 0)) (BitVec.ofNat 64 count) 0x100000500000 0x100000600000 aux 0
/-- As `peered`, with a block of two experts at 0x100000700000 (R193) and one token. -/
def experts : State :=
  modCtx (place peered
    [(0x100000700000, 16, 0x100000720000 * 2 ^ 64 + 0x100000710000), (0x100000700010, 16, 0x100000740000 * 2 ^ 64 + 0x100000730000),
     (0x100000700020, 16, 0x1102 * 2 ^ 64 + 0x1000000), (0x100000700030, 16, 0x2000 * 2 ^ 64 + 0x1000), (0x100000720002, 2, 1),
     (0x100000200000, 8, 1), (0x100000200040, 8, 0x1000000)]) 0 fun c => { c with ragged := some 0x100000200000 }
/-- As `peered`, with a gradient for TID 0, a block for COMPRESSED (R279) and a journal. -/
def bittern : State :=
  putRegs (place peered [(0x100000000000, 32, 0x400), (0x100000700000, 16, 0x100000720000 * 2 ^ 64 + 0x100000710000),
    (0x100000700010, 8, 0x400000000)]) [(.ctxCxJournal 0, 0x1100000800000)]
/-- What each COLL row is tried on. -/
def collCases (own : Bool) : List (RingOp × State × Cmd) :=
  [(.allreduce, peered, cColl .allreduce own 0 4), (.reduceScatter, peered, cColl .reduceScatter own 0 4),
   (.allgather, peered, cColl .allgather own 0 4), (.alltoall, peered, cColl .alltoall own 0 4),
   (.dispatch, experts, cColl .dispatch own 0x100000700000 128), (.collCombine, experts, cColl .collCombine own 0x100000700000 128),
   (.compressed, bittern, cColl .compressed own 0x100000700000 4)]
theorem witness_CollectivesExchangeWithTheirGroup_alone :
    ∀ p ∈ collCases true,
      let v := workState p.2.1 p.2.2
      let o := workCmd p.2.1 p.2.2
      starts p.2.1 p.1 p.2.2 = true ∧ clMembers v o.d = [ownPkg v] ∧ collFetch v o = []
      ∧ (p.1 = .collCombine → combineLines v 0 o.d = []) := by decide +kernel
theorem witness_CollectivesExchangeWithTheirGroup :
    ∀ p ∈ collCases false,
      let v := workState p.2.1 p.2.2
      let o := workCmd p.2.1 p.2.2
      starts p.2.1 p.1 p.2.2 = true ∧ 1 < (clMembers v o.d).length ∧ collFetch v o = []
      ∧ v.abandoned.contains (0, o.seqNo) = false ∧ v.collIn = [] ∧ (∃ k ∈ clMembers v o.d, k ≠ ownPkg v) := by decide +kernel
theorem witness_CollectivesExchangeWithTheirGroup_abandoned :
    ∀ p ∈ collCases false,
      let s := { p.2.1 with abandoned := [(0, (workCmd p.2.1 p.2.2).seqNo)] }
      starts s p.1 p.2.2 = true ∧ (forgetPast (workState s p.2.2) 0).abandoned.contains (0, (workCmd s p.2.2).seqNo) = true := by
  decide +kernel
/-- A quota that leaves no page for the journal. -/
theorem witness_CollectivesExchangeWithTheirGroup_flip :
    let s := setReg bittern (.tierCxQuota 0) 1
    let c := cColl .compressed true 0x100000700000 4
    starts s .compressed c = true ∧ (journalAdd (workState s c) 0 (workCmd s c).d [] (.flip (clAux (workCmd s c).d))).isNone = true
    ∧ (journalAdd (workState bittern c) 0 (workCmd bittern c).d [] (.flip (clAux (workCmd bittern c).d))).isSome = true := by
  decide +kernel

/-- A snapshot area of 4 pages (R369); a program image of one SYNC (R303); that image registered as program 1. -/
def snapArea : State := putRegs oneCtx [(.fltCxSnapArea 0, 0x100000800000), (.fltCxSnapSize 0, 4)]
def image : State := place oneCtx [(0x100000900000, 12, 0x10000000158514750), (0x100000900040, 8, 5)]
def registered : State := modCtx image 0 fun c => { c with progs := [(1, some ⟨0x100000900000, 1, 0⟩)] }
def cCall (op : RingOp) (w3 : Word) : Cmd := cmd 9 (BitVec.ofNat 64 (op.code.2 + 4)) w3 0 0 0 0
theorem witness_RingProcessorRowsBegin :
    (∀ op ∈ [RingOp.sync, .step, .admitTable, .restore], starts oneCtx op (blank op) = true)
    ∧ starts snapArea .take (blank .take) = true ∧ starts registered .invoke (cCall .invoke 0) = true
    ∧ (progOf (workState registered (cCall .invoke 0)) 0 (callProg (workCmd registered (cCall .invoke 0)).d)).isSome = true := by
  decide +kernel
/-- A SYNC with the options of word 2. -/
def cSync (w2 : Word) : Cmd := cmd 5 w2 0x40000000 5 0 0 0
/-- A SUM read before it and not started; a posted write on its way; a remote-poisoned context. -/
def behind : State :=
  let s := modRing oneCtx 0 0 fun r => { r with subTail := 2 }
  putOut (readHere s (blank .sum)).1 { (readHere s (blank .sum)).2 with st := .queued }
def fencing : State :=
  modCtx { peered with nextId := 5 } 0 fun c => { c with posted := [⟨1, 9, 1, 0x410040000000, 0, 64⟩] }
def marked : State := setRemotePoisoned oneCtx 0 true
theorem witness_RingProcessorRowsBegin_sync :
    starts behind .sync (cSync 1) = true ∧ !(earlierOuts (workState behind (cSync 1)) (workCmd behind (cSync 1))).isEmpty
    ∧ starts fencing .sync (cSync 2) = true
    ∧ ((ctx (workState fencing (cSync 2)) 0).posted.any fun p => decide (p.stamp < (workState fencing (cSync 2)).nextId)) = true
    ∧ starts marked .sync (cSync 2) = true ∧ remotePoisoned (workState marked (cSync 2)) 0 = true
    ∧ starts oneCtx .sync (cSync 0x100) = true ∧ syWaitOp (workCmd oneCtx (cSync 0x100)).d = 2
    ∧ readLe (workState oneCtx (cSync 0x100)) 0x40000000 8 ≠ 5 := by decide +kernel
/-- A generation of one slab of region SRAM, and one of HBM that no quota lets the context take. -/
def aGen (a : Nat) : Gen := ⟨3, [(a, 0x10000)], [(a, 9)], [], List.replicate 8 (List.range 32), [], [], 0⟩
def genHeld : State := modCtx oneCtx 0 fun c => { c with newest := some (aGen 0x40000000) }
def genFar : State := modCtx (setReg oneCtx (.tierCxQuota 0) 0) 0 fun c => { c with newest := some (aGen 0x100000A00000) }
def cRestore : Cmd := cmd 7 1 3 0 0 0 0
theorem witness_RingProcessorRowsBegin_snap :
    starts oneCtx .restore cRestore = true ∧ restoreGen (abortOthers (workState oneCtx cRestore) (workCmd oneCtx cRestore)) 0 cRestore.d = none
    ∧ starts genFar .restore cRestore = true
    ∧ restoreGen (abortOthers (workState genFar cRestore) (workCmd genFar cRestore)) 0 cRestore.d = some (aGen 0x100000A00000)
    ∧ backPages (abortOthers (workState genFar cRestore) (workCmd genFar cRestore)) 0 (genPages genFar (aGen 0x100000A00000)) = none := by
  decide +kernel
theorem witness_ProgramsAreRegisteredAndReleased :
    starts image .register (cCall .register 0x100000900000) = true ∧ starts registered .callRelease (cCall .callRelease 0) = true := by
  decide +kernel
/-- R307: RELEASE frees the program's id. -/
theorem test_release : after (.callRelease (cCall .callRelease 0)) registered true (fun t => (progOf t 0 1).isSome) = false := by
  decide +kernel
/-- R219 to R223: a STEP waits for its boundary, which completes it OK and counts the step. -/
theorem test_step : after (.step (blank .step)) oneCtx [] (fun t => t.outs.map (·.st)) = [.stepFence]
    ∧ after (.stepBoundary 0 [] []) (after (.step (blank .step)) oneCtx oneCtx id) (0, 0, 0) (fun t =>
        ((reg t (.ctxCxStep 0)).toNat, record t)) = (1, 0, 0x100) := by decide +kernel

theorem witness_RestoreFromIsServedByItsSources :
    waitingRestore oneCtx (blank .restoreFrom) = none ∧ starts oneCtx .restoreFrom (blank .restoreFrom) = true
    ∧ (let s := putOut (readHere oneCtx (blank .restoreFrom)).1 { (readHere oneCtx (blank .restoreFrom)).2 with st := .peerRead }
       (waitingRestore s (blank .restoreFrom)).isSome = true)
    ∧ joinParts oneCtx 0 (blank .restoreFrom).d [] = none := by decide +kernel
theorem witness_RestoreFromIsServedByItsSources_back :
    let c := cmd 7 2 3 0 0 0 0
    let v := abortOthers (workState genHeld cRestore) (workCmd genHeld cRestore)
    starts genHeld .restore cRestore = true ∧ restoreGen v 0 (workCmd genHeld cRestore).d = some (aGen 0x40000000)
    ∧ backPages v 0 (genPages v (aGen 0x40000000)) ≠ none
    ∧ starts oneCtx .restoreFrom c = true
    ∧ (joinParts oneCtx 0 c.d [⟨3, [(0x40000000, 0x10000)], [(0x40000000, 9)], [], List.replicate 8 (List.range 32), [], []⟩]).isSome = true := by
  decide +kernel
theorem witness_TelemetryRowsWriteRecords :
    ∀ op ∈ [RingOp.assayRead, .assayClear, .assayReadClear, .ctxRead], starts oneCtx op (blank op) = true := by decide +kernel

/-! ## Scheduling, waits and steps -/

/-- Context 0 with a command read and waiting in its ring's lane. -/
def queued (s : State) (c : Cmd) (st : OutSt) : State :=
  putOut (readHere s c).1 { (readHere s c).2 with st := st }
/-- A SUM with deadline 1 in a real-time ring whose late commands are dropped, and a timebase past it. -/
def late : State :=
  setReg (queued (setReg oneCtx (.ctxCxRing 0 0) 0x7) (cmd 0x10002 0x40 0 0 0 0 0) .queued) .hifTb 5000
/-- A gang of four clusters, its first not reserved, and the other three reserved. -/
def cGang : Cmd := cmd 1 0x50 0x1000 0x1080040 0 0x40200000 0x40100000
def gangOpen : State := queued heldTile cGang .queued
def gangLast : State := { gangOpen with outs := gangOpen.outs.map fun o => { o with held := [1, 2, 3] } }
theorem witness_SchedulingEventsAct :
    (let s := queued oneCtx (blank .sum) .queued
     s.failed = false ∧ movingOn s 256 = none ∧ gangOn s 256 = none ∧ engineHeld s 256 = false
       ∧ ((arbitrate s 256).any fun o => decide ((enginesOf o.d).length ≤ 1) && startsNow s o) = true)
    ∧ (gangOpen.failed = false ∧ movingOn gangOpen 0 = none ∧ gangOn gangOpen 0 = none ∧ engineHeld gangOpen 0 = false
       ∧ ((arbitrate gangOpen 0).any fun o => decide (1 < (enginesOf o.d).length) && !(enginesOf o.d).all [0].contains) = true)
    ∧ (late.outs.any fun o => o.ctx == 0 && o.ring == 0 && o.pos == 0 && !o.missed && deadlinePassed late o && stoppable late o) = true
    ∧ hostGate oneCtx false = .serve := by decide +kernel
theorem witness_SchedulingEventsAct_gang :
    movingOn gangLast 0 = none ∧ gangOn gangLast 0 = none ∧ engineHeld gangLast 0 = false
    ∧ ((arbitrate gangLast 0).any fun o =>
        let g : OutCmd := { o with held := o.held ++ [0] }
        (enginesOf o.d).all g.held.contains && startsNow (putOut gangLast g) g) = true := by decide +kernel

/-- Array 0 in service with a launch budget of 2 and its kindling window open. -/
def launching : State := setArr (setRf up (.arrCluStat 0) 35 5 2) 0 { ArrSt.reset with window := true }
theorem witness_RampEventsMoveTheGovernor :
    cluInService launching 0 = true ∧ (arrSt launching 0).window = true ∧ budget launching 0 ≠ 0 ∧ cluFailed launching 0 = false
    ∧ kindleOn launching = true ∧ cluInService up 0 = true ∧ cluFailed up 0 = false ∧ budget up 0 = 0 := by
  decide +kernel
theorem witness_RampStepsMoveTheBudgetByOne :
    budget launching 0 ≤ 16 ∧ (match exec (.rampStep 0 false) launching with | .next _ => true | _ => false) = true
    ∧ budget (setRf up (.arrCluStat 323) 35 5 16) 323 = 16 := by decide +kernel

/-- A SYNC that waits until the 8 bytes at 0x40000000 equal 5; one that waits for them to equal 0. -/
def cWait (v : Word) : Cmd := cmd 5 0x100 0x40000000 v 0 0 0
def waiting (v : Word) : State := queued oneCtx (cWait v) .syncWait
/-- A STEP that stands at some point of its boundary. -/
def stepAt (s : State) (w2 : Word) (st : OutSt) : State := queued s (cmd 6 w2 0 0 0 0 0) st
/-- The other member's verdict has come. -/
def judged : State := stepAt { peered with verdicts := [(0, 1, 0, true)] } 0x20000 (.stepGroup 0)
theorem witness_WaitsAndStepEventsAct :
    ((waiting 0).outs.any fun o => o.ctx == 0 && o.ring == 0 && o.st == .syncWait && waitMetNow (waiting 0) o.d) = true
    ∧ ((waiting 5).outs.any fun o => o.ctx == 0 && o.ring == 0 && o.st == .syncWait && !waitMetNow (waiting 5) o.d
        && !ctxIdle (writeEvent (waiting 5) 0 (cmdEvent o 0x09 (syWaitAddr o.d))) 0) = true
    ∧ (let s := modCtx oneCtx 0 fun c => { c with disabling := true }
       (ctx s 0).disabling = true ∧ ringsDrained s 0 = true ∧ ctxIdle s 0 = false) := by decide +kernel
theorem witness_WaitsAndStepEventsAct_steps :
    (∀ p ∈ [(oneCtx, (0 : Word), false, false), (marked, 0, true, false), (peered, 0x20000, false, true)],
      (runningStep (stepAt p.1 p.2.1 .stepFence) 0).any (fun o => o.st == .stepFence && fenceDrained (stepAt p.1 p.2.1 .stepFence) o
        && spGroupEn o.d == p.2.2.2) = true ∧ remotePoisoned (stepAt p.1 p.2.1 .stepFence) 0 = p.2.2.1)
    ∧ ((runningStep judged 0).any fun o => o.st == .stepGroup 0 && verdictsIn judged o.d) = true
    ∧ ((runningStep (stepAt peered 0x20000 (.stepGroup 0)) 0).any fun o => o.st == .stepGroup 0
        && !verdictsIn (stepAt peered 0x20000 (.stepGroup 0)) o.d) = true
    ∧ ((runningStep (stepAt oneCtx 0 (.stepRebuild 1)) 0).any fun o => o.st == .stepRebuild 1) = true
    ∧ rebuildWaits (stepAt oneCtx 0 (.stepRebuild 1)) 0 = false := by decide +kernel
/-- R301: a wait that is met lets the SYNC complete OK. -/
theorem test_wait_met : after (.waitMet 0 0) (waiting 0) (0, 0) record = (7, 0x100) := by decide +kernel
/-- A context whose snapshot streams. -/
def streamed : State :=
  modCtx snapArea 0 fun c => { c with stream := some ⟨⟨3, [], [], [], [], [], [], 0⟩, [], none, 0⟩ }
theorem witness_SnapshotStreamsEnd : streamRuns streamed 0 = true ∧ (ctx streamed 0).stream ≠ none := by decide +kernel

/-! ## The host's windows -/

/-- Ring 0 coalesces over 1 us and a completion has been pending since 0; the timebase is past it. -/
def coalescing : State :=
  setReg (modRing (setReg oneCtx (.ctxCxRing 0 0) 0x10111) 0 0 fun r => { r with pend := 1 }) .hifTb 5000
theorem witness_HostEventsAct :
    hostGate oneCtx false = .serve ∧ coalesced coalescing 0 0 = true
    ∧ ringOpen oneCtx 0 0 = true ∧ rngOf (ringBase oneCtx (.ctxCxSq 0 0)) = some .host
    ∧ barOpen oneCtx = true ∧ bar4Present oneCtx = true
    ∧ (bar4Targets oneCtx (bar4Addr oneCtx 0) 64).contains .refused = false := by decide +kernel
theorem witness_TimeIsNotSteppedUnderWork :
    ptmOn up = true ∧ anyEnabled up = false ∧ ptmOn oneCtx = true ∧ anyEnabled oneCtx = true
    ∧ hostGate oneCtx true = .serve ∧ hostGate up true = .serve := by decide +kernel

/-- A context set up and locked, not yet enabled. -/
def setUp : State := putRegs oneCtx [(.ctxEnabled, 0), (.ctxCxCtl 0, 2), (.schCxStat 0, 0x200000000)]
/-- A context neither locked nor enabled. -/
def open' : State := putRegs oneCtx [(.ctxEnabled, 0), (.ctxCxCtl 0, 0), (.ctxCxRing 0 0, 0), (.schCxStat 0, 0x200000000)]
theorem witness_HostControlWritesAct :
    hostGate setUp true = .serve
    ∧ ctxEnabled (dropLatch setUp .host) 0 = false ∧ ctxIdle (dropLatch setUp .host) 0 = true
    ∧ enableFails (dropLatch setUp .host) 0 (bitOf (reg (dropLatch setUp .host) (.ctxCxCtl 0)) 1) = none
    ∧ (enableFails (dropLatch open' .host) 0 (bitOf (reg (dropLatch open' .host) (.ctxCxCtl 0)) 1)).isSome = true
    ∧ ctxEnabled (dropLatch open' .host) 0 = false ∧ ctxIdle (dropLatch open' .host) 0 = true
    ∧ hostGate oneCtx true = .serve ∧ ctxEnabled oneCtx 0 = true ∧ bitOf (reg (dropLatch oneCtx .host) (.ctxCxCtl 0)) 0 = true
    ∧ ctxEnabled open' 0 = false ∧ bitOf (reg (dropLatch open' .host) (.ctxCxCtl 0)) 1 = false
    ∧ ringEn (dropLatch open' .host) 0 0 = false
    ∧ ringConfigured (dropLatch open' .host) 0 0 = true ∧ ringBusy (dropLatch open' .host) 0 0 = false := by decide +kernel
theorem witness_HostControlWritesAct_running :
    let u := dropLatch oneCtx .host
    ringEn u 0 0 = true ∧ ctxIdle u 0 = false
    ∧ (emberTable u 0 0).isOk = true ∧ fld (0 : Word) 48 13 ≤ 4096 ∧ secState u ≠ 2 := by decide +kernel
theorem witness_HostControlWritesAct_peers :
    let u := dropLatch up .host
    hostGate up true = .serve ∧ peerConsent (expertChange u .peer 5) = true ∧ settingsBar (expertChange u .peer 5) = false := by
  decide +kernel
theorem witness_HostControlWritesAct_ember : (emberTable (dropLatch oneCtx .host) 0 0x1000100000200000).isOk = false
    ∧ fld (0x1000100000200000 : Word) 48 13 ≤ 4096 := by decide +kernel
theorem witness_WrittenResetsAct : hostGate up true = .serve ∧ secState (dropLatch up .host) ≠ 2
    ∧ clocksRun (dropLatch up .host) = true ∧ regionNumber (dropLatch up .host) 0 = some 0 := by decide +kernel

theorem witness_RegisterAccessesReachTheirRegister :
    Reg.tierCtl.inTable = true ∧ hostGate up true = .serve ∧ barOpen up = true ∧ readServed up true Reg.tierCtl.offset = true
    ∧ ((16 ≠ 4 ∧ 16 ≠ 8) ∨ (0 : BitVec 26).toNat % 16 ≠ 0) ∧ (4 : BitVec 26).toNat % 8 ≠ 0
    ∧ monitorRuns up = true ∧ secState up = 0 ∧ clocksRun up = true := by decide +kernel
/-- R465: an 8-byte write reaches the register, a 4-byte write does not, and a 4-byte read answers the low half. -/
theorem test_register_write :
    after (.registerWrite .host (BitVec.ofNat 26 Reg.tierCtl.offset) 8 0) up 9 (fun t => (readReg t .tierCtl).toNat) = 0
    ∧ after (.registerWrite .host (BitVec.ofNat 26 Reg.tierCtl.offset) 4 0) up 9 (fun t => (readReg t .tierCtl).toNat) = 6
    ∧ after (.fourByteRead .host (BitVec.ofNat 26 Reg.tierCtl.offset)) up [] (fun t => t.out) = [.barRead (some [6, 0, 0, 0]) false] := by
  decide +kernel

/-! ## Memory tiers, adapters and packages -/

theorem witness_TierEventsAct :
    ((ctx staging 0).stage.find? fun t => t.dst == 0x100000210000 && !t.failed) ≠ none
    ∧ emberEnding up (5 * pageBytes) = none
    ∧ (let s := modCtx oneCtx 0 fun c => { c with embers := [⟨0x100000200000, 1, none, some 0, true, false, 0⟩] }
       emberEnding s 0x100000200000 = some (0, ⟨0x100000200000, 1, none, some 0, true, false, 0⟩))
    ∧ ctxEnabled oneCtx 0 = true
    ∧ (List.replicate 256 0).length = (setChannels oneCtx 0).length ∧ bitOf { oneCtx with attCtl := 6 }.attCtl 2 = true := by
  decide +kernel
/-- Pages 0x800003 and 0x800004 are being exchanged: the first goes to the DDR frame of the second. -/
def exchanging' : State :=
  setTier (setTier oneCtx 0x800003 { TierEntry.reset with backed := true, state := 1, partner := some 0x800004, frame := 1 }) 0x800004
    { TierEntry.reset with backed := true, ddr := true, state := 1, partner := some 0x800003, frame := 2 }
theorem witness_TierEventsAct_exchange :
    exchangeOf exchanging' 0x800003 = some (0x800003, 0x800004) ∧ exchangeOf exchanging' 0x800004 = some (0x800003, 0x800004)
    ∧ emberEnding exchanging' (0x800003 * pageBytes) = none
    ∧ (tierAt exchanging' 0x800003).moved.toNat.testBit 0 = false ∧ smGet 0 exchanging'.ddrCtr (tierAt exchanging' 0x800004).frame ≠ 2 ^ 56 - 1
    ∧ smGet 0 { exchanging' with ddrCtr := [(2, 2 ^ 56 - 1)] }.ddrCtr 2 = 2 ^ 56 - 1
    ∧ (tierAt (setTier exchanging' 0x800003 { tierAt exchanging' 0x800003 with moved := 1 }) 0x800003).moved.toNat.testBit 0 = true := by
  decide +kernel
/-- An ember object that moves in; one that is resident and written; a cache with a pool in DDR. -/
def movingIn : State :=
  modCtx oneCtx 0 fun c => { c with
    embers := [⟨0x100000200000, 1, none, some 0, true, false, 0⟩, ⟨0x100000400000, 1, none, some 0, false, true, 0⟩]
    pools := [⟨0, 0x100000300000, 0x100000600000, 0x200000, 0x100000800000, 0x200000, []⟩] }
theorem witness_TierEventsAct_failures :
    (let s := queued streams cCopy .queued
     ((oldestMoving s 0 0).any fun o => touchesByte s o 0x40001000) = true)
    ∧ ((ctx movingIn 0).embers.find? fun o => o.addr == 0x100000200000 && o.moving) ≠ none
    ∧ ((ctx movingIn 0).embers.any fun o => o.addr == 0x100000400000 && o.resident && o.written) = true
    ∧ ((ctx movingIn 0).pools.any fun p => decide (p.ddr ≤ 0x100000800000) && decide (0x100000800000 < p.ddr + p.ddrLen)) = true
    ∧ barOpen oneCtx = true ∧ bar4Present oneCtx = true ∧ bitOf movingIn.attCtl 2 = true := by decide +kernel
/-- R164: a staged slab that comes is there: the bytes of its source stand at its destination. -/
theorem test_stage : after (.stageSlabReady 0 0x100000210000) (place staging [(0x1000, 4, 0x12345678)]) 0 (readLe · 0x100000210000 4)
    = 0x12345678 := by decide +kernel

/-- An adapter whose image awaits its rebuild; requests that wait; a package table with a load and an unload that run. -/
def adapters : State :=
  modCtx (setAdp oneCtx 5 { Adapter.reset with state := .live, rebuildDue := true }) 0 fun c =>
    { c with adpReqs := [⟨0, 1, 5, 1⟩, ⟨1, 2, 6, 1⟩], loading := [(0, 1, 0x100000400000, 64), (64, 2, 0x100000500000, 64)] }
/-- The package that the second entry names is loaded, and the context's own. -/
def packages : State := { adapters with packages := [(0, some ⟨0, 0x100000500000, 64, true, 0⟩)] }
theorem witness_AdapterAndPackageEventsAct :
    pendingReq adapters 0 1 5 = some ⟨0, 1, 5, 1⟩ ∧ pendingReq adapters 0 2 6 = some ⟨1, 2, 6, 1⟩
    ∧ passInUse adapters 5 = false ∧ (adp adapters 5).rebuildDue = true
    ∧ loadingAt adapters 0 0 1 = some (0, 1, 0x100000400000, 64) ∧ loadingAt packages 0 1 2 = some (64, 2, 0x100000500000, 64)
    ∧ (smGet none packages.packages (pkgSlot (pkgEntry packages 64))).isSome = true := by decide +kernel

/-- An IMPORT of adapter 6 under a key that is held: one attachment of rank 2 to TID 1. -/
def importing : State :=
  modCtx { place oneCtx [(0x100000000020, 32, 0x1003), (0x100000610000, 8, 1), (0x100000610040, 8, 0x20101001),
        (0x100000600000, 32, 0x20006 + 0x100000610000 * 2 ^ 64 + 0x100000620000 * 2 ^ 128 + 0x100000640000 * 2 ^ 192),
        (0x100000600020, 8, 0x100000660000)]
      with sec := { oneCtx.sec with adpKeys := [(6, some ⟨1, none, 0⟩)] } } 0
    fun c => { c with adpReqs := [⟨0x100000600000, 2, 6, 1⟩, ⟨0x100000600000, 1, 6, 1⟩] }
/-- As `importing`, its archive in host memory that the function may not reach. -/
def importFar : State :=
  putRegs { place importing [(0x100000600020, 8, 0x800000660000)] with pcie := { importing.pcie with busMaster := false } }
    [(.ctxCxWinBase 0 4, 0x800000000000), (.ctxCxWinSize 0 4, 0x100)]
/-- What an IMPORT of the entry reads and writes, as AdapterAndPackageEventsAct has it. -/
def importPlan (s : State) : Plan :=
  let n := adpEntry s 0x100000600000
  let p := adapterParams s 0 (layoutOf s (entLayout n))
  if (buildPlan s 0 n []).exts.isEmpty then buildPlan s 0 n [] else buildPlan s 0 n [ext false (entArch n) (archiveBytes p)]
/-- Whether its archive opens is Config.gcmOpen's to say, which is a free value; this header is no archive's, so it does not. -/
theorem witness_AdapterAndPackageEventsAct_import :
    pendingReq importing 0 2 6 = some ⟨0x100000600000, 2, 6, 1⟩ ∧ adpKey importing 6 = some ⟨1, none, 0⟩
    ∧ planFails importing 0 (importPlan importing) = none ∧ archBarred importing (entArch (adpEntry importing 0x100000600000)) = false
    ∧ archiveOk (fetchedBytes importing 0x100000660000 128) 6 512 = false
    ∧ planFails importFar 0 (importPlan importFar) = none ∧ archBarred importFar (entArch (adpEntry importFar 0x100000600000)) = true
    ∧ adpKey adapters 6 = none
    ∧ (planFails { importing with ctxs := adapters.ctxs } 0 (importPlan { importing with regs := [] })).isSome = true := by decide +kernel
theorem witness_AdapterAndPackageEventsAct_create :
    pendingReq importing 0 1 6 = some ⟨0x100000600000, 1, 6, 1⟩
    ∧ planFails importing 0 (buildPlan importing 0 (adpEntry importing 0x100000600000) []) = none := by decide +kernel

/-! ## Peers -/

/-- A frame of one line from package 1 on sub-port 0 for context 0, which allows that package. -/
def frame : Frame := ⟨0, true, 1, 1, 0, 0, 0, 0x40000000, 0, 9, 0, 1, List.replicate 64 7⟩
def allowed : State := putRegs peered [(.peerCxAllow 0, 2)]
def posted : State := modCtx allowed 0 fun c => { c with posted := [⟨1, 9, 1, 0x410040000000, 0, 64⟩] }
/-- A matched ALLREDUCE that waits for package 1. -/
def exchanging : State := queued peered (cColl .allreduce false 0 4) (.coll .shake)
def part : CollPart := ⟨0, 0, .data (List.replicate 64 0) [] true⟩
theorem witness_AcceptedFramesAct :
    accepts allowed frame = true
    ∧ remoteOk (received allowed frame 1) frame true frame.payload.length = true
    ∧ (backPages (received allowed frame 1) 0 (writePages (received allowed frame 1) [ext true 0x40000000 64])).isSome = true
    ∧ accepts peered frame = true ∧ remoteOk (received peered frame 1) frame true 64 = false
    ∧ accepts posted frame = true ∧ (postFor (received posted frame 3) frame).isSome = true
    ∧ (postFor (received posted frame 4) frame).isSome = true
    ∧ accepts exchanging frame = true ∧ (waitingColl exchanging 0).isSome = true ∧ (grpMembers exchanging 0)[1]? = some 1 := by
  decide +kernel
/-- A COPY that waits for read data of package 1. -/
def fetching : State :=
  modCtx (queued streams cCopyRemote .peerRead) 0 fun c =>
    { c with reads := [⟨((queued streams cCopyRemote .peerRead).outs.map (·.ident)).getD 0 0, 1, 0x410040001000, 0, 9, 64⟩] }
theorem witness_AcceptedFramesAct_read_data :
    accepts fetching frame = true
    ∧ ((ctx (received fetching frame 1) 0).reads.find? fun q => q.pkg == 1 && q.tag == 9).any (fun q =>
        (findOut (modCtx (received fetching frame 1) 0 fun c => { c with reads := [] }) q.ident).isSome) = true := by decide +kernel
/-- A COLL whose data goes out, with no posted write: a failure is its. -/
theorem witness_AcceptedFramesAct_failures :
    (let s := exchanging
     let f := { frame with tag := 7 }
     accepts s f = true ∧ (postFor (received s f 1) f).isNone = true ∧ (collFor (received s f 1) f).isSome = true)
    ∧ (accepts allowed frame = true ∧ (postFor (received allowed frame 1) frame).isNone = true
      ∧ (collFor (received allowed frame 1) frame).isNone = true) := by decide +kernel
/-- A REDUCE_SCATTER of both packages with its own block out; the last block of the other, and one before it. -/
def reducing : State := queued allowed (cColl .reduceScatter false 0 4) (.coll .blocks)
def lastBlock : CollPart :=
  ⟨0, BitVec.ofNat 32 (workCmd allowed (cColl .reduceScatter false 0 4)).seqNo, .block (List.replicate 64 0) [] (some ⟨2, 0, 0, 0, none, false⟩)⟩
def firstBlock : CollPart := { lastBlock with body := .block (List.replicate 64 0) [] none }
theorem witness_AcceptedFramesAct_collective :
    (let u := received allowed frame 0
     (grpMembers u 0).contains 1 = true ∧ (1 : Nat) ≠ ownPkg u ∧ collAllowed u frame 0 = true
       ∧ waitingColl (forgetPast { countBad u 0 with collIn := [(1, part)] } 0) 0 = none)
    ∧ (let u := received peered frame 0
       (grpMembers u 0).contains 1 = true ∧ collAllowed u frame 0 = false)
    ∧ (∀ p ∈ [(lastBlock, true), (firstBlock, false)],
       let u := received reducing frame 0
       let w := forgetPast { countBad u 0 with collIn := u.collIn ++ [(1, p.1)] } 0
       accepts reducing frame = true ∧ collAllowed u frame 0 = true
         ∧ (waitingColl w 0).any (fun o => o.st == .coll .blocks && (findOut w o.ident == some o)
             && RingOp.ofDesc o.d == some .reduceScatter && decide (1 < (clMembers w o.d).length)
             && ((clPeers w o.d).all fun q => (blockOf (bodiesFrom w 0 o.seqNo q)).isSome) == p.2) = true) := by decide +kernel
/-- R267, R268: a write that is allowed stores its bytes; one that is not stores nothing. -/
theorem test_posted_write : after (.postedWrite frame) allowed 0 (readLe · 0x40000000 4) = 0x07070707
    ∧ after (.postedWrite frame) peered 1 (readLe · 0x40000000 4) = 0 := by decide +kernel
theorem witness_LinkEventsAct :
    acceptsControl peered frame = true ∧ subUp peered 0 = true ∧ frame.crcOk = true ∧ frame.version = 1
    ∧ (0 : Byte).toNat = rf peered .peerId 8 8 ∧ frame.src.val ≠ ownPkg peered
    ∧ ({ frame with src := 0 } : Frame).src.val = ownPkg peered
    ∧ peerEn peered = true ∧ peerConsent peered = true ∧ subExists peered 0 = true
    ∧ (conn peered 0 1).up = true := by decide +kernel
theorem witness_LostPeersFailTheirWork :
    ((ctx posted 0).posted.find? fun p => p.tag == (9 : Word32).toNat) = some ⟨1, 9, 1, 0x410040000000, 0, 64⟩
    ∧ peerConsent exchanging = true ∧ (1 : Nat) ≠ ownPkg exchanging ∧ (grpMembers exchanging 0).contains 1 = true
    ∧ (collNumbered exchanging 0 (workCmd peered (cColl .allreduce false 0 4)).seqNo).isSome = true
    ∧ collNumbered peered 0 1 = none ∧ cnt32 1 (smGet 0 peered.grpSeq 0) < 2 ^ 31 ∧ peered.abandoned.contains (0, 1) = false
    ∧ routeMask peered 1 ≠ 0 := by decide +kernel

/-! ## Faults, spares and boot -/

/-- A merged report at the package aggregator; a recurring fault whose records are held. -/
def merging : State := { up with merges := smSet [] up.merges 42 [⟨0x58, 1, 0, none, 0, 0, 0, [], 0, 0⟩] }
def storming : State := { up with storms := [⟨0x10, 5, 3, 0, true, [⟨0x10, 0, 5, none, 0, 0, 0, [], 0, 0⟩]⟩] }
theorem witness_FaultEventsAct :
    smGet [] merging.merges (aggIndex .package) ≠ []
    ∧ (storeSource up .sram (resolve up 0x40000040 / 64 * 64)).isSome = true ∧ up.failed = false
    ∧ (d2dOf up 14).down = false ∧ (stormOf storming 0x10 5).holding = true := by decide +kernel
/-- Cluster 0 and region 0 have failed, and spares of both work; a DDR page whose first slab is coded. -/
def clusterDown : State := setRf up (.arrCluStat 0) 24 1 1
def regionDown : State := setRf up (.idRgn 0) 0 1 0
def coded : State := setTier up 0x800003 { TierEntry.reset with backed := true, ddr := true, frame := 2, coded := 1 }
theorem witness_FaultEventsAct_spares :
    cluFailed clusterDown 0 = true ∧ cluInService clusterDown 0 = true ∧ rgnWorking clusterDown 0 = true ∧ spareCluster clusterDown 0 = some 8
    ∧ rgnWorking regionDown 0 = false ∧ regionNumber regionDown 0 = some 0 ∧ dieSpare regionDown 0 = some 8 := by decide +kernel
theorem witness_FaultEventsAct_stores :
    (storeSource coded .ddr (resolve coded 0x100000600000 / 64 * 64)).isSome = true ∧ slabCoded coded 0x100000600000 = true
    ∧ (let s := setTier up 0x800003 { TierEntry.reset with backed := true }
       (storeSource s .hbm (resolve s 0x100000600000 / 64 * 64)).isSome = true)
    ∧ decodeSlab 0 [] = none
    ∧ rngOf (0x800000001000 : Addr).toNat = some .host := by decide +kernel
/-- Runs of 64 zeros. -/
theorem runBytes_zeros : ∀ (m : Nat) (last : Option Byte),
    runBytes m last (List.replicate m 0x7F) = some (List.replicate (64 * m) 0)
  | 0, _ => rfl
  | m + 1, last => by
    have ih := runBytes_zeros m (some 0)
    have h : List.replicate (64 * (m + 1)) (0 : Byte) = List.replicate 64 0 ++ List.replicate (64 * m) 0 := by
      rw [List.replicate_append_replicate]; congr 1; omega
    rw [List.replicate_succ, h]
    simp only [runBytes]
    exact congrArg (Option.map (List.replicate 64 (0 : Byte) ++ ·)) ih
theorem decodeSlab_zeros (m : Nat) (hdr : List Byte) (hm : 64 * m = slabBytes) (h4 : hdr.length = 4) (hn : leNat hdr = m) :
    decodeSlab 0 (hdr ++ List.replicate m 0x7F) = some (List.replicate (64 * m) 0) := by
  have h := runBytes_zeros m none
  simp [decodeSlab, h4, hn, hm, unpack] at h ⊢
  exact h
/-- R153: 1,024 runs of 64 zeros are a slab of zeros. -/
theorem test_coded_zeros : decodeSlab 0 ([0, 4, 0, 0] ++ List.replicate 1024 0x7F) = some (List.replicate (64 * 1024) 0) :=
  decodeSlab_zeros 1024 [0, 4, 0, 0] rfl rfl (by decide)
/-- R353: an uncorrectable line is poisoned. -/
theorem test_patrol : after (.patrolRead .sram 0x40000040 .uncorrectable) up false (poisoned · 0x40000040) = true
    ∧ after (.patrolRead .sram 0x40000040 .corrected) up true (poisoned · 0x40000040) = false := by decide +kernel

/-- Off: the always-on domain runs on its cell. -/
def off : State := { up with power := { up.power with state := .off } }
theorem witness_ResetsHaveTheirCauses :
    onCell off = true ∧ up.pcie.linkUp = true ∧ secState up ≠ 2 ∧ clocksRun up = true
    ∧ coldAllowed up = true ∧ coldAllowed { up with pins := { up.pins with sysThermtripN := false }
                                                    power := { up.power with hot := 95 } } = false := by decide +kernel
/-- The package after its stages and before READY. -/
def booting : State := setReg up .hifStat 0
theorem witness_BootAndConfigurationAct :
    up.power.state ≠ .off ∧ isUp booting = false ∧ clocksRun booting = true ∧ up.pcie.linkUp = true ∧ clocksRun up = true := by
  decide +kernel
/-- R429, R455: READY raises SYS_READY; PERST# makes the package boot again. -/
theorem test_ready : after .ready booting false (fun t => isUp t && t.pins.sysReady) = true := by decide +kernel

/-! ## Power and temperature -/

theorem witness_SupplyEventsAct : powered up = true ∧ onCell up = false ∧ clocksRun up = true ∧ powered off = false := by decide +kernel
theorem witness_CapKeepsBetweenTwoAndSixteen :
    powered up = true ∧ 2 ≤ up.power.bCap ∧ up.power.bCap ≤ 16
    ∧ (match exec (.powerMeasurement 2401) up with | .next _ => true | _ => false) = true
    ∧ up.power.inputLow = false ∧ rf up .pwrCap 0 12 < 2401 ∧ 100 * 2327 < 97 * rf up .pwrCap 0 12
    ∧ (let s := { up with power := { up.power with inputLow := true, bCap := 2 } }
       powered s = true ∧ s.power.inputLow = true ∧ 2 ≤ s.power.bCap) := by decide +kernel
/-- R423: with the default cap of 2,400 W, 2,401 W lowers b_cap by 1, 2,328 W (97 %) leaves it. -/
theorem test_cap : after (.powerMeasurement 2401) up 0 (·.power.bCap) = 15
    ∧ after (.powerMeasurement 2328) { up with power := { up.power with bCap := 9 } } 0 (·.power.bCap) = 9
    ∧ after (.powerMeasurement 2327) { up with power := { up.power with bCap := 9 } } 0 (·.power.bCap) = 10 := by decide +kernel

/-! ## Security -/

/-- A tenancy; a change to OPEN that runs; a session of the tenant, and one that is not the tenant's. -/
def tenancy : State :=
  { setReg up .secStat 0x2001 with
    sec := { up.sec with policy := 0x5, sessions := [⟨1, true⟩, ⟨2, false⟩], nextSession := 3, ideSecure := [true, false, false] } }
def changing : State := { setReg up .secStat 0x2002 with sec := { up.sec with target := some 0, sessions := [⟨1, false⟩] } }
def sessionUp : State := { up with sec := { up.sec with sessions := [⟨1, false⟩], nextSession := 2 } }
theorem witness_AlarmsAndTenantChangesAct :
    onCell up = false ∧ onCell off = true ∧ secState up ≠ 2 ∧ changing.sec.target = some 0 ∧ secState changing = 2
    ∧ clocksRun changing = true ∧ hostGate up true = .serve := by decide +kernel
theorem witness_AttestationAnswers :
    doeOpen up = true ∧ up.sec.sessions.length < 2 ∧ 2 ≤ tenancy.sec.sessions.length ∧ sessionOf tenancy 1 = some ⟨1, true⟩
    ∧ doeOpen tenancy = true := by decide +kernel
theorem witness_KeyProtocolMessagesAct :
    doeOpen tenancy = true ∧ sessionOf tenancy 1 = some ⟨1, true⟩ ∧ sessionOf tenancy 2 = some ⟨2, false⟩ ∧ secState tenancy = 1
    ∧ setKeyOf tenancy 5 = none ∧ tenancy.sec.setKeys.length < 64 ∧ adpKey tenancy 3 = none ∧ policyBit tenancy 2 = true
    ∧ doeOpen changing = true ∧ sessionOf changing 1 = some ⟨1, false⟩ ∧ secState changing = 2
    ∧ doeOpen sessionUp = true ∧ sessionOf sessionUp 1 = some ⟨1, false⟩ ∧ secState sessionUp = 0
    ∧ policyOk 0x9 = true ∧ policyOk 0x8 = false := by decide +kernel
/-- R394: a second key for one slot is refused, and END_TENANCY starts the change. -/
theorem test_end_tenancy : after (.endTenancy 1) tenancy 9 secState = 2 ∧ after (.endTenancy 2) tenancy 9 secState = 1 := by
  decide +kernel
/-- A full store of set keys, and an adapter whose key is stored. -/
def keyed : State :=
  { tenancy with sec := { tenancy.sec with setKeys := (List.range 64).map fun i => (BitVec.ofNat 64 i, 0), adpKeys := [(3, some ⟨1, none, 0⟩)] } }
theorem witness_KeyProtocolMessagesAct_stores :
    64 ≤ keyed.sec.setKeys.length ∧ setKeyOf keyed 99 = none ∧ (setKeyOf keyed 5).isSome = true ∧ (adpKey keyed 3).isSome = true
    ∧ policyBit changing 2 = false ∧ 2 ≤ (2 : Byte).toNat := by decide +kernel
theorem witness_InterfaceMessagesAct :
    doeOpen tenancy = true ∧ sessionOf tenancy 1 = some ⟨1, true⟩
    ∧ secState tenancy = 1 ∧ tdispState tenancy = 0 ∧ anyEnabled tenancy = false ∧ tenancy.sec.ideSecure.any id = true := by
  decide +kernel
/-- R400: LOCK and START take the interface to RUN, and losing the secure stream takes it to ERROR. -/
theorem test_tdisp :
    after (.startInterface 1) (after (.lockInterface 1) tenancy tenancy id) 9 tdispState = 2
    ∧ after (.ideStreamInsecure 0) (after (.lockInterface 1) tenancy tenancy id) 9 tdispState = 3 := by decide +kernel

/-! ## Management and the monitor -/

theorem witness_ManagementBusAnswers : up.power.state ≠ .off ∧ clustersFailed up < 256
    ∧ { up with pins := { up.pins with smbAlertN := false } }.pins.smbAlertN = false := by decide +kernel
/-- 324 failed clusters do not fit in a byte. -/
theorem witness_ManagementBusAnswers_many :
    let s := putRegs up ((List.range 6).map fun i => (Reg.fltFailClu i, (-1 : Word)))
    s.power.state ≠ .off ∧ 256 ≤ (List.range 6).foldl (fun n i => n + popCount (reg s (.fltFailClu i)).toNat 64) 0 := by decide +kernel
theorem witness_MonitorAnswers_failures :
    (4 : BitVec 26).toNat % 8 ≠ 0 ∧ inSec (4 : BitVec 26).toNat = false
    ∧ (bar4Targets up (0x3FFFFFF0 : Addr).toNat 256).contains .refused = true
    ∧ anyPoison (setPoison up 0x40000000 true) 0x40000000 256 = true
    ∧ (bar4Targets (setPoison up 0x40000000 true) 0x40000000 256).contains .refused = false := by decide +kernel
theorem witness_MonitorAnswers :
    clocksRun up = true ∧ secState up = 0 ∧ (8 : BitVec 26).toNat % 8 = 0 ∧ inSec (0x800000 : BitVec 26).toNat = true
    ∧ inSec (8 : BitVec 26).toNat = false ∧ (bar4Targets up (0x40000000 : Addr).toNat 256).contains .refused = false
    ∧ anyPoison up (0x40000000 : Addr).toNat 256 = false ∧ clocksRun tenancy = true ∧ secState tenancy ≠ 0 := by decide +kernel
/-- R457: at 25 °C in OPEN and READY with nothing failed, READ_STATUS answers 1, and READ_POWER_CAP the 2,400 W of reset. -/
theorem test_smbus : after .smbReadStatus up [] (·.out) = [.smbus [1]] ∧ after .smbReadPowerCap up [] (·.out) = [.smbus [2400]] := by
  decide +kernel
/-- R460: REGR answers the register in OPEN and LOCKED in a tenancy. -/
theorem test_monitor :
    after (.regr (BitVec.ofNat 26 Reg.tierCtl.offset)) up [] (·.out) = [.monitor none [6]]
    ∧ after (.regr (BitVec.ofNat 26 Reg.tierCtl.offset)) tenancy [] (·.out) = [.monitor (some "LOCKED") []] := by decide +kernel

/-! ## Frames -/

theorem witness_AnswersChangeNothingElse : (match exec .help up with | .next _ => true | _ => false) = true := by decide +kernel
theorem witness_ResultsChangeOnlyTheirCells :
    let o := outBytes 0x40003000 [1, 2, 3, 4] false
    (0 : Nat) < 64 ∧ (∀ c ∈ o.cells, resolve oneCtx c.1 ≠ resolve oneCtx 0x40003004)
    ∧ (∀ i, i < 4 → resolve oneCtx (entryAddr oneCtx 0 4095 + 8 + i) ≠ resolve oneCtx 0x40003004) := by decide +kernel
theorem witness_CompletionRecordsAreWritten :
    let o := (readHere oneCtx (blank .sum)).2
    o.parent = none ∧ o.ctx < 64 ∧ o.ring < 16
    ∧ (backPages (markOutcome (dropOut oneCtx o.ident) o 0) 0 (pagesOf oneCtx 0x800000010000 16)).isSome = true
    ∧ ∀ i, i < 16 → resolve oneCtx (0x800000010000 + i) = 0x800000010000 + i ∧ exhausted oneCtx (0x800000010000 + i) = false := by
  decide +kernel
/-- A completion ring in HBM that no quota lets the context take. -/
theorem witness_CompletionRecordsAreWritten_lost :
    let s := putRegs oneCtx [(.ctxCxCq 0 0, 0x6100000250000), (.tierCxQuota 0, 0)]
    let o := (readHere s (blank .sum)).2
    (backPages (markOutcome (dropOut s o.ident) o 0) 0 (pagesOf s 0x100000250000 16)).isNone = true := by decide +kernel

end Sys2Proof.Tests
end

/-! ## Scope (spec/00_scope.md): registers of expert level, violations in order, and descriptors that do not run -/

section
namespace Sys2Proof.Proofs
open Sys2Proof.Machine

/-! ## Registers of expert level (R8) -/

/-- R8, reading. -/
theorem reg_of_expert_off {s : State} {r : Reg} (he : r.expert = true) (hoff : expertOn s r.block = false) :
    reg s r = r.resetVal := by
  simp only [reg, he, hoff, Bool.not_false, Bool.and_self, if_true]

/-- R8, writing; a write-only register has its own rule. -/
theorem writeReg_of_expert_off {s : State} {r : Reg} (src : Source) (v : Word) (he : r.expert = true)
    (hoff : expertOn s r.block = false) (hw : r.writeOnly = false) : writeReg s src r v = s := by
  simp only [writeReg, hw, he, hoff, Bool.not_false, Bool.and_self, if_true, Bool.false_eq_true, if_false, ite_self]

/-- Settles O14: an expert register that is readable takes the branch of R8 in `reg` and in `writeReg`. -/
theorem expertFieldsKeepTheirDefaults : Obligations.ExpertFieldsKeepTheirDefaults :=
  fun _ src _ v he hoff hw => ⟨reg_of_expert_off he hoff, writeReg_of_expert_off src v he hoff hw⟩

/-! ## The order of violations (R10) -/

/-- The chain of tests in `chooseViolation` is a search of the four codes in their order. -/
theorem chooseViolation_eq_find? (v : List Nat) :
    chooseViolation v = [stBadDesc, stUnsupported, stBounds, stQuota].find? v.contains := by
  simp only [chooseViolation, List.find?_cons, List.find?_nil]
  cases v.contains stBadDesc
  · cases v.contains stUnsupported
    · cases v.contains stBounds
      · cases v.contains stQuota <;> rfl
      · rfl
    · rfl
  · rfl

/-- Settles O15: the first code that a search finds is the head of the codes that it keeps. -/
theorem violationsAreReportedInOrder : Obligations.ViolationsAreReportedInOrder := fun v => by
  rw [chooseViolation_eq_find?, List.head?_filter]

/-! ## A row of the ring processor reads one descriptor (R295) -/

theorem strike_nil (s : State) : strike s [] = s := by
  simp only [strike, List.append_nil]

theorem ringRowWith_nil (op : RingOp) (run : State → OutCmd → State) (c : Cmd) (s : State) :
    ringRowWith op run [] c s = ringRow op run c s := by
  simp only [ringRowWith, strike_nil, ringRow]

/-- The effect of the row of an operation: that of the operation, where `failsAt` says which slab a RESTORE fails to read. -/
def rowRun (failsAt : Option Nat) : RingOp → State → OutCmd → State
  | .restore => runRestore failsAt
  | op => runOp op

theorem exec_mma_nil (failsAt : Option Nat) (c : Cmd) (s : State) :
    exec (.mma c []) s = .next (ringRow .mma (rowRun failsAt .mma) c s) :=
  congrArg Host.Outcome.next (ringRowWith_nil .mma runMma c s)

theorem exec_invoke_nil (failsAt : Option Nat) (c : Cmd) (s : State) :
    exec (.invoke ⟨c, []⟩) s = .next (ringRow .invoke (rowRun failsAt .invoke) c s) :=
  congrArg Host.Outcome.next (ringRowWith_nil .invoke runInvoke c s)

/-- Every row of `ringRows` is one use of `ringRow`: by `strike_nil` where arrays could be struck, by its arm elsewhere. -/
theorem exec_ringRows (failsAt : Option Nat) : ∀ p ∈ ringRows failsAt, ∀ (c : Cmd) (s : State),
    exec (p.2 c) s = .next (ringRow p.1 (rowRun failsAt p.1) c s) := by
  simp only [ringRows, List.cons_append, List.nil_append, List.forall_mem_cons, exec_mma_nil failsAt, exec_invoke_nil failsAt,
    implies_true, true_and, List.not_mem_nil, false_imp_iff, and_true]
  and_intros
  all_goals intros
  all_goals rfl

section RingRow
variable {op : RingOp} {run : State → OutCmd → State} {c : Cmd} {s : State}

theorem ringRow_of_cannotRead (hr : canRead s c.ctx c.ring c.d = false) : ringRow op run c s = s := by
  simp only [ringRow, hr, Bool.and_false, Bool.false_eq_true, if_false]

theorem ringRow_of_otherCommand {q : RingOp} (hd : RingOp.ofDesc c.d = some q) (hq : q ≠ op) : ringRow op run c s = s := by
  simp only [ringRow, spells, hd, beq_false_of_ne hq, Bool.false_and, Bool.false_eq_true, if_false]

theorem ringRow_of_canRead (hd : RingOp.ofDesc c.d = some op) (hr : canRead s c.ctx c.ring c.d = true) :
    ringRow op run c s = settle (readCmd run s c.ctx c.ring c.d) := by
  simp only [ringRow, spells, hd, hr, beq_self_eq_true, Bool.and_self, if_true]

end RingRow

/-- The command as it joins the outstanding ones stands where it was read. -/
@[simp] theorem takeCmd_pos (s : State) (x n : Nat) (d : Desc) : (takeCmd s x n d).2.pos = (freshCmd s x n d).pos := rfl

/-- The command as it joins the outstanding ones has the descriptor as translated. -/
@[simp] theorem takeCmd_d (s : State) (x n : Nat) (d : Desc) : (takeCmd s x n d).2.d = (freshCmd s x n d).d := rfl

/-- A cancel word covers the command that a ring row reads (R297). -/
def cancelledHere (s : State) (c : Cmd) : Bool :=
  cancelled s c.ctx c.ring (readHere s c).2.pos (readHere s c).2.d.tag

theorem readCmd_of_cancelled {s : State} {c : Cmd} (run : State → OutCmd → State) (hx : cancelledHere s c = true) :
    readCmd run s c.ctx c.ring c.d = endCommand (readHere s c).1 (readHere s c).2 stCancelled := by
  simp only [cancelledHere, readHere, takeCmd_pos, takeCmd_d] at hx
  simp only [readCmd, readHere, hx, if_true]

theorem readCmd_of_notCancelled {s : State} {c : Cmd} (run : State → OutCmd → State) (hx : cancelledHere s c = false) :
    readCmd run s c.ctx c.ring c.d = accept run (readHere s c).1 (readHere s c).2 := by
  simp only [cancelledHere, readHere, takeCmd_pos, takeCmd_d] at hx
  simp only [readCmd, readHere, hx, Bool.false_eq_true, if_false]

theorem reads_iff {s : State} {op : RingOp} {c : Cmd} : reads s op c = true ↔
    RingOp.ofDesc c.d = some op ∧ canRead s c.ctx c.ring c.d = true ∧ cancelledHere s c = false := by
  simp only [reads, cancelledHere, Bool.and_eq_true, beq_iff_eq, Bool.not_eq_true', and_assoc]

/-! ## A command whose turn it is (R295, R299, R329, R331) -/

theorem accept_of_turnAtRead {s : State} {c : Cmd} (run : State → OutCmd → State) (ht : turnAtRead s c = true) :
    accept run (readHere s c).1 (readHere s c).2 = attempt run (readHere s c).1 (readHere s c).2 := by
  simp only [turnAtRead, Bool.and_eq_true, Bool.not_eq_true'] at ht
  obtain ⟨hlate, hchoice⟩ := ht
  simp only [accept, hlate, hchoice, Bool.false_and, Bool.false_eq_true, if_false]

/-- A row whose command is read, and whose turn it is as it is read, attempts the command. -/
theorem ringRow_of_turn {s : State} {op : RingOp} {c : Cmd} (run : State → OutCmd → State) (hr : reads s op c = true)
    (ht : turnAtRead s c = true) : ringRow op run c s = settle (attempt run (readHere s c).1 (readHere s c).2) := by
  obtain ⟨hd, hcan, hx⟩ := reads_iff.mp hr
  rw [ringRow_of_canRead hd hcan, readCmd_of_notCancelled run hx, accept_of_turnAtRead run ht]

/-! ## The checks and holds of a command that has its place (R10, R141, R165, R254) -/

/-- A staging slab under the command's operands has failed. -/
def stagingFailed (s : State) (o : OutCmd) : Bool :=
  (stageHeld (heldOf s o).1 (operandExts (heldOf s o).1 o)).any (·.failed)

section Attempt
variable {s : State} {o : OutCmd} (run : State → OutCmd → State)

theorem holds_of_hasPlace (hp : hasPlace s o = true) : (orderHolds s o || windowHolds s o) = false := by
  simpa only [hasPlace, ← Bool.not_or, Bool.not_eq_true'] using hp

theorem attempt_of_checkFails {v : Nat} (hp : hasPlace s o = true) (hv : checkCmd s o = some v) :
    attempt run s o = refuseCmd s o v := by
  simp only [attempt, holds_of_hasPlace hp, hv, Bool.false_eq_true, if_false]

theorem attempt_of_checksPass (hp : hasPlace s o = true) (hc : checkCmd s o = none) : attempt run s o =
    if stagingFailed s o then endCommand (heldOf s o).1 (heldOf s o).2 stTierFail
    else if dataHolds (heldOf s o).1 (heldOf s o).2 then (heldOf s o).1
    else startCmd run (heldOf s o).1 (heldOf s o).2 := by
  simp only [attempt, holds_of_hasPlace hp, hc, Bool.false_eq_true, if_false]
  rfl

theorem attempt_of_stagingFailed (hp : hasPlace s o = true) (hc : checkCmd s o = none) (hf : stagingFailed s o = true) :
    attempt run s o = endCommand (heldOf s o).1 (heldOf s o).2 stTierFail := by
  simp only [attempt_of_checksPass run hp hc, hf, if_true]

theorem attempt_of_dataHolds (hp : hasPlace s o = true) (hc : checkCmd s o = none) (hf : stagingFailed s o = false)
    (hd : dataHolds (heldOf s o).1 (heldOf s o).2 = true) : attempt run s o = (heldOf s o).1 := by
  simp only [attempt_of_checksPass run hp hc, hf, hd, Bool.false_eq_true, if_false, if_true]

/-- With its data at hand a command is started. -/
theorem attempt_of_dataReady (hp : hasPlace s o = true) (hc : checkCmd s o = none) (hf : stagingFailed s o = false)
    (hd : dataHolds (heldOf s o).1 (heldOf s o).2 = false) :
    attempt run s o = startCmd run (heldOf s o).1 (heldOf s o).2 := by
  simp only [attempt_of_checksPass run hp hc, hf, hd, Bool.false_eq_true, if_false]

/-- A start that needs host memory out of reach is the command's failure (R141). -/
theorem startCmd_of_hostBarred {a : Nat} (ha : hostBarred s (planOp o.op s o.ctx o.d) = some a) :
    startCmd run s o = endCommand (requestFails s o.ctx a (cmdRef o)) o stTierFail := by
  simp only [startCmd, ha]

end Attempt

/-- Settles O16: every row is one `ringRow`, whose equations by reading, cancelling, checks and holds are the clauses. -/
theorem descriptorsThatDoNotRun : Obligations.DescriptorsThatDoNotRun := by
  intro failsAt p hp c s u o h stuck
  rw [exec_ringRows failsAt p hp c s]
  refine ⟨fun hr => ?unread, fun q hd hq => ?other, fun hd hr hx => ?cancelled, fun hr ht hplace => ?turn⟩
  case unread => rw [ringRow_of_cannotRead hr]
  case other => rw [ringRow_of_otherCommand hd hq]
  case cancelled => rw [ringRow_of_canRead hd hr, readCmd_of_cancelled _ hx]
  case turn =>
    rw [ringRow_of_turn _ hr ht]
    refine ⟨fun v hv => ?refused, fun hc hf => ?stagingFailed, fun hc hf hd => ?held, fun a hc hf hd ha => ?barred⟩
    case refused => rw [attempt_of_checkFails _ hplace hv]
    case stagingFailed => rw [attempt_of_stagingFailed _ hplace hc hf]
    case held => rw [attempt_of_dataHolds _ hplace hc hf hd]
    case barred => rw [attempt_of_dataReady _ hplace hc hf hd, startCmd_of_hostBarred _ ha]

end Sys2Proof.Proofs
end

/-! ## Architecture (spec/01_architecture.md): a result that lands changes the bytes of its cells alone -/

section
namespace Sys2Proof.Proofs
open Sys2Proof.Machine Sys2Proof.Laws

/-! ## Registers that marking the step record leaves alone (R214) -/

/-- Storing a register leaves what a basic register at another offset reads. -/
theorem rf_setReg_other {q r : Reg} (hq : q.expert = false) (h : q.offset ≠ r.offset) (s : State) (v : Word) (lo len : Nat) :
    rf (setReg s r v) q lo len = rf s q lo len := by
  simp only [rf, reg, hq, Bool.false_and, Bool.false_eq_true, if_false, regRaw_setReg_other s r q v h]

/-- Of the registers a mark writes the step record alone. -/
theorem rf_addMark_other {q : Reg} {x : Nat} (hq : q.expert = false) (h : q.offset ≠ (Reg.ctxCxSteprec x).offset) (s : State)
    (m : StepMark) (lo len : Nat) : rf (addMark s x m) q lo len = rf s q lo len := by
  unfold addMark
  split
  · exact rf_of_regs rfl q lo len
  · exact (rf_of_regs rfl q lo len).trans (rf_setReg_other hq h s _ lo len)

/-- Whatever no mark of the context changes, the marks of a landed result leave. -/
theorem landMarks_eq_of_addMark {α : Type} (f : State → α) {x : Nat} (h : ∀ s m, f (addMark s x m) = f s) (s : State)
    (tag : Nat) (eval : Bool) (o : Out) : f (landMarks s x tag eval o) = f s := by
  unfold landMarks
  extract_lets s1
  have h1 : f s1 = f s := by
    unfold s1
    split
    · exact h s _
    · rfl
  split
  · exact (h s1 _).trans h1
  · exact h1

theorem rf_landMarks_other {q : Reg} {x : Nat} (hq : q.expert = false) (h : q.offset ≠ (Reg.ctxCxSteprec x).offset) (s : State)
    (tag : Nat) (eval : Bool) (o : Out) (lo len : Nat) : rf (landMarks s x tag eval o) q lo len = rf s q lo len :=
  landMarks_eq_of_addMark (rf · q lo len) (fun s m => rf_addMark_other hq h s m lo len) s tag eval o

/-- Homes depend on the package id alone (R140). -/
theorem resolve_of_ownPkg {s t : State} (h : ownPkg t = ownPkg s) (a : Nat) : resolve t a = resolve s a := by
  unfold resolve
  rw [h]

/-- Landing marks moves no address to another home. -/
theorem resolve_landMarks {x : Nat} (hx : x < 64) (s : State) (tag : Nat) (eval : Bool) (o : Out) (a : Nat) :
    resolve (landMarks s x tag eval o) a = resolve s a := by
  have hne : Reg.peerId.offset ≠ (Reg.ctxCxSteprec x).offset := by
    simp only [Reg.offset]
    omega
  exact resolve_of_ownPkg (rf_landMarks_other rfl hne s tag eval o 0 6) a

/-- Landing marks moves no entry of a scale table. -/
theorem entryAddr_landMarks (s : State) (x y tag : Nat) (eval : Bool) (o : Out) (tid : Nat) :
    entryAddr (landMarks s x tag eval o) y tid = entryAddr s y tid := by
  have hne : (Reg.ctxCxScale y).offset ≠ (Reg.ctxCxSteprec x).offset := by
    simp only [Reg.offset]
    omega
  simp only [entryAddr, rf_landMarks_other rfl hne]

/-! ## Bytes beside the cells of a store (R138, R140) -/

/-- Setting keys one after another leaves every other key alone. -/
theorem smGet_foldl_smSet_other {α β : Type} [DecidableEq α] (d : α) (key : β → Nat) (val : β → α) (l : List β)
    (m : List (Nat × α)) (b : Nat) (h : ∀ c ∈ l, key c ≠ b) :
    smGet d (l.foldl (fun m c => smSet d m (key c) (val c)) m) b = smGet d m b :=
  List.foldlRecOn (motive := fun m' => smGet d m' b = smGet d m b) l _ rfl fun m' hm c hc =>
    (smGet_smSet_other d m' (key c) b (val c) (h c hc).symm).trans hm

/-- Each cell that can be written stands at the home of a cell of the store. -/
theorem exists_cell_of_writable {s : State} {cells : List Host.Cell} {c : Host.Cell} (h : c ∈ writable s cells) :
    ∃ e ∈ cells, c.1 = resolve s e.1 := by
  obtain ⟨e, he, rfl⟩ := List.mem_map.mp (List.mem_filter.mp h).1
  exact ⟨e, he, rfl⟩

/-- A store changes no register. -/
theorem storeCells_regs (s : State) (cells : List Host.Cell) (bad : List Nat) : (storeCells s cells bad).1.regs = s.regs := by
  obtain ⟨-, -, hregs, -⟩ := storeCells_spec s cells bad
  exact hregs

/-- The bytes after a store are the old ones with the writable cells set one after another. -/
theorem storeCells_mem (s : State) (cells : List Host.Cell) (bad : List Nat) : (storeCells s cells bad).1.mem =
    (writable s cells).foldl (fun m c => smSet 0 m (resolve s c.1) c.2) s.mem := by
  obtain ⟨hcells, -⟩ := storeCells_spec s cells bad
  obtain ⟨hquiet, -⟩ := storeQuiet_spec s cells bad
  exact hcells.trans hquiet

theorem readByte_storeCells_other (s : State) (cells : List Host.Cell) (bad : List Nat) (a : Nat)
    (h : ∀ c ∈ cells, resolve s c.1 ≠ resolve s a) : readByte (storeCells s cells bad).1 a = readByte s a := by
  have hkey : ∀ c ∈ writable s cells, resolve s c.1 ≠ resolve s a := fun c hc => by
    obtain ⟨e, he, hce⟩ := exists_cell_of_writable hc
    rw [hce, resolve_resolve]
    exact h e he
  simp only [readByte, resolve_of_regs (storeCells_regs s cells bad), storeCells_mem]
  exact smGet_foldl_smSet_other 0 _ _ _ _ _ hkey

theorem readByte_storeBytes_other (s : State) (b : Nat) (bytes : List Byte) (a : Nat)
    (h : ∀ i, i < bytes.length → resolve s (b + i) ≠ resolve s a) : readByte (storeBytes s b bytes) a = readByte s a := by
  refine readByte_storeCells_other s _ [] a fun c hc => ?_
  obtain ⟨i, hi, rfl⟩ := List.mem_map.mp hc
  exact h i (List.mem_range.mp hi)

/-! ## Bytes beside a result -/

theorem addMark_mem (s : State) (x : Nat) (m : StepMark) : (addMark s x m).mem = s.mem := by
  unfold addMark
  split <;> rfl

theorem landMarks_mem (s : State) (x tag : Nat) (eval : Bool) (o : Out) : (landMarks s x tag eval o).mem = s.mem :=
  landMarks_eq_of_addMark State.mem (addMark_mem · x) s tag eval o

/-- A landed result moves no address to another home, and no entry of a scale table. -/
theorem resolve_landOut {x : Nat} (hx : x < 64) (s : State) (tag : Nat) (eval : Bool) (o : Out) (a : Nat) :
    resolve (landOut s x tag eval o).1 a = resolve s a :=
  (resolve_landMarks hx _ tag eval o a).trans (resolve_of_regs (storeCells_regs s o.cells o.bad) a)

theorem entryAddr_of_regs {s t : State} (h : t.regs = s.regs) (x tid : Nat) : entryAddr t x tid = entryAddr s x tid := by
  simp only [entryAddr, rf_of_regs h]

theorem entryAddr_landOut (s : State) (x y tag : Nat) (eval : Bool) (o : Out) (tid : Nat) :
    entryAddr (landOut s x tag eval o).1 y tid = entryAddr s y tid :=
  (entryAddr_landMarks _ x y tag eval o tid).trans (entryAddr_of_regs (storeCells_regs s o.cells o.bad) y tid)

theorem readByte_landOut_other {s : State} {x : Nat} {o : Out} {a : Nat} (hx : x < 64) (tag : Nat) (eval : Bool)
    (h : ∀ c ∈ o.cells, resolve s c.1 ≠ resolve s a) : readByte (landOut s x tag eval o).1 a = readByte s a := by
  refine Eq.trans ?_ (readByte_storeCells_other s o.cells o.bad a h)
  simp only [landOut, readByte, landMarks_mem, resolve_landMarks hx]

/-! ## What no result reaches -/

/-- The commands outstanding, the adapters, the packages, the connections, the supply and the security unit. -/
def beyondResults (s : State) :
    List OutCmd × List (Nat × Adapter) × List (Nat × Option Package) × List (Nat × Conn) × PowerSt × SecSt :=
  (s.outs, s.adapters, s.packages, s.conns, s.power, s.sec)

theorem beyondResults_foldl {α : Type} {f : State → α → State} (hf : ∀ s c, beyondResults (f s c) = beyondResults s)
    (l : List α) (s : State) : beyondResults (l.foldl f s) = beyondResults s :=
  List.foldlRecOn (motive := fun t => beyondResults t = beyondResults s) l f rfl fun t ht c _ => (hf t c).trans ht

theorem beyondResults_slabWritten (s : State) (k : Nat) : beyondResults (slabWritten s k) = beyondResults s := by
  unfold slabWritten
  extract_lets
  split <;> rfl

theorem beyondResults_addTraffic (s : State) (p n : Nat) : beyondResults (addTraffic s p n) = beyondResults s := by
  unfold addTraffic
  extract_lets
  split <;> rfl

theorem beyondResults_emit (s : State) (o : Output) : beyondResults (emit s o) = beyondResults s := rfl

theorem beyondResults_pokeByte (s : State) (a : Nat) (b : Byte) : beyondResults (pokeByte s a b) = beyondResults s := rfl

theorem beyondResults_setPoison (s : State) (a : Nat) (b : Bool) : beyondResults (setPoison s a b) = beyondResults s := rfl

theorem beyondResults_hostWrites (s : State) (keep : List Host.Cell) (lines : List Nat) :
    beyondResults (hostWrites s keep lines) = beyondResults s := by
  unfold hostWrites
  refine beyondResults_foldl (fun s l => ?_) _ s
  refine beyondResults_foldl (fun s d => ?_) _ s
  exact beyondResults_emit s _

theorem beyondResults_storeQuiet (s : State) (cells : List Host.Cell) (bad : List Nat) :
    beyondResults (storeQuiet s cells bad).1 = beyondResults s := by
  unfold storeQuiet
  extract_lets keep lines hit full s1 s2 s3
  calc beyondResults (hostWrites ((dedup (keep.map fun c => c.1 / slabBytes)).foldl slabWritten s3) keep lines)
      = beyondResults ((dedup (keep.map fun c => c.1 / slabBytes)).foldl slabWritten s3) := beyondResults_hostWrites _ _ _
    _ = beyondResults s3 := beyondResults_foldl beyondResults_slabWritten _ _
    _ = beyondResults s2 := beyondResults_foldl (fun s l => beyondResults_setPoison s (l * 64) true) _ _
    _ = beyondResults s1 := beyondResults_foldl (fun s l => beyondResults_setPoison s (l * 64) false) _ _
    _ = beyondResults s := beyondResults_foldl (fun s (c : Host.Cell) => beyondResults_pokeByte s c.1 c.2) _ _

theorem beyondResults_storeCells (s : State) (cells : List Host.Cell) (bad : List Nat) :
    beyondResults (storeCells s cells bad).1 = beyondResults s :=
  (beyondResults_foldl (fun s p => beyondResults_addTraffic s p _) _ _).trans (beyondResults_storeQuiet s cells bad)

theorem beyondResults_addMark (s : State) (x : Nat) (m : StepMark) : beyondResults (addMark s x m) = beyondResults s := by
  unfold addMark
  split <;> rfl

theorem beyondResults_landMarks (s : State) (x tag : Nat) (eval : Bool) (o : Out) :
    beyondResults (landMarks s x tag eval o) = beyondResults s :=
  landMarks_eq_of_addMark beyondResults (beyondResults_addMark · x) s tag eval o

theorem beyondResults_landOut (s : State) (x tag : Nat) (eval : Bool) (o : Out) :
    beyondResults (landOut s x tag eval o).1 = beyondResults s :=
  (beyondResults_landMarks _ x tag eval o).trans (beyondResults_storeCells s o.cells o.bad)

theorem beyondResults_storeBytes (s : State) (a : Nat) (bytes : List Byte) :
    beyondResults (storeBytes s a bytes) = beyondResults s :=
  beyondResults_storeCells s _ []

/-! ## Counting a result (R45, R48) -/

/-- Counting changes counts of the context, and stores at most four bytes: AMAX_PEND of the tensor's entry. -/
theorem countStats_cases (s : State) (x : Nat) (q : Tensor) (eval : Bool) (st : Stats) :
    ∃ u : State, u.regs = s.regs ∧ u.mem = s.mem ∧ beyondResults u = beyondResults s
      ∧ (countStats s x q eval st = u
        ∨ ∃ n, countStats s x q eval st = storeBytes u (entryAddr u x q.tid + 8) (leBytes 4 n)) := by
  unfold countStats
  extract_lets tid set s1 s2
  split
  · exact ⟨s1, rfl, rfl, rfl, .inl rfl⟩
  · split
    · exact ⟨s2, rfl, rfl, rfl, .inr ⟨_, rfl⟩⟩
    · exact ⟨s2, rfl, rfl, rfl, .inl rfl⟩

theorem readByte_countStats_other (s : State) (x : Nat) (q : Tensor) (eval : Bool) (st : Stats) (a : Nat)
    (h : ∀ i, i < 4 → resolve s (entryAddr s x q.tid + 8 + i) ≠ resolve s a) :
    readByte (countStats s x q eval st) a = readByte s a := by
  obtain ⟨u, hregs, hmem, -, hu | ⟨n, hu⟩⟩ := countStats_cases s x q eval st
  · rw [hu, readByte_of hregs hmem]
  · rw [hu, readByte_storeBytes_other u _ _ a, readByte_of hregs hmem]
    simpa only [leBytes_length, entryAddr_of_regs hregs, resolve_of_regs hregs] using h

theorem beyondResults_countStats (s : State) (x : Nat) (q : Tensor) (eval : Bool) (st : Stats) :
    beyondResults (countStats s x q eval st) = beyondResults s := by
  obtain ⟨u, -, -, hu, h | ⟨n, h⟩⟩ := countStats_cases s x q eval st
  · rw [h, hu]
  · rw [h, beyondResults_storeBytes, hu]

/-- Settles O59: a result's bytes go through `storeCells`, which writes at the homes of its cells; its marks reach the step
record, which moves no home and no entry of the scale table. -/
theorem resultsChangeOnlyTheirCells : Obligations.ResultsChangeOnlyTheirCells := by
  intro s x tag q eval o a hx hcells t u
  have ht : readByte t a = readByte s a := readByte_landOut_other hx tag eval hcells
  have hu (hentry : ∀ i, i < 4 → resolve s (entryAddr s x q.tid + 8 + i) ≠ resolve s a) : readByte u a = readByte s a := by
    refine (readByte_countStats_other t x q eval o.stats a fun i hi => ?_).trans ht
    rw [entryAddr_landOut, resolve_landOut hx, resolve_landOut hx]
    exact hentry i hi
  have htRest : beyondResults t = beyondResults s := beyondResults_landOut s x tag eval o
  have huRest : beyondResults u = beyondResults s := (beyondResults_countStats t x q eval o.stats).trans htRest
  simp only [beyondResults, Prod.mk.injEq] at htRest huRest
  obtain ⟨touts, tadapters, tpackages, tconns, tpower, tsec⟩ := htRest
  exact ⟨ht, hu, touts, tadapters, tpackages, tconns, tpower, tsec, huRest⟩

end Sys2Proof.Proofs
end


/-! ## Numerics (spec/02_numerics.md): MMA's results, and what SCALE_SET and the optimizers stage for the commit -/

section
namespace Sys2Proof.Proofs
open Sys2Proof.Machine

/-! ## A row whose command starts as it is read (R295, R299, R329) -/

section Start
variable {s : State} {c : Cmd} {op : RingOp} (run : State → OutCmd → State)

/-- A start that needs no host memory out of reach is the command's work. -/
theorem startCmd_of_reachable {o : OutCmd} (ha : hostBarred s (planOp o.op s o.ctx o.d) = none) :
    startCmd run s o = run (touchReads (emberUse (backPlan (countBypass s o) o.ctx (planOp o.op s o.ctx o.d))
      (planOp o.op s o.ctx o.d).exts) (planOp o.op s o.ctx o.d)) o := by
  simp only [startCmd, ha]

theorem attempt_of_startsNow {o : OutCmd} (h : startsNow s o = true) :
    attempt run s o = run (begun s o) (heldOf s o).2 := by
  simp only [startsNow, Bool.and_eq_true, Bool.not_eq_true', Option.isNone_iff_eq_none] at h
  obtain ⟨⟨⟨⟨hplace, hcheck⟩, hstaging⟩, hdata⟩, hhost⟩ := h
  rw [attempt_of_dataReady run hplace hcheck hstaging hdata, startCmd_of_reachable run hhost]
  rfl

theorem starts_iff : starts s op c = true ↔
    reads s op c = true ∧ turnAtRead s c = true ∧ startsNow (readHere s c).1 (readHere s c).2 = true := by
  simp only [starts, Bool.and_eq_true, and_assoc]

/-- A row whose command starts as it is read is the work of the command. -/
theorem ringRow_of_starts (h : starts s op c = true) : ringRow op run c s = settle (run (workState s c) (workCmd s c)) := by
  obtain ⟨hreads, hturn, hnow⟩ := starts_iff.mp h
  rw [ringRow_of_turn run hreads hturn, attempt_of_startsNow run hnow]
  rfl

/-- A command that is read meets what strikes the arrays. -/
theorem ringRowWith_of_reads {ev : List ArrEvent} (h : reads (strike s ev) op c = true) :
    ringRowWith op run ev c s = ringRow op run c (strike s ev) := by
  obtain ⟨hd, hcan, -⟩ := reads_iff.mp h
  simp only [ringRowWith, ringRow, spells, hd, hcan, beq_self_eq_true, Bool.and_self, if_true]

theorem ringRowWith_of_starts {ev : List ArrEvent} (h : starts (strike s ev) op c = true) :
    ringRowWith op run ev c s = settle (run (workState (strike s ev) c) (workCmd (strike s ev) c)) := by
  obtain ⟨hreads, -⟩ := starts_iff.mp h
  rw [ringRowWith_of_reads run hreads, ringRow_of_starts run h]

end Start

/-- Every row of `ringRows` whose command starts is the work of its operation. -/
theorem exec_of_starts {failsAt : Option Nat} {p : RingOp × (Cmd → Instr)} (hp : p ∈ ringRows failsAt) {c : Cmd} {s : State}
    (h : starts s p.1 c = true) :
    exec (p.2 c) s = .next (settle (rowRun failsAt p.1 (workState s c) (workCmd s c))) := by
  rw [exec_ringRows failsAt p hp, ringRow_of_starts _ h]

/-! ## MMA with what strikes its arrays (R78, R89, R101) -/

section RunMma
variable {s : State} {o : OutCmd}

/-- An event strikes an array of one of the command's members. -/
def strikesMember (s : State) (d : Desc) (e : ArrEvent) : Bool := ((mmaMembers d).filterMap (arrOf s d.region)).contains e.cluster

/-- The events that strike the command's arrays. -/
def mmaEvents (s : State) (d : Desc) : List ArrEvent := s.glitches.filter (strikesMember s d)

/-- The state in which the command reads its operands: the events that strike its arrays are spent. -/
def mmaStart (s : State) (d : Desc) : State := { s with glitches := s.glitches.filter fun e => !strikesMember s d e }

/-- What the checks of the command's passes find. -/
def mmaChecked (s : State) (o : OutCmd) : State × Checked :=
  checkPasses (mmaStart s o.d) o.ctx o.d (mmaDims s o.ctx o.d) (cmdRef o) (mmaEvents s o.d)

/-- The arrays of the command's members after its last pass. -/
def mmaBanks (s : State) (o : OutCmd) (t : State) (last : Option Pass) : State :=
  let v := mmaStart s o.d
  (mmaMembers o.d).foldl (fun t k => arrAfter v t o.ctx o.d (mmaDims s o.ctx o.d) (memberOf v o.ctx o.d k) last) t

/-- What the checks leave, with free bytes in the members' result extents. -/
def mmaFreed (s : State) (o : OutCmd) : State :=
  (((mmaMembers o.d).flatMap (memberExts (mmaStart s o.d) o.ctx (mmaDims s o.ctx o.d) o.d)).filter (·.write)).foldl
    (fun t e => freeExtent t e.lo.toNat e.len) (mmaChecked s o).1

/-- The members' results, landed. -/
def mmaLanded (s : State) (o : OutCmd) : State × Bool × Bool :=
  landMembers (mmaChecked s o).1 o.ctx o.d (mmaDims s o.ctx o.d)
    (feedOf (mmaStart s o.d) o.d (mmaEvents s o.d) (mmaChecked s o).2)

theorem runMma_of_noWork (h : mmaT o.d = 0 ∨ mmaK o.d = 0 ∨ mmaN o.d = 0) : runMma s o = complete s o stOk 0 := by
  rw [runMma, if_pos h]

theorem runMma_of_dead {i : Nat} (hwork : ¬ (mmaT o.d = 0 ∨ mmaK o.d = 0 ∨ mmaN o.d = 0))
    (hdead : (mmaChecked s o).2.dead = some i) : runMma s o =
      complete (mmaBanks s o (mmaFreed s o) (mmaPasses (mmaDims s o.ctx o.d) o.d)[i]?) o stChecksum 0 := by
  rw [runMma, if_neg hwork]
  change (match (mmaChecked s o).2.dead with | some i => _ | none => _) = _
  rw [hdead]
  rfl

theorem runMma_of_checked (hwork : ¬ (mmaT o.d = 0 ∨ mmaK o.d = 0 ∨ mmaN o.d = 0))
    (hdead : (mmaChecked s o).2.dead = none) : runMma s o =
      complete (mmaBanks s o (mmaLanded s o).1 (mmaPasses (mmaDims s o.ctx o.d) o.d).getLast?) o
        (workStatus (mmaLanded s o).2.1 (mmaLanded s o).2.2) 0 := by
  rw [runMma, if_neg hwork]
  change (match (mmaChecked s o).2.dead with | some i => _ | none => _) = _
  rw [hdead]
  rfl

end RunMma

theorem exec_mma_of_starts {c : Cmd} {ev : List ArrEvent} {s : State} (h : starts (strike s ev) .mma c = true) :
    exec (.mma c ev) s = .next (settle (runMma (workState (strike s ev) c) (workCmd (strike s ev) c))) :=
  congrArg Host.Outcome.next (ringRowWith_of_starts runMma h)

/-! ## Sums with nothing going wrong (R34, R36, R91) -/

/-- A real command has one component (R91). -/
theorem comp_of_mem_mmaPasses {m : MmaDims} {d : Desc} {p : Pass} (hreal : mmaCplx d = 0) (hp : p ∈ mmaPasses m d) :
    p.comp = ⟨.re, .re, some false, none⟩ := by
  simp only [mmaPasses, hreal, components, List.mem_flatMap, List.mem_map, List.mem_singleton] at hp
  obtain ⟨_, _, _, _, _, _, _, hcomp, _, _, _, _, rfl⟩ := hp
  exact hcomp

section Quiet
variable {s : State} {x : Nat} {d : Desc} {m : MmaDims} {mb : Member}

/-- With no tile held, what the cubes multiply with is what the feeder sends. -/
theorem passWeight_of_quiet (hheld : heldHit s x d m mb = none) (ps : List Pass) (i : Nat) (p : Pass) (tok q j : Nat) :
    passWeight s x d m mb ⟨[], []⟩ ps i p false tok q j
      = operandOf m.wfmt (mmaF16W d) (wtElem s x d m mb p.comp.wt p.k p.n q j).1 := by
  have hfor : heldFor s x d m mb ⟨[], []⟩ i false = none := by
    simp only [heldFor, hheld, ite_self]
  simp only [passWeight, hfor, Option.isSome_none, Bool.false_eq_true, if_false, laneEvent, List.findSome?_nil, sentWeight]

theorem passOut_of_quiet (hheld : heldHit s x d m mb = none) (ps : List Pass) (i : Nat) (p : Pass) (row j : Nat) :
    passOut s x d m mb ⟨[], []⟩ ps i p false row j = passSum m.geo.group p.asl p.wsl (passActs s x d m mb p row)
      ((List.range m.geo.inW).map fun q => operandOf m.wfmt (mmaF16W d) (wtElem s x d m mb p.comp.wt p.k p.n q j).1) := by
  simp only [passOut, outputEvent, List.findSome?_nil, passWeight_of_quiet hheld]

end Quiet

/-- Going through a list by its places is going through its elements. -/
theorem filterMap_range_getElem? {α β : Type} (l : List α) (f : α → Option β) :
    ((List.range l.length).filterMap fun i => l[i]?.bind f) = l.filterMap f := by
  have hplaces : (List.range l.length).map (l[·]?) = l.map some := List.ext_getElem (by simp) fun i h₁ h₂ => by simp
  calc ((List.range l.length).filterMap fun i => l[i]?.bind f)
      = ((List.range l.length).map (l[·]?)).filterMap (·.bind f) := by rw [List.filterMap_map]; rfl
    _ = l.filterMap f := by rw [hplaces, List.filterMap_map]; rfl

/-- A real element with nothing going wrong is the sum of the passes of its tile that stream its row (R36, R89). -/
theorem finalSum_of_quiet {s : State} {x : Nat} {d : Desc} {m : MmaDims} {mb : Member} (hheld : heldHit s x d m mb = none)
    (hreal : mmaCplx d = 0) (n row j : Nat) :
    finalSum s x d m mb ⟨[], []⟩ false n row j = epilogue (mmaEpi d) (drainFold
      (((mmaPasses m d).filter fun p => p.n = n && p.lo ≤ row && row < p.lo + p.len).map fun p =>
        passSum m.geo.group p.asl p.wsl
          ((actRow s x d m mb .re p.k row).map fun v => operandOf m.afmt (mmaF16A d) v.1)
          ((List.range m.geo.inW).map fun i => operandOf m.wfmt (mmaF16W d) (wtElem s x d m mb .re p.k n i j).1))) := by
  rw [← List.filterMap_eq_map', List.filterMap_filter, ← filterMap_range_getElem?]
  refine congrArg (fun l => epilogue (mmaEpi d) (drainFold l)) (List.filterMap_congr fun i _ => ?_)
  refine Option.bind_congr fun p hp => ?_
  have hcomp := comp_of_mem_mmaPasses hreal (List.mem_of_getElem? hp)
  by_cases hrow : p.n = n ∧ p.lo ≤ row ∧ row < p.lo + p.len
  · obtain ⟨rfl, hlo, hhi⟩ := hrow
    simp [hlo, hhi, hcomp, Feed.again, passOut_of_quiet hheld, passActs]
  · have hno : ¬ ((decide (p.n = n) && decide (p.lo ≤ row) && decide (row < p.lo + p.len)) = true) := by
      simpa [and_assoc] using hrow
    rw [if_neg hrow, if_neg hno]

/-- Settles O19: MMA's row is `runMma` after the strike, in its three cases; an element is `finalSum_of_quiet`. -/
theorem mmaLandsItsMembersResults : Obligations.MmaLandsItsMembersResults := by
  refine ⟨?_, fun s x d m mb n row j hheld hreal => finalSum_of_quiet hheld hreal n row j⟩
  intro c ev s h u o d x empty m mine v r banks q
  rw [exec_mma_of_starts h]
  refine ⟨fun hempty => ?empty, fun i hempty hdead => ?dead, fun hempty hdead => ?landed⟩
  case empty => rw [runMma_of_noWork (of_decide_eq_true hempty)]
  case dead => rw [runMma_of_dead (of_decide_eq_false hempty) hdead]; rfl
  case landed => rw [runMma_of_checked (of_decide_eq_false hempty) hdead]; rfl

/-! ## The journal (R217) -/

section Journal
variable {s : State} {o : OutCmd} {x : Nat} {d : Desc} {block : List Byte} {e : JEntry}

/-- Where the next entry of a context's journal goes. -/
def nextEntryAddr (s : State) (x : Nat) : Nat := journalAddr s x + 256 * (ctx s x).journal.length

/-- The next entry's pages, backed. -/
def backEntry (s : State) (x : Nat) : Option State := backPages s x (pagesOf s (nextEntryAddr s x) 256)

/-- An entry staged at an address. -/
def stageEntry (s : State) (x a : Nat) (d : Desc) (block : List Byte) (e : JEntry) : State :=
  let body := descBytes d ++ block
  refreshUsed (modCtx (storeBytes s a (body ++ List.replicate (256 - body.length) 0)) x fun c =>
    { c with journal := c.journal ++ [e] }) x

theorem journalAdd_of_noEntry (h : journalLen s x ≤ (ctx s x).journal.length ∨ backEntry s x = none) :
    journalAdd s x d block e = none := by
  by_cases hfull : journalLen s x ≤ (ctx s x).journal.length
  · simp only [journalAdd, hfull, if_true]
  · have hback : backPages s x (pagesOf s (journalAddr s x + 256 * (ctx s x).journal.length) 256) = none := h.resolve_left hfull
    simp only [journalAdd, hfull, if_false, hback, Option.map_none]

theorem journalAdd_of_entry {v : State} (hroom : (ctx s x).journal.length < journalLen s x) (hv : backEntry s x = some v) :
    journalAdd s x d block e = some (stageEntry v x (nextEntryAddr s x) d block e) := by
  have hback : backPages s x (pagesOf s (journalAddr s x + 256 * (ctx s x).journal.length) 256) = some v := hv
  simp only [journalAdd, Nat.not_le.mpr hroom, if_false, hback, Option.map_some]
  rfl

theorem acceptDeferred_of_noEntry {poison : Bool}
    (h : journalLen s o.ctx ≤ (ctx s o.ctx).journal.length ∨ backEntry s o.ctx = none) :
    acceptDeferred s o block poison e = complete s o stQuota 0 := by
  simp only [acceptDeferred, journalAdd_of_noEntry h]

theorem acceptDeferred_of_entry {poison : Bool} {v : State} (hroom : (ctx s o.ctx).journal.length < journalLen s o.ctx)
    (hv : backEntry s o.ctx = some v) :
    let w := stageEntry v o.ctx (nextEntryAddr s o.ctx) o.d block e
    acceptDeferred s o block poison e = complete
      (if poison then poisonExtent w (nextEntryAddr s o.ctx + 64) block.length else w) o (workStatus poison false) 0 := by
  simp only [acceptDeferred, journalAdd_of_entry hroom hv]
  rfl

end Journal

/-! ## The deferred commands (R46, R103, R217) -/

/-- The rows that take effect when the step commits. -/
def deferredRows : List (RingOp × (Cmd → Instr)) :=
  [(.scaleSet, .scaleSet), (.sgdMom, .sgdMom), (.adam, .adam), (.adamw, .adamw)]

/-- The image or the block that a deferred command reads. -/
def deferredBlock (op : RingOp) (s : State) (d : Desc) : List Byte :=
  if op = .scaleSet then readBytes s (vecA d) 32 else readBytes s (vecB d) 128

/-- The image or the block that a deferred command reads is poisoned. -/
def deferredPoison (op : RingOp) (s : State) (d : Desc) : Bool :=
  if op = .scaleSet then anyPoison s (vecA d) 32 else anyPoison s (vecB d) 128

/-- The effect that a deferred command stages. -/
def deferredEntry (op : RingOp) (d : Desc) (block : List Byte) : JEntry :=
  if op = .scaleSet then .scaleSet (vecDTid d) block else .opt op d block

/-- With no row or no column a deferred command has no work; else its entry is to join the journal. -/
def runDeferred (op : RingOp) (s : State) (o : OutCmd) : State :=
  if vecZero o.d then complete s o stOk 0
  else acceptDeferred s o (deferredBlock op s o.d) (deferredPoison op s o.d) (deferredEntry op o.d (deferredBlock op s o.d))

/-- SCALE_SET and the optimizers differ in what they read and in the entry alone. -/
theorem rowRun_of_deferredRows : ∀ p ∈ deferredRows, rowRun none p.1 = runDeferred p.1 := by
  simp only [deferredRows, List.forall_mem_cons]
  exact ⟨rfl, rfl, rfl, rfl, fun _ h => nomatch h⟩

theorem deferredRows_subset : deferredRows ⊆ ringRows none := by
  simp only [deferredRows, ringRows, List.cons_append, List.cons_subset, List.mem_cons, Prod.mk.injEq, reduceCtorEq, false_and,
    false_or, and_self, true_or, List.nil_subset]

theorem exec_deferred_of_starts {p : RingOp × (Cmd → Instr)} (hp : p ∈ deferredRows) {c : Cmd} {s : State}
    (h : starts s p.1 c = true) : exec (p.2 c) s = .next (settle (runDeferred p.1 (workState s c) (workCmd s c))) := by
  rw [exec_of_starts (deferredRows_subset hp) h, rowRun_of_deferredRows p hp]

theorem vecZero_iff {d : Desc} : vecZero d = true ↔ vecRows d = 0 ∨ vecCols d = 0 := by
  simp only [vecZero, Bool.or_eq_true, beq_iff_eq]

section RunDeferred
variable {op : RingOp} {s : State} {o : OutCmd}

theorem runDeferred_of_noWork (h : vecRows o.d = 0 ∨ vecCols o.d = 0) : runDeferred op s o = complete s o stOk 0 := by
  rw [runDeferred, if_pos (vecZero_iff.mpr h)]

theorem runDeferred_of_work (hrows : vecRows o.d ≠ 0) (hcols : vecCols o.d ≠ 0) : runDeferred op s o =
    acceptDeferred s o (deferredBlock op s o.d) (deferredPoison op s o.d) (deferredEntry op o.d (deferredBlock op s o.d)) := by
  rw [runDeferred, if_neg fun h => (vecZero_iff.mp h).elim hrows hcols]

end RunDeferred

/-- Settles O24: the four rows run as `runDeferred`, and what joins the journal is `acceptDeferred`'s two cases. -/
theorem deferredCommandsJournalTheirEffect : Obligations.DeferredCommandsJournalTheirEffect := by
  intro p hp c s h u o d block poison entry used a body staged
  rw [exec_deferred_of_starts hp h]
  refine ⟨fun hnone => ?noWork, fun hrows hcols => ?work⟩
  case noWork => rw [runDeferred_of_noWork hnone]
  case work =>
    rw [runDeferred_of_work hrows hcols]
    refine ⟨fun hnone => ?noEntry, fun v hroom hv => ?entry⟩
    case noEntry => rw [acceptDeferred_of_noEntry hnone]
    case entry =>
      rw [acceptDeferred_of_entry hroom hv]
      rfl

end Sys2Proof.Proofs
end

/-! ## The cube array (spec/03_cube_array.md): the kindling window and the ramp governor -/

section
namespace Sys2Proof.Proofs
open Sys2Proof.Machine Sys2Proof.Laws

/-! ## A field reads back what was stored in it (R4) -/

theorem bitsAt_putBits_same (n lo len v : Nat) : bitsAt (putBits n lo len v) lo len = v % 2 ^ len := by
  have hlow : n % 2 ^ lo / 2 ^ lo = 0 := Nat.div_eq_of_lt (Nat.mod_lt _ (Nat.two_pow_pos lo))
  have hput : putBits n lo len v = n % 2 ^ lo + 2 ^ lo * (v % 2 ^ len + 2 ^ len * (n >>> (lo + len))) := by
    simp only [putBits, pow_add]
    ring
  rw [bitsAt, hput, Nat.shiftRight_eq_div_pow, Nat.add_mul_div_left _ _ (Nat.two_pow_pos lo), hlow, Nat.zero_add,
    Nat.add_mul_mod_self_left, Nat.mod_mod]

/-- Bits above a field do not reach it. -/
theorem bitsAt_mod_two_pow {lo len k : Nat} (h : lo + len ≤ k) (n : Nat) : bitsAt (n % 2 ^ k) lo len = bitsAt n lo len := by
  have hk : 2 ^ k = 2 ^ lo * 2 ^ (k - lo) := by rw [← pow_add, Nat.add_sub_cancel' (by omega)]
  rw [bitsAt, bitsAt, Nat.shiftRight_eq_div_pow, Nat.shiftRight_eq_div_pow, hk, Nat.mod_mul_right_div_self,
    Nat.mod_mod_of_dvd _ (pow_dvd_pow 2 (by omega))]

theorem fld_setFld_same {lo len : Nat} (h : lo + len ≤ 64) (w : Word) (v : Nat) : fld (setFld w lo len v) lo len = v % 2 ^ len := by
  rw [fld, setFld, BitVec.toNat_ofNat, bitsAt_mod_two_pow h, bitsAt_putBits_same]

/-- A field of a basic register reads back the low bits of what was stored in it. -/
theorem rf_setRf_same {r : Reg} {lo len : Nat} (hr : r.expert = false) (h : lo + len ≤ 64) (s : State) (v : Nat) :
    rf (setRf s r lo len v) r lo len = v % 2 ^ len := by
  simp only [rf, reg, hr, Bool.false_and, Bool.false_eq_true, if_false, setRf, regRaw_setReg_same, fld_setFld_same h]

/-! ## The launch budget (R82) -/

theorem budget_setBudget {b : Nat} (hb : b < 32) (s : State) (p : Nat) : budget (setBudget s p b) p = b :=
  (rf_setRf_same rfl (by decide) s b).trans (Nat.mod_eq_of_lt hb)

theorem budget_setArr (s : State) (p : Nat) (a : ArrSt) : budget (setArr s p a) p = budget s p :=
  rf_of_regs (setArr_regs s p a) (.arrCluStat p) 35 5

theorem ceiling_le (s : State) (p : Nat) : ceiling s p ≤ 16 := Nat.min_le_left _ _

theorem peerId_offset_ne_arrCluStat {p : Nat} (hp : p < 324) : Reg.peerId.offset ≠ (Reg.arrCluStat p).offset := by
  simp only [Reg.offset]
  omega

theorem ownPkg_setBudget {p : Nat} (hp : p < 324) (s : State) (b : Nat) : ownPkg (setBudget s p b) = ownPkg s :=
  rf_setReg_other rfl (peerId_offset_ne_arrCluStat hp) s _ 0 6

section SetBudget
variable (s : State) (p b : Nat)

@[simp] theorem setBudget_mem : (setBudget s p b).mem = s.mem := setReg_mem s _ _
@[simp] theorem setBudget_poison : (setBudget s p b).poison = s.poison := setReg_poison s _ _
@[simp] theorem setBudget_tier : (setBudget s p b).tier = s.tier := setReg_tier s _ _
@[simp] theorem setBudget_ctxs : (setBudget s p b).ctxs = s.ctxs := setReg_ctxs s _ _
@[simp] theorem setBudget_outs : (setBudget s p b).outs = s.outs := setReg_outs s _ _
@[simp] theorem setBudget_adapters : (setBudget s p b).adapters = s.adapters := setReg_adapters s _ _
@[simp] theorem setBudget_packages : (setBudget s p b).packages = s.packages := setReg_packages s _ _

end SetBudget

theorem sameStore_setArr (s : State) (p : Nat) (a : ArrSt) : sameStore s (setArr s p a) :=
  ⟨readByte_of (setArr_regs s p a) (setArr_mem s p a), poisoned_of (setArr_regs s p a) (setArr_poison s p a), setArr_tier s p a⟩

theorem sameStore_trans {s t u : State} (hst : sameStore s t) (htu : sameStore t u) : sameStore s u := by
  obtain ⟨hbyte, hpoison, htier⟩ := hst
  obtain ⟨hbyte', hpoison', htier'⟩ := htu
  exact ⟨fun a => (hbyte' a).trans (hbyte a), fun a => (hpoison' a).trans (hpoison a), htier'.trans htier⟩

/-- A budget is a field of a register that says nothing about homes of addresses. -/
theorem sameStore_setBudget {p : Nat} (hp : p < 324) (s : State) (b : Nat) : sameStore s (setBudget s p b) := by
  have hhome (a : Nat) : resolve (setBudget s p b) a = resolve s a := resolve_of_ownPkg (ownPkg_setBudget hp s b) a
  simp only [sameStore, readByte, poisoned, hhome, setBudget_mem, setBudget_poison, setBudget_tier, implies_true, and_self]

theorem sameWork_setBudget (s : State) (p b : Nat) : sameWork s (setBudget s p b) := by
  simp only [sameWork, setBudget_ctxs, setBudget_outs, setBudget_adapters, setBudget_packages, and_self]

/-! ## One step of the governor, by the way the budget moves (R82) -/

section RampOnce
variable {s : State} {p : Nat}

theorem rampOnce_of_down (h : (arrSt s p).ramp = .down) : rampOnce s p =
    if budget s p ≤ 1 then setArr (setBudget s p 0) p { arrSt s p with ramp := .steady, window := false }
    else setBudget s p (budget s p - 1) := by
  simp only [rampOnce, h]

theorem rampOnce_of_hold (h : (arrSt s p).ramp = .hold) : rampOnce s p =
    if budget s p < ceiling s p then setArr (setBudget s p (budget s p + 1)) p { arrSt s p with ramp := .up }
    else setArr s p { arrSt s p with ramp := .up } := by
  simp only [rampOnce, h]

theorem rampOnce_of_up (h : (arrSt s p).ramp = .up) : rampOnce s p =
    if ceiling s p < budget s p then setBudget s p (budget s p - 1)
    else if budget s p < ceiling s p then setBudget s p (budget s p + 1)
    else if budget s p = 16 then setArr s p { arrSt s p with ramp := .steady } else s := by
  simp only [rampOnce, h]

/-- At rest an idle array stays idle, and a budget at its ceiling stays there. -/
theorem rampOnce_of_steady (h : (arrSt s p).ramp = .steady) : rampOnce s p =
    if budget s p = 0 ∨ budget s p = ceiling s p then s
    else if ceiling s p < budget s p then setBudget s p (budget s p - 1) else setBudget s p (budget s p + 1) := by
  simp only [rampOnce, h]
  by_cases hidle : budget s p = 0
  · simp only [hidle, true_or, if_true]
  · simp only [hidle, false_or, if_false]
    rcases Nat.lt_trichotomy (budget s p) (ceiling s p) with hbelow | hat | habove
    · simp only [hbelow, hbelow.ne, hbelow.not_gt, if_true, if_false]
    · simp only [hat, lt_irrefl, if_true, if_false]
    · simp only [habove, habove.ne', if_true, if_false]

end RampOnce

/-! ## What a step of the governor can do (R82, R423) -/

/-- What a step of the governor can leave: the budget as it was, down by 1 and not below 0, or up by 1 from under its ceiling;
and the array beside it in another way of moving. -/
inductive GovernorMove (s : State) (p : Nat) : State → Prop
  | stay : GovernorMove s p s
  | lower : GovernorMove s p (setBudget s p (budget s p - 1))
  | rise : budget s p < ceiling s p → GovernorMove s p (setBudget s p (budget s p + 1))
  | turn {v : State} (a : ArrSt) : GovernorMove s p v → GovernorMove s p (setArr v p a)

theorem rampOnce_governorMove (s : State) (p : Nat) : GovernorMove s p (rampOnce s p) := by
  cases hramp : (arrSt s p).ramp with
  | steady =>
    rw [rampOnce_of_steady hramp]
    split_ifs with hrest habove
    · exact .stay
    · exact .lower
    · exact .rise (by omega)
  | up =>
    rw [rampOnce_of_up hramp]
    split_ifs with habove hbelow
    · exact .lower
    · exact .rise hbelow
    · exact .turn _ .stay
    · exact .stay
  | down =>
    rw [rampOnce_of_down hramp]
    split_ifs with hone
    · rw [← Nat.sub_eq_zero_of_le hone]
      exact .turn _ .lower
    · exact .lower
  | hold =>
    rw [rampOnce_of_hold hramp]
    split_ifs with hbelow
    · exact .turn _ (.rise hbelow)
    · exact .turn _ .stay

namespace GovernorMove
variable {s v : State} {p : Nat}

/-- From a budget of at most 16 a move goes by at most 1, and rises to the ceiling at most. -/
theorem budget_bounds (m : GovernorMove s p v) (h : budget s p ≤ 16) :
    budget v p ≤ budget s p + 1 ∧ budget s p ≤ budget v p + 1 ∧ budget v p ≤ 16
      ∧ (budget s p < budget v p → budget v p ≤ ceiling s p) := by
  induction m with
  | stay => omega
  | lower =>
    rw [budget_setBudget (by omega)]
    omega
  | rise hbelow =>
    have hceiling := ceiling_le s p
    rw [budget_setBudget (by omega)]
    omega
  | turn a _ ih => rwa [budget_setArr]

theorem keepsStore (m : GovernorMove s p v) (hp : p < 324) : sameStore s v := by
  induction m with
  | stay => exact ⟨fun _ => rfl, fun _ => rfl, rfl⟩
  | lower => exact sameStore_setBudget hp s _
  | rise _ => exact sameStore_setBudget hp s _
  | turn a _ ih => exact sameStore_trans ih (sameStore_setArr _ p a)

theorem keepsWork (m : GovernorMove s p v) : sameWork s v := by
  induction m with
  | stay => exact ⟨rfl, rfl, rfl, rfl⟩
  | lower => exact sameWork_setBudget s p _
  | rise _ => exact sameWork_setBudget s p _
  | turn a _ ih => exact ih

end GovernorMove

/-! ## The pair of a ramp step (R79, R80) -/

/-- What a working array launches in a ramp step before its governor moves: a kindling pair, where kindling is on and its
budget lets it launch. -/
def rampLaunch (mismatch : Bool) (s : State) (p : Nat) : State :=
  if budget s p = 0 ∨ !kindleOn s then s else if mismatch then (kindleFails s p none 0).1 else kindlePair s p

section Pair
variable {s : State} {p : Nat} {mismatch : Bool}

theorem rampLaunch_of_noPair (h : budget s p = 0 ∨ kindleOn s = false) : rampLaunch mismatch s p = s := by
  rw [rampLaunch, if_pos (by simpa using h)]

theorem rampLaunch_of_pair (hb : budget s p ≠ 0) (hon : kindleOn s = true) : rampLaunch mismatch s p =
    if mismatch then (kindleFails s p none 0).1 else kindlePair s p := by
  rw [rampLaunch, if_neg (by simp [hb, hon])]

/-- A pair that fails is launched, counted and reported; the second in a row fails the cluster (R79). -/
theorem kindleFails_of_on {cx : Option Nat} {cmd : Nat} (hon : kindleOn s = true) : (kindleFails s p cx cmd).1 =
    let u := report (bumpBy (kindlePair s p) (.arrCluStat p) 16 8 1) 0x03 0 (srcOf 0 p) cx 0 0 cmd
    let n := (arrSt (kindlePair s p) p).kindles + 1
    let v := setArr u p { arrSt u p with kindles := n }
    if 2 ≤ n then failCluster v p [(cx, cmd)] else v := by
  simp only [kindleFails, hon, Bool.not_true, Bool.false_eq_true, if_false]
  split <;> rfl

end Pair

/-! ## The rows of the governor (R81, R82) -/

section Rows
variable {s : State} {p : Fin 324} {mismatch : Bool}

theorem exec_kindlingWindowEnd_of_quiet (hin : cluInService s p = true) (hwindow : (arrSt s p).window = true)
    (hb : budget s p ≠ 0) : exec (.kindlingWindowEnd p) s =
      .next (setArr s p { arrSt s p with window := false, ramp := .down }) := by
  change execKindlingWindowEnd p s = _
  simp only [execKindlingWindowEnd, hin, hwindow, bne_iff_ne.mpr hb, Bool.and_self, if_true]

theorem exec_rampStep_of_notWorking (h : cluInService s p = false ∨ cluFailed s p = true) :
    exec (.rampStep p mismatch) s = .next s := by
  have hidle : (!cluInService s p || cluFailed s p) = true := by simpa using h
  change execRampStep p mismatch s = _
  simp only [execRampStep, hidle, if_true]

theorem exec_rampStep_of_working (hin : cluInService s p = true) (hok : cluFailed s p = false) :
    exec (.rampStep p mismatch) s = .next (rampOnce (rampLaunch mismatch s p) p) := by
  change execRampStep p mismatch s = _
  simp only [execRampStep, hin, hok, Bool.not_true, Bool.or_self, Bool.false_eq_true, if_false, rampLaunch]

end Rows

/-- A ramp step whose pair passes its check is a move of the governor, and a pair that it launches changes its array first. -/
theorem exec_rampStep_cases {s t : State} {p : Fin 324} (h : exec (.rampStep p false) s = .next t) :
    GovernorMove s p t ∨ ∃ a, GovernorMove (setArr s p a) p t := by
  by_cases hidle : cluInService s p = false ∨ cluFailed s p = true
  · rw [exec_rampStep_of_notWorking hidle] at h
    cases h
    exact .inl .stay
  · obtain ⟨hin, hok⟩ : cluInService s p = true ∧ cluFailed s p = false := by simpa using hidle
    rw [exec_rampStep_of_working hin hok] at h
    cases h
    by_cases hpair : budget s p = 0 ∨ kindleOn s = false
    · rw [rampLaunch_of_noPair hpair]
      exact .inl (rampOnce_governorMove s p)
    · obtain ⟨hb, hon⟩ : budget s p ≠ 0 ∧ kindleOn s = true := by simpa using hpair
      rw [rampLaunch_of_pair hb hon]
      exact .inr ⟨_, rampOnce_governorMove (kindlePair s p) p⟩

/-- Settles O34: a ramp step is a move of the governor, and neither its moves nor a pair before them touch the store or the
work. -/
theorem rampStepsMoveTheBudgetByOne : Obligations.RampStepsMoveTheBudgetByOne := by
  intro s t p h hb
  obtain hmove | ⟨a, hmove⟩ := exec_rampStep_cases h
  · obtain ⟨hup, hdown, hmax, hrise⟩ := hmove.budget_bounds hb
    exact ⟨hup, hdown, hmax, hrise, hmove.keepsStore p.isLt, hmove.keepsWork⟩
  · obtain ⟨hup, hdown, hmax, hrise⟩ := hmove.budget_bounds ((budget_setArr s p a).trans_le hb)
    rw [budget_setArr] at hup hdown hrise
    exact ⟨hup, hdown, hmax, hrise, sameStore_trans (sameStore_setArr s p a) (hmove.keepsStore p.isLt), hmove.keepsWork⟩

/-- Settles O33: the governor's step is `rampOnce`, which is the statement's in each of the four ways of moving; before it comes
the pair, launched as `rampLaunch_of_pair` says and failing as `kindleFails_of_on` says. -/
theorem rampEventsMoveTheGovernor : Obligations.RampEventsMoveTheGovernor := by
  intro s p once pair
  have honce (u : State) : rampOnce u p = once u := by
    cases hramp : (arrSt u p).ramp with
    | down => simp only [rampOnce_of_down hramp, once, hramp]
    | hold => simp only [rampOnce_of_hold hramp, once, hramp]
    | up => simp only [rampOnce_of_up hramp, once, hramp]
    | steady => simp only [rampOnce_of_steady hramp, once, hramp]
  refine ⟨exec_kindlingWindowEnd_of_quiet, fun hin hok => ⟨fun mismatch hnone => ?none, fun hb hon => ?passes,
    fun hb hon => ?fails⟩⟩
  case none => rw [exec_rampStep_of_working hin hok, rampLaunch_of_noPair hnone, honce]
  case passes =>
    rw [exec_rampStep_of_working hin hok, rampLaunch_of_pair hb hon, honce]
    rfl
  case fails =>
    rw [exec_rampStep_of_working hin hok, rampLaunch_of_pair hb hon, if_pos rfl, kindleFails_of_on hon, honce]
    rfl

end Sys2Proof.Proofs
end

/-! ## Matrix and vector commands (spec/04_matrix_vector_commands.md): what the rows of VEC land, and their elements -/

section
namespace Sys2Proof.Proofs
open Sys2Proof.Machine

/-! ## Elements of a VEC result (R103, R104) -/

section Elements
variable {s : State} {x : Nat} {d : Desc} {op : RingOp} {i j : Nat}

/-- The rows with one operand apply their function to A. -/
theorem vecValue_of_oneOperand (hop : op ∈ [RingOp.scale, .convert, .relu, .gelu, .silu] := by simp) :
    (vecValue s x op d i j).1 = elementwise op (vecImm0 d) (vecImm1 d)
      (vecElem s x (vecATid d) (vecA d) (vecRows d) (vecCols d) i j).1 .zero := by
  simp only [List.mem_cons, List.not_mem_nil, or_false] at hop
  obtain rfl | rfl | rfl | rfl | rfl := hop <;> rfl

/-- Where B has the shape of A, element (i, j) takes B's; in a single column j is 0, which is where the model reads B. -/
theorem vecValue_of_matrixB (hj : j < vecCols d)
    (hop : op ∈ [RingOp.add, .mul, .axpby, .reluBwd, .geluBwd, .siluBwd] := by simp) :
    (vecValue s x op d i j).1 = elementwise op (vecImm0 d) (vecImm1 d)
      (vecElem s x (vecATid d) (vecA d) (vecRows d) (vecCols d) i j).1
      (vecElem s x (vecBTid d) (vecB d) (vecRows d) (vecCols d) i j).1 := by
  have hcol : (if vecCols d = 1 then 0 else j) = j := by
    split
    · omega
    · rfl
  rw [← congrArg (vecElem s x (vecBTid d) (vecB d) (vecRows d) (vecCols d) i) hcol]
  simp only [List.mem_cons, List.not_mem_nil, or_false] at hop
  obtain rfl | rfl | rfl | rfl | rfl | rfl := hop <;> rfl

/-- Where B is a column, element (i, j) takes B's element of the row. -/
theorem vecValue_of_columnB (hop : op ∈ [RingOp.expSub, .rowdiv] := by simp) :
    (vecValue s x op d i j).1 = elementwise op (vecImm0 d) (vecImm1 d)
      (vecElem s x (vecATid d) (vecA d) (vecRows d) (vecCols d) i j).1
      (vecElem s x (vecBTid d) (vecB d) (vecRows d) 1 i 0).1 := by
  simp only [List.mem_cons, List.not_mem_nil, or_false] at hop
  obtain rfl | rfl := hop <;> rfl

end Elements

/-- Settles O21: the elementwise rows by the shape of their operand B; TRANSPOSE, RMSNORM and the row reductions are arms of
`vecValue` of their own. -/
theorem vectorResultsAreTheTables : Obligations.VectorResultsAreTheTables := by
  intro s x d i j hj a b b1 row
  exact ⟨vecValue_of_matrixB hj, vecValue_of_matrixB hj, vecValue_of_matrixB hj, vecValue_of_oneOperand,
    vecValue_of_oneOperand, rfl, vecValue_of_oneOperand, vecValue_of_oneOperand, vecValue_of_oneOperand, rfl,
    vecValue_of_matrixB hj, vecValue_of_matrixB hj, vecValue_of_matrixB hj, vecValue_of_columnB, vecValue_of_columnB, rfl, rfl⟩

/-! ## The rows of VEC whose result is a matrix, a column or a scalar (R102, R103) -/

/-- The rows whose result is a matrix or a column. -/
def vecMatrixRows : List (RingOp × (Cmd → Instr)) :=
  [(.add, .add), (.mul, .mul), (.axpby, .axpby), (.scale, .scale), (.convert, .convert), (.transpose, .transpose),
   (.relu, .relu), (.gelu, .gelu), (.silu, .silu), (.reluBwd, .reluBwd), (.geluBwd, .geluBwd), (.siluBwd, .siluBwd),
   (.rmsnorm, .rmsnorm), (.layernorm, .layernorm), (.rowmax, .rowmax), (.expSub, .expSub), (.rowsum, .rowsum),
   (.rowdiv, .rowdiv)]

/-- The rows whose result is one value. -/
def vecScalarRows : List (RingOp × (Cmd → Instr)) := [(.sum, .sum), (.sumsq, .sumsq), (.amax, .amax)]

/-- The rows and columns of D where it has any. -/
def vecMatrixShape (op : RingOp) (r c : Nat) : Nat × Nat :=
  match op with
  | .transpose => (c, r)
  | .rowmax | .rowsum => (r, 1)
  | _ => (r, c)

theorem vecRows_subset_ringRows : vecMatrixRows ++ vecScalarRows ⊆ ringRows none := by
  simp only [vecMatrixRows, vecScalarRows, ringRows, List.cons_append, List.nil_append, List.cons_subset, List.mem_cons,
    Prod.mk.injEq, reduceCtorEq, false_and, false_or, and_self, true_or, List.nil_subset]

theorem rowRun_of_vecRows : ∀ p ∈ vecMatrixRows ++ vecScalarRows, rowRun none p.1 = runVec p.1 := by
  intro p hp
  fin_cases hp <;> rfl

theorem exec_vec_of_starts {p : RingOp × (Cmd → Instr)} (hp : p ∈ vecMatrixRows ++ vecScalarRows) {c : Cmd} {s : State}
    (h : starts s p.1 c = true) : exec (p.2 c) s = .next (settle (runVec p.1 (workState s c) (workCmd s c))) := by
  rw [exec_of_starts (vecRows_subset_ringRows hp) h, rowRun_of_vecRows p hp]

theorem vecDShape_of_vecMatrixRows (r c : Nat) :
    ∀ p ∈ vecMatrixRows, vecDShape p.1 r c = some (vecMatrixShape p.1 r c) := by
  intro p hp
  fin_cases hp <;> rfl

theorem vecDShape_of_vecScalarRows (r c : Nat) : ∀ p ∈ vecScalarRows, vecDShape p.1 r c = none := by
  intro p hp
  fin_cases hp <;> rfl

section RunVec
variable {op : RingOp} {s : State} {o : OutCmd}

/-- A result of some shape is landed with the row statistics behind it. -/
theorem runVec_of_matrix {shape : Nat × Nat} (h : vecDShape op (vecRows o.d) (vecCols o.d) = some shape) :
    runVec op s o =
      let t := tensorAt s o.ctx (vecDTid o.d) (vecD o.d)
      let r := landTensor s o.ctx o.d.tag (evalPhase o.d) t
        (outVec s o.ctx (vecDTid o.d) (vecD o.d) shape.1 shape.2 (fun i j => i * vecCols o.d + j) (vecValue s o.ctx op o.d))
      let q := landOut r.1 o.ctx o.d.tag (evalPhase o.d)
        (outStats (vecStatAddr s o.ctx op o.d) (vecRowStats s o.ctx op o.d))
      if vecRows o.d = 0 ∨ vecCols o.d = 0 then complete s o stOk 0
      else complete q.1 o (workStatus (r.2.1 || q.2.1) (r.2.2 || q.2.2)) 0 := by
  simp only [runVec, h]
  exact if_congr vecZero_iff rfl rfl

theorem runVec_of_scalar (h : vecDShape op (vecRows o.d) (vecCols o.d) = none) :
    runVec op s o =
      let r := landOut s o.ctx o.d.tag (evalPhase o.d) (outStats (vecD o.d) [vecScalar s o.ctx op o.d])
      if vecRows o.d = 0 ∨ vecCols o.d = 0 then complete s o stOk 0
      else complete r.1 o (workStatus r.2.1 r.2.2) 0 := by
  simp only [runVec, h]
  exact if_congr vecZero_iff rfl rfl

end RunVec

/-- Settles O20: the rows run as `runVec`, whose two cases are those of D's shape. -/
theorem vectorCommandsLandTheirResults : Obligations.VectorCommandsLandTheirResults := by
  refine ⟨fun p hp c s h => ?matrix, fun p hp c s h => ?scalar⟩
  case matrix =>
    intro u o d shape t r q
    rw [exec_vec_of_starts (List.mem_append_left vecScalarRows hp) h,
      runVec_of_matrix (vecDShape_of_vecMatrixRows (vecRows d) (vecCols d) p hp)]
    rfl
  case scalar =>
    intro u o es v r
    rw [exec_vec_of_starts (List.mem_append_right vecMatrixRows hp) h,
      runVec_of_scalar (vecDShape_of_vecScalarRows (vecRows o.d) (vecCols o.d) p hp)]
    rfl

/-! ## The norm-backward rows (R103, R228) -/

/-- The rows that send a norm's gradient back, and whether the norm removes the mean. -/
def normBwdRows : List (RingOp × (Cmd → Instr) × Bool) :=
  [(.rmsnormBwd, .rmsnormBwd, false), (.layernormBwd, .layernormBwd, true)]

theorem exec_normBwd_of_starts {p : RingOp × (Cmd → Instr) × Bool} (hp : p ∈ normBwdRows) {c : Cmd} {s : State}
    (h : starts s p.1 c = true) :
    exec (p.2.1 c) s = .next (settle (runNormBwd p.2.2 (workState s c) (workCmd s c))) := by
  fin_cases hp
  · exact congrArg Host.Outcome.next (ringRow_of_starts (runNormBwd false) h)
  · exact congrArg Host.Outcome.next (ringRow_of_starts (runNormBwd true) h)

/-- Settles O22: both rows run as `runNormBwd`, whose test for no work is the statement's (`vecZero_iff`). -/
theorem normBackwardLandsItsGradients : Obligations.NormBackwardLandsItsGradients := by
  intro p hp c s h u o b ns bad gain bias t r q
  rw [exec_normBwd_of_starts hp h]
  exact congrArg (Host.Outcome.next ∘ settle) (if_congr vecZero_iff rfl rfl)

/-! ## TOPK and the two rows of DISTILL_GRAD (R199 to R207) -/

section Distill
variable {s : State} {c : Cmd}

theorem exec_topk_of_starts (h : starts s .topk c = true) :
    exec (.topk c) s = .next (settle (runTopk (workState s c) (workCmd s c))) :=
  congrArg Host.Outcome.next (ringRow_of_starts runTopk h)

/-- The row of GRAD does nothing for a block of another mode (log entry 10). -/
theorem exec_distillGradGrad_of_otherMode (hm : rowMode c s ≠ 1) : exec (.distillGradGrad c) s = .next s :=
  congrArg Host.Outcome.next (if_neg hm)

/-- The row of STATS does nothing for a block of mode GRAD (log entry 10). -/
theorem exec_distillGradStats_of_grad (hm : rowMode c s = 1) : exec (.distillGradStats c) s = .next s :=
  congrArg Host.Outcome.next (if_pos hm)

/-- The row of GRAD runs the gradient's pass where the block still says GRAD as the command starts. -/
theorem exec_distillGradGrad_of_starts (h : starts s .distillStats c = true) (hm : rowMode c s = 1)
    (hb : dgMode (distillBlock (workState s c) (workCmd s c).d) = 1) :
    exec (.distillGradGrad c) s = .next (settle (runDistillGrad (workState s c) (workCmd s c))) := by
  change Host.Outcome.next (if rowMode c s = 1 then ringRow .distillStats runDistill c s else s) = _
  rw [if_pos hm, ringRow_of_starts runDistill h, runDistill, if_pos hb]

/-- The row of STATS runs the statistics' pass where the block does not say GRAD as the command starts. -/
theorem exec_distillGradStats_of_starts (h : starts s .distillStats c = true) (hm : rowMode c s ≠ 1)
    (hb : dgMode (distillBlock (workState s c) (workCmd s c).d) ≠ 1) :
    exec (.distillGradStats c) s = .next (settle (runDistillStats (workState s c) (workCmd s c))) := by
  change Host.Outcome.next (if rowMode c s = 1 then s else ringRow .distillStats runDistill c s) = _
  rw [if_neg hm, ringRow_of_starts runDistill h, runDistill, if_neg hb]

end Distill

/-- Settles O23: each row runs its own pass, whose test for no work is the statement's (`vecZero_iff`); a row of DISTILL_GRAD is
idle where its block names the other mode. -/
theorem topkAndDistillRunTheirPasses : Obligations.TopkAndDistillRunTheirPasses := by
  intro c s
  refine ⟨fun h => ?topk, exec_distillGradGrad_of_otherMode, exec_distillGradStats_of_grad, fun h => ?distill⟩
  case topk =>
    rw [exec_topk_of_starts h]
    exact congrArg (Host.Outcome.next ∘ settle) (if_congr vecZero_iff rfl rfl)
  case distill =>
    have hwork {d : Desc} : vecZero d = true ↔ decide (vecRows d = 0 ∨ vecCols d = 0) = true :=
      vecZero_iff.trans decide_eq_true_iff.symm
    refine ⟨fun hm hb => ?stats, fun hm hb => ?grad⟩
    case stats =>
      rw [exec_distillGradStats_of_starts h hm hb]
      exact congrArg (Host.Outcome.next ∘ settle) (if_congr hwork rfl rfl)
    case grad =>
      rw [exec_distillGradGrad_of_starts h hm hb]
      exact congrArg (Host.Outcome.next ∘ settle) (if_congr hwork rfl rfl)

end Sys2Proof.Proofs
end

/-! ## Attention and the key-value cache (spec/05_attention_kv.md): what the rows of ATTN land -/

section
namespace Sys2Proof.Proofs
open Sys2Proof.Machine

/-! ## A row that is one `ringRow` and whose command starts (R295) -/

theorem exec_of_ringRow {i : Instr} {op : RingOp} {run : State → OutCmd → State} {c : Cmd} {s : State}
    (hi : exec i s = .next (ringRow op run c s)) (h : starts s op c = true) :
    exec i s = .next (settle (run (workState s c) (workCmd s c))) := by
  rw [hi, ringRow_of_starts run h]

/-! ## The rows of ATTN with no sequence (R111) -/

/-- The rows of ATTN. -/
def attnRows : List (RingOp × (Cmd → Instr)) :=
  [(.fwd, .fwd), (.bwd, .bwd), (.bwdP, .bwdP), (.append, .append), (.attnCombine, .attnCombine)]

theorem attnRows_subset_ringRows : attnRows ⊆ ringRows none := by
  simp only [attnRows, ringRows, List.cons_append, List.nil_append, List.cons_subset, List.mem_cons, Prod.mk.injEq, reduceCtorEq,
    false_and, false_or, and_self, true_or, List.nil_subset]

theorem exec_attn_of_starts {p : RingOp × (Cmd → Instr)} (hp : p ∈ attnRows) {c : Cmd} {s : State}
    (h : starts s p.1 c = true) :
    exec (p.2 c) s = .next (settle (rowRun none p.1 (workState s c) (workCmd s c))) :=
  exec_of_starts (attnRows_subset_ringRows hp) h

section NoSequence
variable {s : State} {o : OutCmd} (h : atSeqs s o.ctx o.d = [])
include h

theorem runFwd_of_noSequence : runFwd s o = complete s o stOk 0 := by
  rw [runFwd, h]
  rfl

theorem runBwd_of_noSequence (fromStore : Bool) : runBwd fromStore s o = complete s o stOk 0 := by
  rw [runBwd, h]
  rfl

theorem runAppend_of_noSequence : runAppend s o = complete s o stOk 0 := by
  rw [runAppend, h]
  rfl

theorem runCombine_of_noSequence : runCombine s o = complete s o stOk 0 := by
  rw [runCombine, h]
  rfl

theorem rowRun_attn_of_noSequence : ∀ p ∈ attnRows, rowRun none p.1 s o = complete s o stOk 0 := by
  simp only [attnRows, List.forall_mem_cons]
  exact ⟨runFwd_of_noSequence h, runBwd_of_noSequence h false, runBwd_of_noSequence h true, runAppend_of_noSequence h,
    runCombine_of_noSequence h, fun _ hp => nomatch hp⟩

end NoSequence

/-! ## FWD (R114 to R117, R124) -/

section Fwd
variable (s : State) (o : OutCmd)

/-- The rows of FWD, head chunk by head chunk, with their running states. -/
def fwdRows : List (Nat × Nat × FwdRow) :=
  (atChunks s o.ctx o.d (cacheAt s (atCache o.d)) false).flatMap fun ch => (List.range ch.n).map fun i =>
    (ch.head, ch.row + i, fwdRow s o.ctx o.d (cacheAt s (atCache o.d)) ch (ch.row + i))

/-- The running state of row r of head h. -/
def fwdRowAt (h r : Nat) : FwdRow := (findRow (fwdRows s o) h r).getD ⟨.zero, .zero, [], false, []⟩

/-- O's values, in O's format. -/
def fwdWhole : Out :=
  opOut s (tensorAt s o.ctx (atOTid o.d) (opbAt s o.d 0)) (srKey s o.ctx (atOTid o.d)) (cacheAt s (atCache o.d)).d (atRows o.d)
    (opbAt s o.d 0) (atHeads o.d) (rowLive (atSeqs s o.ctx o.d) o.d (atG o.d)) fun h r i =>
      ((fwdOut (fwdRowAt s o h r)).1.getD i .zero, (fwdRowAt s o h r).bad)

/-- The row statistic of each row. -/
def fwdStats : Out :=
  Out.concat ((fwdRows s o).map fun p =>
    outF32 (opbAt s o.d 1 + 4 * (p.1 * atRows o.d + p.2.1)) [((fwdOut p.2.2).2, p.2.2.bad)])

/-- The unnormalised sums, in FP32; their statistics count for no tensor. -/
def fwdSums : Out :=
  { opOut s f32Tensor 0 (cacheAt s (atCache o.d)).d (atRows o.d) (opbAt s o.d 0) (atHeads o.d)
      (rowLive (atSeqs s o.ctx o.d) o.d (atG o.d)) (fun h r i =>
        ((fwdRowAt s o h r).acc.getD i .zero, (fwdRowAt s o h r).bad)) with stats := Stats.empty }

/-- The pair (m, l) of each row. -/
def fwdPairs : Out :=
  Out.concat ((fwdRows s o).map fun p =>
    outF32 (opbAt s o.d 1 + 8 * (p.1 * atRows o.d + p.2.1)) [(p.2.2.m, p.2.2.bad), (p.2.2.l, p.2.2.bad)])

/-- One block of the probability store: the key codes of a chunk's rows, then their running maxima (R124). -/
def fwdStoreBlock (q : Chunk × Nat) (b : Nat) : Out :=
  let rows := (List.range q.1.n).map fun i => fwdRowAt s o q.1.head (q.1.row + i)
  let img := (rows.flatMap fun f => (f.log.getD b ([], .zero)).1.map (BitVec.ofNat 8))
    ++ rows.flatMap fun f => leBytes 4 (bits32 (f.log.getD b ([], .zero)).2)
  outBytes (q.2 + b * storeBlock q.1.n) (img ++ List.replicate (storeBlock q.1.n - img.length) 0) (rows.any (·.bad))

/-- The probability store, where SAVE_P asks for it. -/
def fwdStore : Out :=
  if atSaveP o.d then
    Out.concat ((storeOffsets o.d (cacheAt s (atCache o.d)) (opbAt s o.d 2)
      (atChunks s o.ctx o.d (cacheAt s (atCache o.d)) false)).flatMap fun q =>
        (List.range (chunkBlocks o.d (cacheAt s (atCache o.d)) q.1).length).map (fwdStoreBlock s o q))
  else Out.empty

/-- A landed result and landed statistics are FWD's end. -/
def fwdEnd (r : State × Bool × Bool) : State := complete (touchArray r.1 o.d) o (workStatus r.2.1 r.2.2) 0

variable {s o}

theorem runFwd_of_whole (hseq : atSeqs s o.ctx o.d ≠ []) (hp : atPartial o.d = false) : runFwd s o =
    fwdEnd o (landAttn s o (some (tensorAt s o.ctx (atOTid o.d) (opbAt s o.d 0))) (fwdWhole s o)
      ((fwdStats s o).join (fwdStore s o))) := by
  rw [runFwd, if_neg (mt List.isEmpty_iff.mp hseq), hp]
  rfl

theorem runFwd_of_partial (hseq : atSeqs s o.ctx o.d ≠ []) (hp : atPartial o.d = true) : runFwd s o =
    fwdEnd o (landAttn s o none (fwdSums s o) ((fwdPairs s o).join (fwdStore s o))) := by
  rw [runFwd, if_neg (mt List.isEmpty_iff.mp hseq), hp]
  rfl

end Fwd

/-! ## BWD and BWD_P (R122 to R124) -/

/-- The rows that send attention's gradient back, and whether they read the probability store. -/
def attnBwdRows : List (RingOp × (Cmd → Instr) × Bool) := [(.bwd, .bwd, false), (.bwdP, .bwdP, true)]

theorem exec_attnBwd_of_starts {p : RingOp × (Cmd → Instr) × Bool} (hp : p ∈ attnBwdRows) {c : Cmd} {s : State}
    (h : starts s p.1 c = true) :
    exec (p.2.1 c) s = .next (settle (runBwd p.2.2 (workState s c) (workCmd s c))) := by
  fin_cases hp
  · exact exec_of_ringRow rfl h
  · exact exec_of_ringRow rfl h

/-- Settles O25: FWD is `runFwd`'s two cases, where SAVE_P chooses what joins the statistics; both backward rows run as
`runBwd`, whose work past the test for sequences is the statement's. -/
theorem attentionForwardAndBackwardLand : Obligations.AttentionForwardAndBackwardLand := by
  intro c s u o d x k live hseq
  refine ⟨fun h => ?fwd, fun p hp h => ?bwd⟩
  case fwd =>
    intro chs rs row t store save
    have hsave (stats : Out) : stats.join (fwdStore u o) = save stats := by
      simp only [fwdStore, save]
      split <;> rfl
    rw [exec_of_ringRow (i := .fwd c) (run := runFwd) rfl h]
    refine ⟨fun hp => ?whole, fun hp => ?part⟩
    case whole =>
      rw [runFwd_of_whole hseq hp, hsave]
      rfl
    case part =>
      rw [runFwd_of_partial hseq hp, hsave]
      rfl
  case bwd =>
    rw [exec_attnBwd_of_starts hp h, runBwd, if_neg (mt List.isEmpty_iff.mp hseq)]

/-! ## APPEND and COMBINE (R117, R126) -/

/-- Settles O26: with no sequence every row of ATTN is done (`rowRun_attn_of_noSequence`); with one, APPEND and COMBINE do the
work that follows the test. -/
theorem attentionAppendAndCombineLand : Obligations.AttentionAppendAndCombineLand := by
  intro c s u o d k seqs
  refine ⟨fun p hp h hnone => ?none, fun h hseq => ?append, fun h hseq => ?combine⟩
  case none => rw [exec_attn_of_starts hp h, rowRun_attn_of_noSequence hnone p hp]
  case append =>
    rw [exec_of_ringRow (i := .append c) (run := runAppend) rfl h, runAppend, if_neg (mt List.isEmpty_iff.mp hseq)]
  case combine =>
    rw [exec_of_ringRow (i := .attnCombine c) (run := runCombine) rfl h, runCombine, if_neg (mt List.isEmpty_iff.mp hseq)]
    rfl

end Sys2Proof.Proofs
end

/-! ## The ring processor's own rows (R130, R219, R300, R305, R365, R372): SYNC, STEP, ADMIT, TAKE, INVOKE and
RESTORE -/

section
namespace Sys2Proof.Proofs
open Sys2Proof.Machine

/-! ## SYNC (R269, R300, R301) -/

section Sync
variable (s : State) (o : OutCmd)

/-- The command as it stands at its fence, which covers every posted write issued before. -/
def atFence : OutCmd := { o with st := .syncFence, seqNo := s.nextId }

/-- The command past its fence, where it has one. -/
def pastFence : OutCmd := if syFence o.d then atFence s o else o

@[simp] theorem pastFence_d : (pastFence s o).d = o.d := by
  unfold pastFence
  split <;> rfl

@[simp] theorem pastFence_ctx : (pastFence s o).ctx = o.ctx := by
  unfold pastFence
  split <;> rfl

@[simp] theorem pastFence_ring : (pastFence s o).ring = o.ring := by
  unfold pastFence
  split <;> rfl

variable {s o}

theorem runSync_of_barrier (h : (syBarrier o.d && !(earlierOuts s o).isEmpty) = true) :
    runSync s o = putOut s { o with st := .syncBarrier } := by
  rw [runSync, if_pos h]

theorem runSync_of_noBarrier (h : (syBarrier o.d && !(earlierOuts s o).isEmpty) = false) : runSync s o = enterFence s o := by
  rw [runSync, if_neg (Bool.eq_false_iff.mp h)]

theorem enterFence_of_fence (hf : syFence o.d = true) : enterFence s o =
    if fenceClear s (atFence s o) then passFence s (atFence s o) else putOut s (atFence s o) := by
  rw [enterFence, if_pos hf]
  rfl

theorem enterFence_of_notClear (hf : syFence o.d = true) (hc : fenceClear s (atFence s o) = false) :
    enterFence s o = putOut s (atFence s o) := by
  rw [enterFence_of_fence hf, if_neg (Bool.eq_false_iff.mp hc)]

theorem enterFence_of_remotePoisoned (hf : syFence o.d = true) (hc : fenceClear s (atFence s o) = true)
    (hr : remotePoisoned s o.ctx = true) : enterFence s o = complete s (atFence s o) stRemoteFail 0 := by
  rw [enterFence_of_fence hf, if_pos hc, passFence]
  exact if_pos hr

/-- With no fence, or past one that finds nothing wrong, the command comes to its wait. -/
theorem enterFence_of_passes
    (h : syFence o.d = true → fenceClear s (atFence s o) = true ∧ remotePoisoned s o.ctx = false) :
    enterFence s o = enterWait s (pastFence s o) := by
  cases hf : syFence o.d with
  | false =>
    rw [enterFence, pastFence, hf]
    rfl
  | true =>
    obtain ⟨hc, hr⟩ := h hf
    rw [enterFence_of_fence hf, if_pos hc, passFence, pastFence, hf]
    exact if_neg (Bool.eq_false_iff.mp hr)

theorem enterWait_of_unmet (h : waitMetNow s o.d = false) : enterWait s o = putOut s { o with st := .syncWait } := by
  rw [enterWait, if_neg (Bool.eq_false_iff.mp h)]

theorem enterWait_of_met (h : waitMetNow s o.d = true) : enterWait s o = finishSync s o := by
  rw [enterWait, if_pos h]

/-- The state once a SYNC has marked its layer, where it marks one. -/
def syncLayered (s : State) (o : OutCmd) : State := if syLayer o.d then layerMark (doSignal s o) o.ctx else doSignal s o

/-- The state once a SYNC has signalled, marked its layer and selected its map. -/
def syncDone (s : State) (o : OutCmd) : State :=
  if syMapSet o.d then modRing (syncLayered s o) o.ctx o.ring fun r => { r with map := syMap o.d } else syncLayered s o

theorem finishSync_eq : finishSync s o = complete (syncDone s o) o stOk 0 := rfl

/-- A fence changes nothing of what a SYNC does at its end. -/
theorem syncDone_pastFence : syncDone s (pastFence s o) = syncDone s o := by
  simp only [syncDone, syncLayered, doSignal, pastFence_d, pastFence_ctx, pastFence_ring]

end Sync

/-! ## TAKE and RESTORE (R365, R366, R371, R372) -/

section Snap
variable {s : State} {o : OutCmd}

/-- A TAKE waits for the stream that runs. -/
theorem runTake_of_stream (h : (ctx (putOut s { o with st := .streaming }) o.ctx).stream.isSome = true) :
    runTake s o = putOut s { o with st := .streaming } := by
  rw [runTake, if_pos h]

theorem runTake_of_noStream (h : (ctx (putOut s { o with st := .streaming }) o.ctx).stream = none) :
    let v := putOut s { o with st := .streaming }
    runTake s o = takeCut v o.ctx (some o.ident) (snFull o.d || listChanged v o.ctx) := by
  rw [runTake, h]
  rfl

variable {failsAt : Option Nat}

theorem runRestore_of_noGen (h : restoreGen (abortOthers s o) o.ctx o.d = none) :
    runRestore failsAt s o = complete (abortOthers s o) o stBadDesc 0 := by
  rw [runRestore, h]
  rfl

theorem runRestore_of_notBacked {g : Gen} (h : restoreGen (abortOthers s o) o.ctx o.d = some g)
    (hb : backPages (abortOthers s o) o.ctx (genPages (abortOthers s o) g) = none) :
    runRestore failsAt s o = complete (abortOthers s o) o stQuota 0 := by
  rw [runRestore, h, restoreWith, hb]
  rfl

end Snap

theorem runInvoke_of_prog {s : State} {o : OutCmd} {p : Prog} (h : progOf s o.ctx (callProg o.d) = some p) :
    runInvoke s o = putOut s { o with st := .call 0 p.count none false } := by
  rw [runInvoke, h]

theorem exec_invoke_of_starts {c : Cmd} {ev : List ArrEvent} {s : State} (h : starts (strike s ev) .invoke c = true) :
    exec (.invoke ⟨c, ev⟩) s = .next (settle (runInvoke (workState (strike s ev) c) (workCmd (strike s ev) c))) :=
  congrArg Host.Outcome.next (ringRowWith_of_starts runInvoke h)

/-- Settles O28: each row runs its operation, and a SYNC goes from its barrier to its fence, its wait and its end
(`runSync_of_noBarrier`, `enterFence_of_passes`, `enterWait_of_met`). -/
theorem ringProcessorRowsBegin : Obligations.RingProcessorRowsBegin := by
  intro c s failsAt ev u o d x fenced barrier clear met signalled layered mapped
  refine ⟨fun h => ?sync, fun h => ?step, fun h => ?pools, fun h => ?take, fun p h hp => ?invoke, fun h => ?restore⟩
  case sync =>
    rw [exec_of_ringRow (i := .sync c) (run := runSync) rfl h]
    refine ⟨fun hb => ?barrier, fun hb hf hc => ?fence, fun hb hf hc hr => ?poisoned, fun q hb hpass hq => ?past⟩
    case barrier => rw [runSync_of_barrier hb]
    case fence =>
      rw [runSync_of_noBarrier hb, enterFence_of_notClear hf hc]
      rfl
    case poisoned =>
      rw [runSync_of_noBarrier hb, enterFence_of_remotePoisoned hf hc hr]
      rfl
    case past =>
      obtain rfl : q = pastFence u o := hq
      rw [runSync_of_noBarrier hb, enterFence_of_passes hpass]
      refine ⟨fun hm => ?wait, fun hm => ?ends⟩
      case wait => rw [enterWait_of_unmet ((congrArg (waitMetNow u) (pastFence_d u o)).trans hm)]
      case ends =>
        have hmapped : syncDone u o = mapped := rfl
        rw [enterWait_of_met ((congrArg (waitMetNow u) (pastFence_d u o)).trans hm), finishSync_eq, syncDone_pastFence,
          hmapped]
  case step => rw [exec_of_ringRow (i := .step c) (run := runStep) rfl h, runStep]
  case pools =>
    rw [exec_of_ringRow (i := .admitTable c) (run := runAdmit) rfl h]
    rfl
  case take =>
    rw [exec_of_ringRow (i := .take c) (run := runTake) rfl h]
    intro v
    refine ⟨fun hs => ?waits, fun hs => ?cuts⟩
    case waits => rw [runTake_of_stream hs]
    case cuts =>
      rw [runTake_of_noStream hs]
      rfl
  case invoke => rw [exec_invoke_of_starts h, runInvoke_of_prog hp]
  case restore =>
    rw [exec_of_ringRow (i := .restore c failsAt) (run := runRestore failsAt) rfl h]
    exact ⟨fun hg => by rw [runRestore_of_noGen hg], fun g hg hb => by rw [runRestore_of_notBacked hg hb]⟩

end Sys2Proof.Proofs
end

/-! ## Tier events (spec/06_memory_tiers.md): the record of a failed request -/

section
namespace Sys2Proof.Proofs
open Sys2Proof.Machine Sys2Proof.Laws

/-! ## The sources of the tiers (R354) -/

/-- A SOURCE is a unit kind of 4 bits and an index of 12 bits. -/
theorem srcOf_lt {kind : Nat} (i : Nat) (hk : kind < 2 ^ 4) : srcOf kind i < 2 ^ 16 := by
  have hi : i % 2 ^ 12 < 2 ^ 12 := Nat.mod_lt _ (by decide)
  rw [srcOf]
  omega

theorem tierSource_lt (s : State) (a : Nat) : tierSource s a < 2 ^ 16 := by
  unfold tierSource
  extract_lets e h
  split
  case h_1 => exact srcOf_lt _ (by decide)
  case h_2 => exact srcOf_lt _ (by decide)
  case h_5 => exact srcOf_lt _ (by decide)
  all_goals
    split
    · exact srcOf_lt _ (by decide)
    · exact srcOf_lt _ (by decide)

/-! ## Settling where nothing can go on -/

/-- Nothing can go on by itself: no command is outstanding, no key waits for its erasure, and no context has an ember object or
wants one. -/
structure Idle (s : State) : Prop where
  outs : s.outs = []
  erases : s.sec.erases = []
  embers : ∀ p ∈ s.ctxs, p.2.embers = []
  wants : ∀ x, (ctx s x).wants = []

theorem idle_of_eq {s t : State} (h : Idle s) (houts : t.outs = s.outs) (hsec : t.sec = s.sec) (hctxs : t.ctxs = s.ctxs) :
    Idle t where
  outs := houts.trans h.outs
  erases := hsec ▸ h.erases
  embers := hctxs ▸ h.embers
  wants x := by
    rw [ctx, hctxs]
    exact h.wants x

/-- Storing a register starts nothing. -/
theorem idle_setReg {s : State} (h : Idle s) (r : Reg) (v : Word) : Idle (setReg s r v) :=
  idle_of_eq h (setReg_outs s r v) (setReg_sec s r v) (setReg_ctxs s r v)

/-- Reporting starts nothing. -/
theorem idle_addReport {s : State} (h : Idle s) (agg : Nat) (e : MergeEntry) : Idle (addReport s agg e) :=
  idle_of_eq h (addReport_outs s agg e) (addReport_sec s agg e) (addReport_ctxs s agg e)

/-- A failed request, counted and reported, starts nothing. -/
theorem idle_reported {s : State} (h : Idle s) (r : Reg) (agg : Nat) (e : MergeEntry) : Idle (addReport (bump s r) agg e) :=
  idle_addReport (idle_setReg h r _) agg e

theorem returnEmbers_of_idle {s : State} (h : Idle s) : returnEmbers s = s := by
  unfold returnEmbers
  refine List.foldlRecOn (motive := fun t => t = s) s.ctxs _ rfl fun t ht p hp => ?_
  rw [h.embers p hp]
  exact ht

/-- With nothing wanted, a context's wants are cleared. -/
theorem beginWants_of_noWant {s : State} {x : Nat} (h : (ctx s x).wants = []) :
    beginWants s x = modCtx s x fun c => { c with wants := [] } := by
  rw [beginWants, h, List.foldl_nil]

theorem wants_clearWants {s : State} (h : ∀ x, (ctx s x).wants = []) (x y : Nat) :
    (ctx (modCtx s x fun c => { c with wants := [] }) y).wants = [] := by
  simp only [ctx, modCtx, setCtx, smGet_smSet]
  split
  · rfl
  · exact h y

/-- What settling an idle state leaves: nothing is outstanding, nothing waits for its erasure, nothing is wanted, and the merge
tables are those it had. -/
def StaysIdle (s t : State) : Prop :=
  t.outs = [] ∧ t.sec.erases = [] ∧ (∀ x, (ctx t x).wants = []) ∧ t.merges = s.merges

theorem foldl_beginWants_of_idle {s : State} (h : Idle s) (xs : List Nat) : StaysIdle s (xs.foldl beginWants s) := by
  refine List.foldlRecOn (motive := StaysIdle s) xs _ ⟨h.outs, h.erases, h.wants, rfl⟩ fun t ht x _ => ?_
  obtain ⟨houts, herases, hwants, hmerges⟩ := ht
  rw [beginWants_of_noWant (hwants x)]
  exact ⟨houts, herases, wants_clearWants hwants x, hmerges⟩

theorem settleN_of_noOuts {s : State} (h : s.outs = []) (n : Nat) : settleN n s = s := by
  cases n with
  | zero => rfl
  | succ n => simp only [settleN, h, List.findSome?_nil]

theorem eraseDue_of_noErases {s : State} (h : s.sec.erases = []) : eraseDue s = s := by
  simp only [eraseDue, h, List.filter_nil, List.foldl_nil]

/-- Settling an idle state changes no merge table. -/
theorem merges_settle_of_idle {s : State} (h : Idle s) : (settle s).merges = s.merges := by
  obtain ⟨houts, herases, -, hmerges⟩ := foldl_beginWants_of_idle h (s.ctxs.map Prod.fst)
  rw [settle, returnEmbers_of_idle h]
  split
  · rw [eraseDue_of_noErases h.erases]
  · rw [settleN_of_noOuts houts, eraseDue_of_noErases herases, hmerges]

/-! ## A failed tier request (R169, R354) -/

/-- The first report that reaches an aggregator stands in its merge table as it came. -/
theorem smGet_addReport_of_noMerges {s : State} (h : s.merges = []) (agg : Nat) (e : MergeEntry) :
    smGet [] (addReport s agg e).merges agg = [e] := by
  have hcap : 0 < mergeCap agg := by
    unfold mergeCap
    split
    · decide
    · split <;> decide
  simp only [addReport, h, smGet_smSet_same, smGet_nil, mergeInto, List.any_nil, Bool.false_eq_true, if_false,
    List.length_nil, hcap, if_true, List.nil_append]

/-- The first report that reaches an aggregator can be told from its merge table. -/
theorem eq_of_addReport_merges_eq {s : State} (h : s.merges = []) {agg : Nat} {e f : MergeEntry}
    (heq : (addReport s agg e).merges = (addReport s agg f).merges) : e = f := by
  have hlists : [e] = [f] := by
    rw [← smGet_addReport_of_noMerges h agg e, heq, smGet_addReport_of_noMerges h agg f]
  exact List.head_eq_of_cons_eq hlists

/-- The request for a page of a DDR pool fails as the model says (R133). -/
theorem exec_tierTimeout_spill {s : State} {x : Fin 64} {a : Addr}
    (h : ((ctx s x.val).pools.any fun p => decide (p.ddr ≤ a.toNat) && decide (a.toNat < p.ddr + p.ddrLen)) = true) :
    exec (.tierTimeout x (.spill a)) s = .next (settle (requestFails s x.val a.toNat 0)) :=
  congrArg (Host.Outcome.next ∘ settle) (if_pos h)

/-- Context 0 after reset, with a cache whose DDR pool lies at 0x200000200000. -/
def poolInDdr : State :=
  modCtx State.reset 0 fun c =>
    { c with pools := [⟨0, 0x100000300000, 0x100000600000, 0x200000, 0x200000200000, 0x200000, []⟩] }

theorem idle_poolInDdr : Idle poolInDdr where
  outs := rfl
  erases := rfl
  embers := by decide
  wants x := by
    simp only [poolInDdr, ctx, modCtx, setCtx, smGet_smSet]
    split <;> rfl

/-- Refutes O42: the record of a failed request carries the device address in INFO (R354, R355), where the statement's `fail`
puts the SOURCE of the tier. A page of a DDR pool whose spill fails shows it: its address is above every SOURCE. -/
theorem not_tierEventsAct : ¬ Obligations.TierEventsAct := by
  intro h
  obtain ⟨-, -, -, -, -, -, -, -, -, hspill, -⟩ := h poolInDdr 0
  have hpool : ((ctx poolInDdr 0).pools.any fun p => decide (p.ddr ≤ (0x200000210000 : Addr).toNat)
      && decide ((0x200000210000 : Addr).toNat < p.ddr + p.ddrLen)) = true := by decide
  have hsettled := Host.Outcome.next.inj
    ((exec_tierTimeout_spill (x := 0) hpool).symm.trans (hspill 0x200000210000 hpool))
  have hmerges := congrArg State.merges hsettled
  rw [requestFails, tierFailed, merges_settle_of_idle (idle_reported idle_poolInDdr _ _ _),
    merges_settle_of_idle (idle_reported idle_poolInDdr _ _ _)] at hmerges
  have hinfo : (0x200000210000 : Addr).toNat = tierSource poolInDdr (0x200000210000 : Addr).toNat :=
    congrArg MergeEntry.info (eq_of_addReport_merges_eq rfl hmerges)
  exact absurd (hinfo.trans_lt (tierSource_lt poolInDdr _)) (by simp)

end Sys2Proof.Proofs
end

/-! ## Memory and its tiers (spec/06_memory_tiers.md): the state after reset, stored bytes, and completion records -/

section
namespace Sys2Proof.Proofs
open Sys2Proof.Machine Sys2Proof.Laws

/-- Settles O4: after reset nothing is listed, and the battery log is empty. -/
theorem resetIsCanonical : Obligations.ResetIsCanonical := ⟨rfl, rfl, rfl, Nat.zero_le _⟩

/-! ## Stored bytes (R22, R140) -/

/-- Setting a run of keys one after another: each reads what it was set to, and the others read as before. -/
theorem smGet_foldl_smSet_range {α : Type} [DecidableEq α] (d : α) (m : List (Nat × α)) (a : Nat) (f : Nat → α) (n b : Nat) :
    smGet d ((List.range n).foldl (fun m i => smSet d m (a + i) (f i)) m) b
      = if a ≤ b ∧ b < a + n then f (b - a) else smGet d m b := by
  induction n with
  | zero => exact (if_neg (by omega)).symm
  | succ n ih =>
    rw [List.range_succ, List.foldl_append, List.foldl_cons, List.foldl_nil, smGet_smSet]
    by_cases hb : b = a + n
    · rw [if_pos hb, if_pos (by omega), hb, Nat.add_sub_cancel_left]
    · rw [if_neg hb, ih]
      exact if_congr (by omega) rfl rfl

/-- Nothing of a store at addresses that are their own homes is moved or refused. -/
theorem writable_of_ownHomes {s : State} {cells : List Host.Cell}
    (h : ∀ c ∈ cells, resolve s c.1 = c.1 ∧ exhausted s c.1 = false) : writable s cells = cells := by
  have hhomes : cells.map (fun c => (resolve s c.1, c.2)) = cells.map id :=
    List.map_congr_left fun c hc => Prod.ext (h c hc).1 rfl
  rw [writable, hhomes, List.map_id]
  exact List.filter_eq_self.mpr fun c hc => by rw [(h c hc).2, Bool.not_false]

/-- A store changes no register. -/
theorem storeBytes_regs (s : State) (a : Nat) (bs : List Byte) : (storeBytes s a bs).regs = s.regs := storeCells_regs s _ []

/-- The bytes of memory after a store of consecutive bytes at their own homes. -/
theorem storeBytes_mem {s : State} {a : Nat} {bs : List Byte}
    (h : ∀ i, i < bs.length → resolve s (a + i) = a + i ∧ exhausted s (a + i) = false) :
    (storeBytes s a bs).mem = (List.range bs.length).foldl (fun m i => smSet 0 m (a + i) (bs.getD i 0)) s.mem := by
  have hcells : ∀ c ∈ (List.range bs.length).map fun i => (a + i, bs.getD i 0),
      resolve s c.1 = c.1 ∧ exhausted s c.1 = false := fun c hc => by
    obtain ⟨i, hi, rfl⟩ := List.mem_map.mp hc
    exact h i (List.mem_range.mp hi)
  rw [storeBytes, storeCells_mem, writable_of_ownHomes hcells, List.foldl_map]
  refine List.foldl_ext _ _ _ fun m i hi => ?_
  rw [(h i (List.mem_range.mp hi)).1]

/-- Settles O9: the store sets the run of its bytes, key by key. -/
theorem storedBytesReadBack : Obligations.StoredBytesReadBack := by
  intro s a bs x h
  rw [readByte, readByte, resolve_of_regs (storeBytes_regs s a bs), storeBytes_mem h, smGet_foldl_smSet_range]

end Sys2Proof.Proofs
end

section
namespace Sys2Proof.Proofs
open Sys2Proof.Machine Sys2Proof.Laws

/-! ## What the end of a command leaves alone (R148, R214, R312, R320) -/

/-- Whatever no mark of its context changes, the marks of a command's code leave. -/
theorem markOutcome_eq_of_addMark {α : Type} (f : State → α) {o : OutCmd} (h : ∀ s m, f (addMark s o.ctx m) = f s) (s : State)
    (st : Nat) : f (markOutcome s o st) = f s := by
  unfold markOutcome
  extract_lets s1
  have h1 : f s1 = f s := by
    unfold s1
    split
    · exact h s _
    · rfl
  split
  · exact (h s1 _).trans h1
  · exact h1

section Backing
variable {α : Type} (f : State → α) {x : Nat} (htier : ∀ s p e, f (setTier s p e) = f s)
  (hcount : ∀ s k n, f (countFrame s k n) = f s) (hheld : ∀ s h d, f (setHeld s x h d) = f s)
include htier hheld

/-- A page gets its frame by the tier map and its owner's count. -/
theorem giveFrame_eq_of (s : State) (p : Nat) (ddr : Bool) : f (giveFrame s x p ddr) = f s := by
  unfold giveFrame
  extract_lets e s1
  split
  · exact (hheld s1 _ _).trans (htier s p _)
  · exact (hheld s1 _ _).trans (htier s p _)

include hcount

theorem returnRaised_eq_of {s v : State} {q : Nat} (h : returnRaised s x q = some v) : f v = f s := by
  unfold returnRaised at h
  split at h
  · cases h
    exact (hheld _ _ _).trans ((hcount _ _ _).trans (htier s q _))
  · cases h

theorem backPage_eq_of {s v : State} {p : Nat} (h : backPage s x p = some v) : f v = f s := by
  have hgive := giveFrame_eq_of f htier hheld
  unfold backPage at h
  split at h
  · cases h
    rfl
  · split at h
    · split at h
      · split at h
        · cases h
          exact hgive s p false
        · cases h
      · split at h
        · cases h
        · split at h
          · cases h
          · obtain ⟨w, hw, h⟩ := Option.bind_eq_some_iff.mp h
            split at h
            · cases h
              exact (hgive w p false).trans (returnRaised_eq_of f htier hcount hheld hw)
            · cases h
    · split at h
      · cases h
        exact hgive s p true
      · cases h
    · cases h
      rfl

/-- Backing pages changes the tier map, the write counters of frames and the context's count of frames (R148, R402). -/
theorem backPages_eq_of {ps : List Nat} {s v : State} (h : backPages s x ps = some v) : f v = f s := by
  induction ps generalizing s with
  | nil =>
    cases h
    rfl
  | cons p ps ih =>
    obtain ⟨w, hw, h⟩ := Option.bind_eq_some_iff.mp h
    exact (ih h).trans (backPage_eq_of f htier hcount hheld hw)

end Backing

section Steps
variable (s : State)

@[simp] theorem markOutcome_mem (o : OutCmd) (st : Nat) : (markOutcome s o st).mem = s.mem :=
  markOutcome_eq_of_addMark State.mem (addMark_mem · o.ctx) s st

theorem addMark_outs (x : Nat) (m : StepMark) : (addMark s x m).outs = s.outs := by
  unfold addMark
  split <;> rfl

@[simp] theorem markOutcome_outs (o : OutCmd) (st : Nat) : (markOutcome s o st).outs = s.outs :=
  markOutcome_eq_of_addMark State.outs (addMark_outs · o.ctx) s st

theorem setHeld_outs (x h d : Nat) : (setHeld s x h d).outs = s.outs := (setReg_outs _ _ _).trans (setReg_outs s _ _)

theorem signal_frame (v : Nat) : (signal s v).mem = s.mem ∧ (signal s v).outs = s.outs ∧ (signal s v).regs = s.regs := by
  unfold signal
  split
  · exact ⟨rfl, rfl, rfl⟩
  · split <;> exact ⟨rfl, rfl, rfl⟩

/-- The interrupt rule changes no byte, no outstanding command and no register. -/
theorem noteCompletion_frame (x n : Nat) (irq : Bool) : (noteCompletion s x n irq).mem = s.mem
    ∧ (noteCompletion s x n irq).outs = s.outs ∧ (noteCompletion s x n irq).regs = s.regs := by
  unfold noteCompletion
  extract_lets r pend oldest mode fire
  split
  · exact signal_frame (modRing s x n fun r => { r with pend := 0, oldest := oldest }) (x * 32 + n)
  · exact ⟨rfl, rfl, rfl⟩

end Steps

/-! ## Registers that a completion leaves alone -/

/-- A basic register that is none of those that a completion of the context writes beside its ring's own: the step record, the
frames held, and BUSY. -/
structure BesideCompletions (x : Nat) (q : Reg) : Prop where
  basic : q.expert = false
  steprec : q.offset ≠ (Reg.ctxCxSteprec x).offset
  held : q.offset ≠ (Reg.tierCxHeld x).offset
  busy : q.offset ≠ (Reg.schCxStat x).offset

theorem peerId_besideCompletions {x : Nat} (hx : x < 64) : BesideCompletions x .peerId := by
  constructor <;> simp only [Reg.offset, Reg.expert] <;> omega

theorem ctxCxRstat_besideCompletions (x n : Nat) : BesideCompletions x (.ctxCxRstat x n) := by
  constructor <;> simp only [Reg.offset, Reg.expert] <;> omega

theorem ctxCxCq_besideCompletions (x n : Nat) : BesideCompletions x (.ctxCxCq x n) := by
  constructor <;> simp only [Reg.offset, Reg.expert] <;> omega

theorem ctxCxSq_besideCompletions (x n : Nat) : BesideCompletions x (.ctxCxSq x n) := by
  constructor <;> simp only [Reg.offset, Reg.expert] <;> omega

section Beside
variable {x : Nat} {q : Reg} (hq : BesideCompletions x q) (lo len : Nat)
include hq

theorem rf_markOutcome_beside {o : OutCmd} (hx : o.ctx = x) (s : State) (st : Nat) :
    rf (markOutcome s o st) q lo len = rf s q lo len := by
  subst hx
  exact markOutcome_eq_of_addMark (rf · q lo len) (fun s m => rf_addMark_other hq.basic hq.steprec s m lo len) s st

theorem rf_backPages_beside {s v : State} {ps : List Nat} (h : backPages s x ps = some v) : rf v q lo len = rf s q lo len :=
  backPages_eq_of (rf · q lo len) (fun _ _ _ => rf_of_regs rfl q lo len) (fun _ _ _ => rf_of_regs rfl q lo len)
    (fun s _ _ => (rf_setReg_other hq.basic hq.held _ _ lo len).trans (rf_setReg_other hq.basic hq.held s _ lo len)) h

theorem rf_storeFor_beside (s : State) (a : Nat) (bs : List Byte) : rf (storeFor s x a bs) q lo len = rf s q lo len := by
  unfold storeFor
  split
  next v hv => exact (rf_of_regs (storeBytes_regs v a bs) q lo len).trans (rf_backPages_beside hq lo len hv)
  next => rfl

theorem rf_refreshBusy_beside (s : State) (n : Nat) : rf (refreshBusy s x n) q lo len = rf s q lo len :=
  rf_setReg_other hq.basic hq.busy s _ lo len

/-- A completion record leaves every register beside it but its ring's own status. -/
theorem rf_putCompletion_other {o : OutCmd} (hx : o.ctx = x) (hne : q.offset ≠ (Reg.ctxCxRstat x o.ring).offset) (s : State)
    (status detail : Nat) : rf (putCompletion s o status detail) q lo len = rf s q lo len := by
  subst hx
  unfold putCompletion
  extract_lets s1 s2
  obtain ⟨-, -, hregs⟩ := noteCompletion_frame (refreshBusy s2 o.ctx o.ring) o.ctx o.ring o.d.irq
  calc rf (noteCompletion (refreshBusy s2 o.ctx o.ring) o.ctx o.ring o.d.irq) q lo len
      = rf (refreshBusy s2 o.ctx o.ring) q lo len := rf_of_regs hregs q lo len
    _ = rf s2 q lo len := rf_refreshBusy_beside hq lo len s2 o.ring
    _ = rf s1 q lo len := rf_setReg_other hq.basic hne s1 _ lo len
    _ = rf s q lo len := rf_storeFor_beside hq lo len s _ _

end Beside

/-! ## A completion record (R312, R313) -/

/-- A field below another one is not written with it. -/
theorem bitsAt_putBits_low {lo k : Nat} (h : k ≤ lo) (n len v : Nat) : bitsAt (putBits n lo len v) 0 k = bitsAt n 0 k := by
  have hlo : 2 ^ lo = 2 ^ k * 2 ^ (lo - k) := by rw [← pow_add, Nat.add_sub_cancel' h]
  have hput : putBits n lo len v = n % 2 ^ lo + 2 ^ k * (2 ^ (lo - k) * (v % 2 ^ len + 2 ^ len * (n >>> (lo + len)))) := by
    rw [← mul_assoc, ← hlo]
    simp only [putBits, pow_add]
    ring
  simp only [bitsAt, Nat.shiftRight_zero, hput, Nat.add_mul_mod_self_left, Nat.mod_mod_of_dvd _ (pow_dvd_pow 2 h)]

theorem rf_setRf_low {r : Reg} {lo len k : Nat} (hr : r.expert = false) (hk : k ≤ lo) (hk64 : k ≤ 64) (s : State) (v : Nat) :
    rf (setRf s r lo len v) r 0 k = rf s r 0 k := by
  simp only [rf, reg, hr, Bool.false_and, Bool.false_eq_true, if_false, setRf, regRaw_setReg_same, fld, setFld, BitVec.toNat_ofNat]
  rw [bitsAt_mod_two_pow (by omega), bitsAt_putBits_low hk]

section Completion
variable (s : State) (o : OutCmd) (status detail : Nat)

/-- A command read from a ring ends with its marks and its record. -/
theorem complete_of_noParent (h : o.parent = none) : complete s o status detail =
    putCompletion (markOutcome (dropOut s o.ident) o (withMiss o.missed status)) o (withMiss o.missed status) detail := by
  simp only [complete, endUpward, h]

/-- Of memory a completion changes what storing its record changes. -/
theorem putCompletion_mem : (putCompletion s o status detail).mem
    = (storeFor s o.ctx (completionAddr s o.ctx o.ring) (completionBytes s o status detail)).mem := by
  unfold putCompletion
  extract_lets s1 s2
  obtain ⟨hmem, -, -⟩ := noteCompletion_frame (refreshBusy s2 o.ctx o.ring) o.ctx o.ring o.d.irq
  exact hmem.trans ((setReg_mem s2 _ _).trans (setReg_mem s1 _ _))

theorem storeFor_outs (x a : Nat) (bs : List Byte) : (storeFor s x a bs).outs = s.outs := by
  unfold storeFor
  split
  next v hv =>
    have hstore : (storeBytes v a bs).outs = v.outs := congrArg Prod.fst (beyondResults_storeBytes v a bs)
    exact hstore.trans (backPages_eq_of State.outs (fun _ _ _ => rfl) (fun _ _ _ => rfl) (setHeld_outs · x) hv)
  next => rfl

theorem putCompletion_outs : (putCompletion s o status detail).outs = s.outs := by
  unfold putCompletion
  extract_lets s1 s2
  obtain ⟨-, houts, -⟩ := noteCompletion_frame (refreshBusy s2 o.ctx o.ring) o.ctx o.ring o.d.irq
  exact houts.trans ((setReg_outs s2 _ _).trans ((setReg_outs s1 _ _).trans (storeFor_outs s _ _ _)))

end Completion

end Sys2Proof.Proofs
end

section
namespace Sys2Proof.Proofs
open Sys2Proof.Machine Sys2Proof.Laws

section Ring
variable (s : State) (o : OutCmd) (status detail : Nat)

/-- A completion moves no address to another home (R140). -/
theorem resolve_putCompletion (hx : o.ctx < 64) (a : Nat) : resolve (putCompletion s o status detail) a = resolve s a :=
  resolve_of_ownPkg (rf_putCompletion_other (peerId_besideCompletions hx) 0 6 rfl (by simp only [Reg.offset]; omega) s status detail) a

/-- CPL_WR counts the record (R294), and SUB_HEAD stands. -/
theorem ctxCxRstat_putCompletion :
    rf (putCompletion s o status detail) (.ctxCxRstat o.ctx o.ring) 32 32 = (cplWr s o.ctx o.ring + 1) % 2 ^ 32
      ∧ rf (putCompletion s o status detail) (.ctxCxRstat o.ctx o.ring) 0 32 = subHead s o.ctx o.ring := by
  have hbeside := ctxCxRstat_besideCompletions o.ctx o.ring
  unfold putCompletion
  extract_lets s1 s2
  obtain ⟨-, -, hregs⟩ := noteCompletion_frame (refreshBusy s2 o.ctx o.ring) o.ctx o.ring o.d.irq
  simp only [rf_of_regs hregs, rf_refreshBusy_beside hbeside]
  exact ⟨(rf_setRf_same hbeside.basic (by decide) s1 _).trans (Nat.mod_mod _ _),
    (rf_setRf_low hbeside.basic (by decide) (by decide) s1 _).trans (rf_storeFor_beside hbeside 0 32 s _ _)⟩

theorem readByte_putCompletion (hx : o.ctx < 64) (b : Nat) : readByte (putCompletion s o status detail) b
    = smGet 0 (storeFor s o.ctx (completionAddr s o.ctx o.ring) (completionBytes s o status detail)).mem (resolve s b) := by
  rw [readByte, putCompletion_mem, resolve_putCompletion s o status detail hx]

theorem completionBytes_length : (completionBytes s o status detail).length = 16 := by
  simp only [completionBytes, List.length_append, leBytes_length]

variable {s o}

/-- Where the record's pages can be backed, its bytes stand at its address and no other byte changes (R148, R312). -/
theorem readByte_putCompletion_of_backed {v : State} (hx : o.ctx < 64)
    (hv : backPages s o.ctx (pagesOf s (completionAddr s o.ctx o.ring) 16) = some v)
    (hhome : ∀ i, i < 16 → resolve s (completionAddr s o.ctx o.ring + i) = completionAddr s o.ctx o.ring + i
      ∧ exhausted v (completionAddr s o.ctx o.ring + i) = false) (b : Nat) :
    readByte (putCompletion s o status detail) b
      = if completionAddr s o.ctx o.ring ≤ resolve s b ∧ resolve s b < completionAddr s o.ctx o.ring + 16
        then (completionBytes s o status detail).getD (resolve s b - completionAddr s o.ctx o.ring) 0 else readByte v b := by
  have hres : ∀ a, resolve v a = resolve s a :=
    resolve_of_ownPkg (rf_backPages_beside (peerId_besideCompletions hx) 0 6 hv)
  have hlen := completionBytes_length s o status detail
  have hstored := storedBytesReadBack v (completionAddr s o.ctx o.ring) (completionBytes s o status detail) b
    fun i hi => by rw [hres]; exact hhome i (hlen ▸ hi)
  rw [hlen, hres, readByte, resolve_of_regs (storeBytes_regs _ _ _), hres] at hstored
  rw [readByte_putCompletion s o status detail hx, storeFor, hlen, hv]
  exact hstored

/-- Where they cannot, no byte changes (log entry 138). -/
theorem readByte_putCompletion_of_notBacked (hx : o.ctx < 64)
    (hv : backPages s o.ctx (pagesOf s (completionAddr s o.ctx o.ring) 16) = none) (b : Nat) :
    readByte (putCompletion s o status detail) b = readByte s b := by
  rw [readByte_putCompletion s o status detail hx, storeFor, completionBytes_length, hv, readByte]

end Ring

/-! ## The state in which a ring's command completes -/

/-- A command leaves those outstanding, and its code marks the step record (R214). -/
def completing (s : State) (o : OutCmd) (st : Nat) : State := markOutcome (dropOut s o.ident) o st

section Completing
variable (s : State) (o : OutCmd) (st : Nat)

theorem rf_completing {q : Reg} (hq : BesideCompletions o.ctx q) (lo len : Nat) : rf (completing s o st) q lo len = rf s q lo len :=
  (rf_markOutcome_beside hq lo len rfl _ st).trans (rf_of_regs rfl q lo len)

theorem resolve_completing (hx : o.ctx < 64) (a : Nat) : resolve (completing s o st) a = resolve s a :=
  resolve_of_ownPkg (rf_completing s o st (peerId_besideCompletions hx) 0 6) a

theorem readByte_completing (hx : o.ctx < 64) (a : Nat) : readByte (completing s o st) a = readByte s a := by
  rw [readByte, resolve_completing s o st hx, completing, markOutcome_mem]
  rfl

theorem findOut_completing : findOut (completing s o st) o.ident = none := by
  rw [findOut, completing, markOutcome_outs, dropOut]
  simp

end Completing

/-- Settles O60: a command without a parent ends with `putCompletion`, whose record is stored as O9 says; the marks before it
change no byte and none of its ring's registers. -/
theorem completionRecordsAreWritten : Obligations.CompletionRecordsAreWritten := by
  intro s o status detail hparent hx _ a st phase record u t
  have hrf : ∀ {q : Reg}, BesideCompletions o.ctx q → ∀ lo len, rf u q lo len = rf s q lo len := rf_completing s o st
  have hstat := hrf (ctxCxRstat_besideCompletions o.ctx o.ring)
  have ha : completionAddr u o.ctx o.ring = a := by
    simp only [completionAddr, ringBase, ringSize, cplWr, hstat, hrf (ctxCxCq_besideCompletions o.ctx o.ring), a]
  have hrecord : completionBytes u o st detail = record := by
    simp only [completionBytes, phaseOf, ringSize, cplWr, subHead, hstat, hrf (ctxCxCq_besideCompletions o.ctx o.ring),
      hrf (ctxCxSq_besideCompletions o.ctx o.ring), record, phase]
    rfl
  have ht : t = putCompletion u o st detail := complete_of_noParent s o status detail hparent
  have hres : ∀ b, resolve u b = resolve s b := resolve_completing s o st hx
  obtain ⟨hcount, hhead⟩ := ctxCxRstat_putCompletion u o st detail
  rw [ht]
  refine ⟨fun v hv hhome => ?_, fun hv b => ?_, hcount.trans ?_, hhead.trans ?_, ?_⟩
  · have hread := fun b => readByte_putCompletion_of_backed (b := b) st detail hx (ha ▸ hv)
      fun i hi => by rw [ha, hres]; exact hhome i hi
    simp only [ha, hrecord, hres] at hread
    refine ⟨fun i hi => ?_, fun b hb => ?_⟩
    · rw [hread, (hhome i hi).1, if_pos ⟨by omega, by omega⟩, Nat.add_sub_cancel_left]
    · rw [hread, if_neg (by omega)]
  · exact (readByte_putCompletion_of_notBacked st detail hx (ha ▸ hv) b).trans (readByte_completing s o st hx b)
  · rw [cplWr, hstat]
  · rw [subHead, hstat]
  · rw [findOut, putCompletion_outs]
    exact findOut_completing s o st

end Sys2Proof.Proofs
end

/-! ## Faults (spec/14_fault_tolerance.md): what the record of a hung engine concerns -/

section
namespace Sys2Proof.Proofs
open Sys2Proof.Machine Sys2Proof.Laws

/-! ## An engine that hangs (R352, R358) -/

/-- The first trip of an engine's watchdog is noted. -/
def tripped (s : State) (e : Nat) : State := { s with engTrips := smSet [] s.engTrips e [now s] }

/-- The first trip resets the engine and reports it to each context with a command running there (R352, R358). -/
theorem exec_engineHang_of_firstTrip {s : State} {e : Fin 612} (hok : s.failed = false) (hfirst : smGet [] s.engTrips e.val = []) :
    exec (.engineHang e) s = .next (settle (reportUnit (resetEngine (tripped s e.val) e.val) 0x31 1 (srcOf 7 e.val) 5 0
      (concerned (tripped s e.val) [e.val]))) := by
  have hexec : exec (.engineHang e) s = .next (if s.failed then s else settle (watchdogTrips s e.val)) := rfl
  rw [hexec, hok, watchdogTrips, hfirst]
  rfl

theorem reportUnit_single (s : State) (code sev source action info cmd : Nat) (x : Option Nat) :
    reportUnit s code sev source action info [(x, cmd)] = report s code sev source x action info cmd := rfl

/-- What holds of the unlisted value and of every entry holds of what a key reads. -/
theorem smGet_of_forall {α : Type} {d : α} {m : List (Nat × α)} {P : α → Prop} (hd : P d) (hm : ∀ p ∈ m, P p.2) (a : Nat) :
    P (smGet d m a) := by
  induction m with
  | nil => exact hd
  | cons p m ih =>
    obtain ⟨k, v⟩ := p
    rw [smGet]
    split
    · exact hm (k, v) List.mem_cons_self
    · exact ih fun q hq => hm q (List.mem_cons_of_mem _ hq)

/-- A COPY of context 0 that waits for read data of a peer, on stream engine 544. -/
def copyInFlight : OutCmd :=
  ⟨0, 0, 0, 0, .copy, RingOp.copy.blank, 0, 0, false, none, 0, 0, 0, .peerRead, 0, false, false, false, [], [], []⟩

/-- The state after reset with that command outstanding. -/
def copying : State := addOut State.reset copyInFlight

theorem concerned_copying : concerned (tripped copying 544) [544] = [(some 0, cmdRef copyInFlight)] := by decide

/-- Stream engine 544 has tripped and been reset. -/
def stopped : State := resetEngine (tripped copying 544) 544

theorem stopped_quiet : stopped.outs = [] ∧ stopped.sec.erases = [] ∧ stopped.merges = []
    ∧ ∀ p ∈ stopped.ctxs, p.2.embers = [] ∧ p.2.wants = [] := by decide

theorem idle_stopped : Idle stopped := by
  obtain ⟨houts, herases, -, hctxs⟩ := stopped_quiet
  exact ⟨houts, herases, fun p hp => (hctxs p hp).1, smGet_of_forall (P := fun c => c.wants = []) rfl fun p hp => (hctxs p hp).2⟩

/-- Refutes O47: the record of an engine's reset goes to the contexts whose commands ran there (R358), where the statement has
one record of no context. A COPY that waits for a peer's data on stream engine 544 as the engine hangs shows it. -/
theorem not_faultEventsAct : ¬ Obligations.FaultEventsAct := by
  intro h
  obtain ⟨-, -, hhang, -⟩ := h copying
  have hstated : exec (.engineHang 544) copying = .next (settle (report stopped 0x31 1 (srcOf 7 544) none 5 0 0)) := hhang 544 rfl
  have hexec : exec (.engineHang 544) copying
      = .next (settle (report stopped 0x31 1 (srcOf 7 544) (some 0) 5 0 (cmdRef copyInFlight))) := by
    have hindex : (544 : Fin 612).val = 544 := rfl
    rw [exec_engineHang_of_firstTrip rfl rfl, hindex, concerned_copying, reportUnit_single, stopped]
  have hmerges := congrArg State.merges (Host.Outcome.next.inj (hexec.symm.trans hstated))
  rw [report, report, merges_settle_of_idle (idle_addReport idle_stopped _ _),
    merges_settle_of_idle (idle_addReport idle_stopped _ _)] at hmerges
  obtain ⟨-, -, hempty, -⟩ := stopped_quiet
  have hctx : some 0 = none := congrArg MergeEntry.ctx (eq_of_addReport_merges_eq hempty hmerges)
  cases hctx

end Sys2Proof.Proofs
end

/-! ## Streams (spec/07_streams.md): extents, units, and poison marks under a store -/

section
namespace Sys2Proof.Proofs
open Sys2Proof.Machine Sys2Proof.Laws

/-! ## The extent of a stream (R175) -/

/-- The least and the greatest offset from a stream's base that a dimension alone can reach (R175). -/
def dimLo (p : Nat × Int) : Int := min 0 (((p.1 : Int) - 1) * p.2)
def dimHi (p : Nat × Int) : Int := max 0 (((p.1 : Int) - 1) * p.2)

/-- The dimensions of a stream, each with its count and its stride. -/
def streamDims (t : Strm) : List (Nat × Int) := t.counts.zip t.strides

theorem extent_of_notEmpty {t : Strm} (write : Bool) (h : t.empty = false) :
    (t.extent write).lo = t.base + ((streamDims t).map dimLo).sum
    ∧ (t.extent write).hi = t.base + ((streamDims t).map dimHi).sum + unitBytes t.fmt - 1 := by
  simp only [Strm.extent, h, Bool.false_eq_true, if_false, List.sum_eq_foldl, List.map_map]
  exact ⟨rfl, rfl⟩

/-- Settles O12: the sums of the model's extent are those of the formula. -/
theorem streamExtentIsItsFormula : Obligations.StreamExtentIsItsFormula :=
  fun _ write _ hne => extent_of_notEmpty write hne

/-! ## The units of a stream (R174) -/

/-- A step of a dimension stays within its reach. -/
theorem step_mem_dim {n i : Nat} (st : Int) (hi : i < n) : dimLo (n, st) ≤ i * st ∧ (i : Int) * st ≤ dimHi (n, st) := by
  have hle : (i : Int) ≤ (n : Int) - 1 := by omega
  have hpos : (0 : Int) ≤ i := by omega
  rcases le_total 0 st with hst | hst
  · exact ⟨min_le_of_left_le (mul_nonneg hpos hst), le_max_of_le_right (mul_le_mul_of_nonneg_right hle hst)⟩
  · exact ⟨min_le_of_right_le (mul_le_mul_of_nonpos_right hle hst), le_max_of_le_left (mul_nonpos_of_nonneg_of_nonpos hpos hst)⟩

/-- A unit is as far from the base as its steps in the dimensions add up to. -/
theorem mem_unitAddrs_between (ds : List (Nat × Int)) (base x : Int) (hx : x ∈ unitAddrs ds base) :
    base + (ds.map dimLo).sum ≤ x ∧ x ≤ base + (ds.map dimHi).sum := by
  induction ds generalizing base with
  | nil =>
    obtain rfl := List.mem_singleton.mp hx
    simp
  | cons d ds ih =>
    obtain ⟨n, st⟩ := d
    obtain ⟨i, hi, hin⟩ := List.mem_flatMap.mp hx
    obtain ⟨hlo, hhi⟩ := step_mem_dim st (List.mem_range.mp hi)
    obtain ⟨hlow, hhigh⟩ := ih _ hin
    simp only [List.map_cons, List.sum_cons]
    omega

/-- There are as many units as the product of the counts. -/
theorem length_unitAddrs (ds : List (Nat × Int)) (base : Int) : (unitAddrs ds base).length = (ds.map Prod.fst).prod := by
  induction ds generalizing base with
  | nil => rfl
  | cons d ds ih =>
    simp only [unitAddrs, List.length_flatMap, ih, List.map_const', List.length_range, List.sum_replicate, smul_eq_mul,
      List.map_cons, List.prod_cons]

theorem length_unitAddrs_dims {t : Strm} (h : t.counts.length = t.strides.length) (base : Int) :
    (unitAddrs (streamDims t).reverse base).length = t.counts.prod := by
  rw [length_unitAddrs, List.map_reverse, List.prod_reverse, streamDims, List.map_fst_zip (Nat.le_of_eq h)]

/-- An empty stream has no unit. -/
theorem unitAddrs_of_empty {t : Strm} (h : t.counts.length = t.strides.length) (hempty : t.empty = true) (base : Int) :
    unitAddrs (streamDims t).reverse base = [] := by
  have hzero : t.counts.prod = 0 := List.prod_eq_zero (List.contains_iff_mem.mp hempty)
  exact List.length_eq_zero_iff.mp ((length_unitAddrs_dims h base).trans hzero)

/-- Settles O13: a unit's steps add up to something within the sums of R175's formula, and an empty stream has no unit. -/
theorem streamUnitsLieInTheirExtent : Obligations.StreamUnitsLieInTheirExtent := by
  refine fun t write hlen => ⟨fun a ha => ?inside, ?count⟩
  case count => rw [Strm.addrs, List.length_map]; exact length_unitAddrs_dims hlen _
  case inside =>
    cases hempty : t.empty with
    | true =>
      have hnone : a ∈ [] := unitAddrs_of_empty hlen hempty _ ▸ ha
      cases hnone
    | false =>
      obtain ⟨hlo, hhi⟩ := extent_of_notEmpty write hempty
      have hin := mem_unitAddrs_between (streamDims t).reverse _ a ha
      rw [List.map_reverse, List.map_reverse, List.sum_reverse, List.sum_reverse] at hin
      omega

/-! ## Poison marks under a store (R184) -/

/-- Setting one key to one value, some number of times. -/
theorem smGet_foldl_smSet_const {α β : Type} [DecidableEq α] (d : α) (key : β → Nat) (v : α) (b : Nat) (l : List β)
    (hl : ∀ c ∈ l, key c = b) (m : List (Nat × α)) :
    smGet d (l.foldl (fun m c => smSet d m (key c) v) m) b = if l = [] then smGet d m b else v := by
  induction l generalizing m with
  | nil => rfl
  | cons c l ih =>
    obtain ⟨hc, hl⟩ := List.forall_mem_cons.mp hl
    rw [List.foldl_cons, ih hl, hc, smGet_smSet_same, ite_self, if_neg (List.cons_ne_nil _ _)]

/-- A store in one line touches that line. -/
theorem mem_dedup_lines_iff {cells : List Host.Cell} {l k : Nat} (hl : ∀ c ∈ cells, c.1 / 64 = l) (hne : cells ≠ []) :
    k ∈ dedup (cells.map fun c => c.1 / 64) ↔ k = l := by
  rw [mem_dedup, List.map_congr_left hl, List.map_const', List.mem_replicate,
    and_iff_right fun h => hne (List.length_eq_zero_iff.mp h)]

section Line
variable {s : State} {l : Nat} {cells : List Host.Cell} {bad : List Nat}
variable (hcells : ∀ c ∈ cells, c.1 / 64 = l ∧ resolve s c.1 = c.1 ∧ exhausted s c.1 = false) (hne : cells ≠ [])
include hcells hne

theorem mem_lines_iff {k : Nat} : k ∈ dedup ((writable s cells).map fun c => c.1 / 64) ↔ k = l := by
  rw [writable_of_ownHomes fun c hc => (hcells c hc).2]
  exact mem_dedup_lines_iff (fun c hc => (hcells c hc).1) hne

/-- The line gains a mark exactly when poisoned data is named for it. -/
theorem mem_markedLines_iff {k : Nat} : k ∈ markedLines s cells bad ↔ k = l ∧ l ∈ hitLines s bad := by
  rw [markedLines, List.mem_filter, List.contains_iff_mem, mem_lines_iff hcells hne]
  exact ⟨fun ⟨hk, he⟩ => ⟨he, he ▸ hk⟩, fun ⟨he, hl⟩ => ⟨he ▸ hl, he⟩⟩

/-- The line loses its mark exactly when clean data fills it. -/
theorem mem_clearedLines_iff {k : Nat} : k ∈ clearedLines s cells bad ↔
    k = l ∧ l ∉ hitLines s bad ∧ ((List.range 64).all fun i => cells.any fun c => c.1 == l * 64 + i) = true := by
  rw [clearedLines, List.mem_filter, mem_lines_iff hcells hne, writable_of_ownHomes fun c hc => (hcells c hc).2]
  refine and_congr_right fun hk => ?_
  rw [hk, Bool.and_eq_true, Bool.not_eq_true', ← Bool.not_eq_true, List.contains_iff_mem]

end Line

theorem mem_hitLines_iff {s : State} {bad : List Nat} {l : Nat} :
    l ∈ hitLines s bad ↔ (bad.any fun k => resolve s (k * 64) / 64 == l) = true := by
  simp only [hitLines, List.mem_map, List.any_eq_true, beq_iff_eq]

/-- Settles O10: the lines that gain and that lose a mark are none or the line of the store. -/
theorem poisonMarksFollowStores : Obligations.PoisonMarksFollowStores := by
  intro s l cells bad hcells hne hhome
  obtain ⟨-, hpoison, hregs, -⟩ := storeQuiet_spec s cells bad
  have hkey {k : Nat} (hk : k = l) : resolve s (k * 64) / 64 = l := by
    rw [hk, hhome, Nat.mul_div_cancel l (by decide)]
  rw [poisoned, poisoned, resolve_of_regs hregs, hkey rfl, hpoison,
    smGet_foldl_smSet_const false _ true l _ fun k hk => hkey ((mem_markedLines_iff hcells hne).mp hk).1,
    smGet_foldl_smSet_const false _ false l _ fun k hk => hkey ((mem_clearedLines_iff hcells hne).mp hk).1]
  by_cases hhit : l ∈ hitLines s bad
  · have hmarked : markedLines s cells bad ≠ [] := List.ne_nil_of_mem ((mem_markedLines_iff hcells hne).mpr ⟨rfl, hhit⟩)
    rw [if_neg hmarked, mem_hitLines_iff.mp hhit, Bool.true_or]
  · have hnone : markedLines s cells bad = [] :=
      List.eq_nil_iff_forall_not_mem.mpr fun k hk => hhit ((mem_markedLines_iff hcells hne).mp hk).2
    rw [if_pos hnone, Bool.eq_false_iff.mpr (mem_hitLines_iff.not.mp hhit), Bool.false_or]
    cases hfull : (List.range 64).all fun i => cells.any fun c => c.1 == l * 64 + i with
    | true =>
      have hcleared : clearedLines s cells bad ≠ [] :=
        List.ne_nil_of_mem ((mem_clearedLines_iff hcells hne).mpr ⟨rfl, hhit, hfull⟩)
      rw [if_neg hcleared, Bool.not_true, Bool.and_false]
    | false =>
      have hkept : clearedLines s cells bad = [] := List.eq_nil_iff_forall_not_mem.mpr fun k hk => by
        obtain ⟨-, -, hfills⟩ := (mem_clearedLines_iff hcells hne).mp hk
        exact Bool.false_ne_true (hfull.symm.trans hfills)
      rw [if_pos hkept, Bool.not_false, Bool.and_true]

end Sys2Proof.Proofs
end

/-! ## Streams (spec/07_streams.md): placement commands, COPY and ZERO -/

section
namespace Sys2Proof.Proofs
open Sys2Proof.Machine Sys2Proof.Laws

/-- Settles O17: each row is one `ringRow`, whose work is the operation of the four over the pages of its descriptor. -/
theorem placementCommandsSetTheirPages : Obligations.PlacementCommandsSetTheirPages := fun c _ =>
  ⟨exec_of_ringRow (i := .pin c) (run := runPin) rfl, exec_of_ringRow (i := .unpin c) (run := runUnpin) rfl,
    exec_of_ringRow (i := .planes c) (run := runPlanes) rfl, exec_of_ringRow (i := .moveRelease c) (run := runMoveRelease) rfl⟩

/-! ## A MOVE that has just begun (R178, R180, R403) -/

/-- The cells of some units and the lines among them that receive poisoned data. -/
abbrev UnitCells : Type := List (Nat × Nat) → List Host.Cell × List Nat

/-- The units of a MOVE before unit `n` whose write finds an exhausted frame: the first of them. -/
def stopBefore (v : State) (w : Nat) (units : List (Nat × Nat)) (n : Nat) : Option Nat :=
  (List.range (min n units.length)).find? fun i =>
    (List.range w).any fun k => !isRemote v ((units.getD i (0, 0)).2 + k) && exhausted v ((units.getD i (0, 0)).2 + k)

/-- Some units have landed: they are stored or posted, and a poisoned line marks the step. -/
def landed (v : State) (o : OutCmd) (cells : UnitCells) (ps : List (Nat × Nat)) : State :=
  let r := storeOut { v with halt := none } o.ctx o.d.tag (cells ps).1 (cells ps).2
  if (cells ps).2.isEmpty then r.1 else mark r.1 o.ctx markPoison o.d.tag

theorem landed_eq (v : State) (o : OutCmd) (cells : UnitCells) (ps : List (Nat × Nat)) : landed v o cells ps =
    let r := storeOut { v with halt := none } o.ctx o.d.tag (cells ps).1 (cells ps).2
    if !(cells ps).2.isEmpty then mark r.1 o.ctx markPoison o.d.tag else r.1 := by
  cases h : (cells ps).2.isEmpty <;> simp only [landed, h, Bool.not_true, Bool.not_false, Bool.false_eq_true, if_true, if_false]

theorem stopBefore_lt {v : State} {w n i : Nat} {units : List (Nat × Nat)} (h : stopBefore v w units n = some i) : i < n := by
  have hi := List.mem_range.mp (List.mem_of_find?_eq_some h)
  omega

/-- The units that a MOVE writes when it comes to unit `n` at most. -/
def unitsBefore (v : State) (w : Nat) (units : List (Nat × Nat)) (n : Nat) : List (Nat × Nat) :=
  units.take ((stopBefore v w units n).getD n)

/-- The units from the first on are written until one finds an exhausted frame. -/
theorem moveUnits_zero (v : State) (o : OutCmd) (w : Nat) (cells : UnitCells) (units : List (Nat × Nat)) (n : Nat) :
    moveUnits { v with halt := none } o w cells units 0 n =
      ((storeOut { v with halt := none } o.ctx o.d.tag (cells (unitsBefore v w units n)).1 (cells (unitsBefore v w units n)).2).1,
        !(cells (unitsBefore v w units n)).2.isEmpty, stopBefore v w units n) := by
  have hstop : ((List.range (units.take n).length).find? fun i => (List.range w).any fun k =>
      !isRemote { v with halt := none } (((units.take n).getD i (0, 0)).2 + k)
        && exhausted { v with halt := none } (((units.take n).getD i (0, 0)).2 + k)) = stopBefore v w units n := by
    rw [List.length_take]
    refine List.find?_congr fun i hi => ?_
    have hin : i < n := by have := List.mem_range.mp hi; omega
    rw [List.getD_eq_getElem?_getD, List.getD_eq_getElem?_getD, List.getElem?_take_of_lt hin]
    rfl
  simp only [moveUnits, List.drop_zero, hstop, Nat.zero_add, Option.map_id']
  cases hs : stopBefore v w units n with
  | none => simp only [unitsBefore, hs, Option.getD_none]
  | some i =>
    have hlt := stopBefore_lt hs
    simp only [unitsBefore, hs, Option.getD_some, List.take_take, Nat.min_eq_left (Nat.le_of_lt hlt)]

section MoveOn
variable {v : State} {o : OutCmd} {w slabs : Nat} {cells : UnitCells} {units : List (Nat × Nat)}

theorem moveOn_of_exhausted {i : Nat} (hst : landedUnits o = (0, false)) (hhalt : v.halt = none)
    (hstop : stopBefore v w units units.length = some i) :
    moveOn v o w cells units slabs = complete (landed v o cells (units.take i)) o stKeyExhausted (i / (slabBytes / w)) := by
  simp only [moveOn, hst, hhalt, Option.filter_none, Nat.zero_mul, moveUnits_zero, unitsBefore, hstop, Option.getD_some, landed_eq]

theorem moveOn_of_done (hst : landedUnits o = (0, false)) (hhalt : v.halt = none)
    (hstop : stopBefore v w units units.length = none) :
    moveOn v o w cells units slabs
      = complete (landed v o cells units) o (workStatus (!(cells units).2.isEmpty) false) slabs := by
  simp only [moveOn, hst, hhalt, Option.filter_none, Nat.zero_mul, moveUnits_zero, unitsBefore, hstop, Option.getD_none,
    List.take_length, Bool.false_or, landed_eq]

theorem moveOn_of_cut {k : Nat} (hst : landedUnits o = (0, false)) (hhalt : v.halt = some k) (hk : k < slabs)
    (hstop : stopBefore v w units (k * (slabBytes / w)) = none) :
    let ps := units.take (k * (slabBytes / w))
    moveOn v o w cells units slabs = putOut (landed v o cells ps) { o with st := .moving k (!(cells ps).2.isEmpty) } := by
  have hcut : (some k).filter (fun k => decide (0 ≤ k) && decide (k < slabs)) = some k :=
    if_pos (Bool.and_eq_true_iff.mpr ⟨decide_eq_true (Nat.zero_le k), decide_eq_true hk⟩)
  simp only [moveOn, hst, hhalt, hcut, Nat.zero_mul, moveUnits_zero, unitsBefore, hstop, Option.getD_none, Bool.false_or, landed_eq]

end MoveOn

/-! ## The two rows (R178, R267) -/

/-- COPY, or ZERO. -/
def moveOp (copy : Bool) : RingOp := if copy then .copy else .zero

/-- The row of COPY or ZERO that comes as far as `cut`. -/
def moveRow (copy : Bool) (c : Cmd) (cut : Option Nat) : Instr := if copy then .copy ⟨c, cut⟩ else .zero ⟨c, cut⟩

def runMove (copy : Bool) : State → OutCmd → State := if copy then runCopy else runZero

theorem exec_moveRow (copy : Bool) (c : Cmd) (cut : Option Nat) (s : State) :
    exec (moveRow copy c cut) s = .next (withHalt cut (ringRow (moveOp copy) (runMove copy) c) s) := by
  cases copy <;> rfl

theorem exec_moveRow_of_starts {copy : Bool} {c : Cmd} {s : State} (h : starts s (moveOp copy) c = true) :
    exec (moveRow copy c none) s = .next (settle (runMove copy (workState s c) (workCmd s c))) := by
  rw [exec_moveRow, withHalt_none, ringRow_of_starts _ h]

theorem exec_moveRow_of_starts_cut {copy : Bool} {c : Cmd} {k : Nat} {s : State}
    (h : starts { s with halt := some k } (moveOp copy) c = true) :
    exec (moveRow copy c (some k)) s = .next { settle (runMove copy (workState { s with halt := some k } c)
      (workCmd { s with halt := some k } c)) with halt := none } := by
  rw [exec_moveRow, withHalt_some, ringRow_of_starts _ h]

/-- Source and destination of every unit: a ZERO has no source. -/
def movePairs (copy : Bool) (t u : Strm) : List (Nat × Nat) := if copy then t.addrs.zip u.addrs else u.addrs.map fun a => (a, a)

/-- What some units write, and the lines among them that receive poisoned data. -/
def moveCells (copy : Bool) (v : State) (o : OutCmd) (w : Nat) : UnitCells := fun ps =>
  (ps.flatMap fun p => (List.range w).map fun i => (p.2 + i, if copy then sourceByte v o.got (p.1 + i) else 0),
   if copy then dedup ((ps.filter fun p => sourcePoisoned v o.gotBad p.1).map fun p => p.2 / 64) else [])

section RunMove
variable {copy : Bool} {v : State} {o : OutCmd} {t u : Strm}

theorem runCopy_of_remote (hsrc : (planStream v o.ctx (moveSrc o.d) false).2 = some t) (hfar : remoteLines v t ≠ []) :
    runCopy v o = (remoteLines v t).foldl (fun x a => sendRead x o.ctx o.ident a) (putOut v { o with st := .peerRead }) := by
  simp only [runCopy, hsrc, List.isEmpty_iff, hfar, if_false]

theorem runMove_of_local (hsrc : copy = true → (planStream v o.ctx (moveSrc o.d) false).2 = some t)
    (hdst : (planStream v o.ctx (moveDst o.d) true).2 = some u) (hfmt : t.fmt = u.fmt)
    (hnear : copy = true → remoteLines v t = []) :
    runMove copy v o
      = moveOn v o (unitBytes u.fmt) (moveCells copy v o (unitBytes u.fmt)) (movePairs copy t u) (movedSlabs u) := by
  cases copy with
  | false =>
    change runZero v o = _
    simp only [runZero, hdst]
    rfl
  | true =>
    change runCopy v o = _
    simp only [runCopy, copyNow, hsrc rfl, hnear rfl, List.isEmpty_nil, if_true, hdst, hfmt]
    rfl

end RunMove

theorem halt_none_eq_self {s : State} (hs : s.halt = none) : { s with halt := none } = s := by
  cases s
  cases hs
  rfl

/-- Settles O18: the row runs as `runMove`, which for a command just read reads a far source first, and else is `moveOn` from
the first unit on, in its three ways of ending. -/
theorem moveCommandsRunTheirStreams : Obligations.MoveCommandsRunTheirStreams := by
  intro c s copy cut t u hs h v o w units cells bad stop landed' cmd hstart hhalt hsrc hdst hfmt
  have hbegun : landedUnits o = (0, false) := rfl
  have hwhole {q : State} (hcut : cut = none) (hq : runMove copy v o = q) : exec cmd s = .next (settle q) := by
    subst hcut hq
    have hh : h = s := halt_none_eq_self hs
    rw [← hh]
    exact exec_moveRow_of_starts hstart
  have hpart {k : Nat} {q : State} (hcut : cut = some k) (hq : runMove copy v o = q) :
      exec cmd s = .next { settle q with halt := none } := by
    subst hcut hq
    exact exec_moveRow_of_starts_cut hstart
  refine ⟨fun hcopy hfar hcut => ?far, fun hnear => ?near⟩
  case far =>
    subst hcopy
    exact hwhole hcut (runCopy_of_remote (hsrc rfl) hfar)
  case near =>
    have hrun : runMove copy v o = moveOn v o w (moveCells copy v o w) (movePairs copy t u) (movedSlabs u) :=
      runMove_of_local hsrc hdst hfmt hnear
    refine ⟨fun i hcut hstop => ?exhausted, fun hcut hstop => ?done, fun k hcut hk hstop => ?cut⟩
    case exhausted => exact hwhole hcut (hrun.trans (moveOn_of_exhausted hbegun (hhalt.trans hcut) hstop))
    case done => exact hwhole hcut (hrun.trans (moveOn_of_done hbegun (hhalt.trans hcut) hstop))
    case cut => exact hpart hcut (hrun.trans (moveOn_of_cut hbegun (hhalt.trans hcut) hk hstop))

end Sys2Proof.Proofs
end

/-! ## Streams (spec/07_streams.md): every step keeps the canonical form -/

section
namespace Sys2Proof.Proofs
open Sys2Proof.Machine Sys2Proof.Laws

/-! ## Outcomes that keep what `Keeps` says -/

/-- The outcome is a next state, and what `Keeps` says has been kept on the way to it. -/
def AnswersKeeping (a : State) (o : Host.Outcome State Fault Refusal) : Prop := ∃ t, o = .next t ∧ Keeps a t

theorem answersKeeping_next {a t : State} (h : Keeps a t) : AnswersKeeping a (.next t) := ⟨t, rfl, h⟩

theorem answersKeeping_ite {a s t : State} {p : Prop} [Decidable p] (h : Keeps a s) (ht : Keeps a t) :
    AnswersKeeping a (.next (if p then t else s)) := answersKeeping_next (ite_keeps (fun _ => ht) fun _ => h)

section Commands
variable {a s : State} (h : Keeps a s)
include h

/-! ## Rows of the ring processor -/

theorem ringRow_runOp_keeps (op : RingOp) (c : Cmd) : Keeps a (ringRow op (runOp op) c s) :=
  ringRow_keeps h op _ c fun _ o hq => runOp_keeps hq op o

theorem withHalt_ringRow_keeps (op : RingOp) (c : MoveRow) : Keeps a (withHalt c.cut (ringRow op (runOp op) c.cmd) s) :=
  withHalt_keeps h _ _ fun _ hq => ringRow_runOp_keeps hq op c.cmd

theorem ringRowWith_runOp_keeps (op : RingOp) (ev : List ArrEvent) (c : Cmd) : Keeps a (ringRowWith op (runOp op) ev c s) :=
  ringRowWith_keeps h op _ ev c fun _ o hq => runOp_keeps hq op o

theorem execRestore_keeps (c : Cmd) (failsAt : Option Nat) : AnswersKeeping a (execRestore c failsAt s) :=
  answersKeeping_next (ringRow_keeps h _ _ c fun _ o hq => runRestore_keeps hq failsAt o)

theorem execDistillGradGrad_keeps (c : Cmd) : AnswersKeeping a (execDistillGradGrad c s) :=
  answersKeeping_ite h (ringRow_runOp_keeps h .distillStats c)

theorem execDistillGradStats_keeps (c : Cmd) : AnswersKeeping a (execDistillGradStats c s) :=
  answersKeeping_next (ite_keeps (fun _ => h) fun _ => ringRow_runOp_keeps h .distillStats c)

/-! ## Turns, windows, waits and streams (R180, R301, R329, R371) -/

theorem execEngineArbitration_keeps (turn : EngineTurn) : AnswersKeeping a (execEngineArbitration turn s) :=
  answersKeeping_next (ite_keeps (fun _ => h) fun _ => withHalt_keeps h _ _ fun _ hq => engineGoes_keeps hq _ _)

theorem execDeadlineMiss_keeps (x : Fin 64) (n : Fin 16) (pos : Word32) : AnswersKeeping a (execDeadlineMiss x n pos s) := by
  refine answersKeeping_next ?_
  split
  · exact settle_keeps (missAt_keeps h _)
  · exact h

theorem execRampStep_keeps (c : Fin 324) (mismatch : Bool) : AnswersKeeping a (execRampStep c mismatch s) :=
  answersKeeping_next (ite_keeps (fun _ => h) fun _ => rampOnce_keeps (ite_keeps (fun _ => h) fun _ =>
    ite_keeps (fun _ => kindleFails_keeps h _ _ _) fun _ => kindlePair_keeps h _) _)

theorem execWaitMet_keeps (x : Fin 64) (n : Fin 16) : AnswersKeeping a (execWaitMet x n s) := by
  refine answersKeeping_next ?_
  split
  · exact settle_keeps (finishSync_keeps h _)
  · exact h

theorem execSemTimeout_keeps (x : Fin 64) (n : Fin 16) : AnswersKeeping a (execSemTimeout x n s) := by
  refine answersKeeping_next ?_
  split
  · exact ite_keeps (fun _ => h) fun _ => teardownNow_keeps (writeEvent_keeps h _ _) _ _
  · exact h

theorem execSnapshotStreamEnd_keeps (x : Fin 64) (failed : Bool) : AnswersKeeping a (execSnapshotStreamEnd x failed s) :=
  answersKeeping_ite h (settle_keeps (ite_keeps (fun _ => failStream_keeps h _) fun _ => endStream_keeps h _))

/-! ## The host's windows (R290, R291) -/

theorem bar2Read_keeps (tee : Bool) (word place len : Nat) : Keeps a (bar2Read s tee word place len) := by
  refine ite_keeps (fun _ => h) fun _ => ?_
  split <;> exact emit_keeps h _

theorem execDoorbell_keeps (x : Fin 64) (n : Fin 16) (place : BitVec 12) (tee : Bool) (acc : Bar2Access) :
    AnswersKeeping a (execDoorbell x n place tee acc s) := by
  refine answersKeeping_next (ite_keeps (fun _ => h) fun _ => ?_)
  cases acc with
  | write data => exact gated_keeps h _ _ fun _ hq => doorbellWrite_keeps hq _ _ _ _
  | read len => exact bar2Read_keeps h _ _ _ _

theorem execCancel_keeps (x : Fin 64) (n : Fin 16) (place : BitVec 12) (tee : Bool) (acc : Bar2Access) :
    AnswersKeeping a (execCancel x n place tee acc s) := by
  refine answersKeeping_next (ite_keeps (fun _ => h) fun _ => ?_)
  cases acc with
  | write data =>
    exact ite_keeps (fun _ => gated_keeps h _ _ fun _ hq => settle_keeps (cancelRing_keeps hq _ _ _ _)) fun _ => h
  | read len => exact bar2Read_keeps h _ _ _ _

theorem execEventHead_keeps (offset : BitVec 22) (tee : Bool) (acc : Bar2Access) :
    AnswersKeeping a (execEventHead offset tee acc s) := by
  refine answersKeeping_next (ite_keeps (fun _ => h) fun _ => ?_)
  cases acc with
  | write data => exact ite_keeps (fun _ => gated_keeps h _ _ fun _ hq => newEvtHead_keeps hq _ _) fun _ => h
  | read len => exact bar2Read_keeps h _ _ _ _

theorem execBar4Read_keeps (offset : BitVec 34) (len : Nat) : AnswersKeeping a (execBar4Read offset len s) :=
  answersKeeping_next (ite_keeps (fun _ => h) fun _ => ite_keeps (fun _ => emit_keeps h _) fun _ =>
    ite_keeps (fun _ => emit_keeps (bump_keeps h _) _) fun _ => emit_keeps h _)

theorem bar4Writes_keeps (offset : Nat) (data : List Byte) (ep : Bool) : Keeps a (bar4Writes s offset data ep) :=
  ite_keeps (fun _ => bump_keeps h _) fun _ =>
    ite_keeps (fun _ => bump_keeps (storeQuiet_keeps h _ _) _) fun _ => storeQuiet_keeps h _ _

theorem execFourByteRead_keeps (src : Source) (offset : BitVec 26) : AnswersKeeping a (execFourByteRead src offset s) := by
  have hlatch (out : Output) : Keeps a (emit (dropLatch s src) out) := emit_keeps (dropLatch_keeps h src) out
  have hhalf : Keeps a (answerHalf (readHalf s src offset.toNat).2 src (readHalf s src offset.toNat).1) :=
    answerHalf_keeps (readHalf_keeps h src _) src _
  refine answersKeeping_next ?_
  cases src with
  | host | outside =>
    exact ite_keeps (fun _ => h) fun _ => ite_keeps (fun _ => ite_keeps (fun _ => hlatch _) fun _ => hhalf) fun _ => hlatch _
  | monitor | smbus => exact ite_keeps (fun _ => ite_keeps (fun _ => hlatch _) fun _ => hhalf) fun _ => h
  | preset => exact h

theorem execSetUpdCtlGo_keeps (src : Source) (hostReadFails flashFails : Bool) :
    AnswersKeeping a (execSetUpdCtlGo src hostReadFails flashFails s) := by
  refine answersKeeping_next ?_
  cases src with
  | host | outside => exact gated_keeps h _ _ fun _ hq => updateNow_keeps (dropLatch_keeps hq _) _ _
  | monitor => exact ite_keeps (fun _ => updateNow_keeps (dropLatch_keeps h _) _ _) fun _ => h
  | smbus | preset => exact h

/-! ## Adapters and packages (R246, R397) -/

theorem execCreate_keeps (x : Fin 64) (k : BitVec 16) : AnswersKeeping a (execCreate x k s) := by
  refine answersKeeping_next ?_
  split
  · exact settle_keeps (createNow_keeps h _ _)
  · exact h

theorem execImportAdapter_keeps (x : Fin 64) (k : BitVec 16) : AnswersKeeping a (execImportAdapter x k s) := by
  refine answersKeeping_next ?_
  split
  · exact settle_keeps (importNow_keeps h _ _)
  · exact h

theorem execLoad_keeps (x : Fin 64) (e : BitVec 8) (readFails : Bool) : AnswersKeeping a (execLoad x e readFails s) := by
  refine answersKeeping_next ?_
  split
  · exact loadNow_keeps h _ _ _ _ _
  · exact h

theorem execUnload_keeps (x : Fin 64) (e : BitVec 8) : AnswersKeeping a (execUnload x e s) := by
  refine answersKeeping_next ?_
  split
  · exact unloadNow_keeps h _ _
  · exact h

/-! ## Faults (R354 to R361) -/

theorem execStormHoldEnd_keeps (code : Byte) (source : BitVec 16) : AnswersKeeping a (execStormHoldEnd code source s) :=
  answersKeeping_ite h (foldl_keeps _ (fun _ _ hq => deliverFault_keeps hq _) _ _ (setStorm_keeps h _))

theorem execHostAer_keeps (e : HostError) : AnswersKeeping a (execHostAer e s) := by
  refine answersKeeping_next (report_keeps ?_ _ _ _ _ _ _ _)
  split
  · exact ite_keeps (fun _ => countBad_keeps (setPoison_keeps h _ _) _) fun _ => h
  · exact h

theorem execSpareTakeover_keeps (u : SpareUnit) : AnswersKeeping a (execSpareTakeover u s) := by
  refine answersKeeping_next (settle_keeps ?_)
  cases u with
  | cluster c => exact takeCluster_keeps h _
  | region r => exact takeRegion_keeps h _

theorem execImbalanceWindow_keeps (x : Fin 64) (bytes : List Nat) : AnswersKeeping a (execImbalanceWindow x bytes s) :=
  answersKeeping_ite h (foldl_keeps _ (fun _ _ hq => judgeChannel_keeps hq _ _ _ _) _ _ h)

/-! ## Frames from peers (R260 to R277) -/

theorem execWriteAcknowledge_keeps (f : Frame) : AnswersKeeping a (execWriteAcknowledge f s) := by
  refine answersKeeping_next (accepted_keeps h _ _ _ fun _ hq => ?_)
  split
  · exact dropPost_keeps hq _ _
  · exact hq

theorem execWriteFailure_keeps (f : Frame) (cause : BitVec 4) : AnswersKeeping a (execWriteFailure f cause s) := by
  refine answersKeeping_next (accepted_keeps h _ _ _ fun _ hq => ?_)
  split
  · exact postedFailed_keeps (dropPost_keeps hq _ _) _ _ _
  · split
    · exact collFailed_keeps hq _
    · exact bump_keeps hq _

theorem execCreditAndAcknowledge_keeps (f : Frame) (credits : List Nat) :
    AnswersKeeping a (execCreditAndAcknowledge f credits s) :=
  answersKeeping_next (control_keeps h _ _ fun _ hq => pumpConn_keeps (setConn_keeps hq _ _ _) _ _)

theorem execFrameDiscarded_keeps (f : Frame) (why : Discard) : AnswersKeeping a (execFrameDiscarded f why s) := by
  refine answersKeeping_next (ite_keeps (fun _ => h) fun _ => ?_)
  cases why with
  | foreign => exact bump_keeps h _
  | crc => exact nakOnce_keeps (bump_keeps h _) _ _
  | version | seq => exact nakOnce_keeps h _ _

theorem execHello_keeps (f : Frame) (domain : Byte) (sender : HelloFrom) : AnswersKeeping a (execHello f domain sender s) :=
  answersKeeping_next (ite_keeps (fun _ => h) fun _ => ite_keeps (fun _ => bump_keeps h _) fun _ =>
    ite_keeps (fun _ => h) fun _ => helloFrom_keeps h _ _ _ _)

theorem execPauseFrame_keeps (sub pr : Fin 8) (quanta : BitVec 16) : AnswersKeeping a (execPauseFrame sub pr quanta s) := by
  have hpaused : Keeps a { s with pauses := smSet 0 s.pauses (sub.val * 8 + pr.val) quanta.toNat } :=
    h.upd rfl rfl rfl rfl rfl rfl rfl rfl rfl
  exact answersKeeping_next (ite_keeps (fun _ => h) fun _ => ite_keeps (fun _ => hpaused) fun _ =>
    foldl_keeps _ (fun _ _ hq => pumpConn_keeps hq _ _) _ _ hpaused)

theorem execPostedWriteTimeout_keeps (x : Fin 64) (tag : Word32) : AnswersKeeping a (execPostedWriteTimeout x tag s) := by
  refine answersKeeping_next ?_
  split
  · exact settle_keeps (postedFailed_keeps (dropPost_keeps h _ _) _ _ _)
  · exact h

theorem execCollective_keeps (f : Frame) (part : CollPart) : AnswersKeeping a (execCollective f part s) := by
  refine answersKeeping_next (accepted_keeps h _ _ _ fun _ hq => ite_keeps (fun _ => hq) fun _ => ?_)
  split
  · exact collArrives_keeps hq _ _
  · exact ite_keeps (fun _ => collArrives_keeps (countBad_keeps hq _) _ _) fun _ => answerWrite_keeps hq _ _

theorem execAbandonNotice_keeps (f : Frame) (g : Fin 64) (n : Word32) : AnswersKeeping a (execAbandonNotice f g n s) :=
  answersKeeping_next (accepted_keeps h _ _ _ fun _ hq => ite_keeps (fun _ => heardAbandon_keeps hq _ _) fun _ => hq)

theorem execStepVerdict_keeps (f : Frame) (g : Fin 64) (counter : Word) (finite : Bool) :
    AnswersKeeping a (execStepVerdict f g counter finite s) :=
  answersKeeping_next (accepted_keeps h _ _ _ fun _ hq => ite_keeps (fun _ => verdictArrives_keeps hq _ _ _ _) fun _ => hq)

/-! ## Resets, configuration and supply (R288, R421 to R430) -/

theorem execStandby_keeps : AnswersKeeping a (execStandby s) :=
  answersKeeping_next (ite_keeps (fun _ => h) fun _ => (coldCore_keeps h).upd rfl rfl rfl rfl rfl rfl rfl rfl rfl)

theorem execConfigurationRequest_keeps (op : ConfigOp) : AnswersKeeping a (execConfigurationRequest op s) := by
  have hdone (out : Output) : Keeps a (emit (configure s op) out) := emit_keeps (configure_keeps h op) out
  exact answersKeeping_next (ite_keeps (fun _ => h) fun _ => ite_keeps
    (fun _ => ite_keeps (fun _ => tdiError_keeps (hdone _)) fun _ => hdone _) fun _ => emit_keeps h _)

theorem powerPins_keeps (power : PowerSt) (pins : Pins) : Keeps a { s with power := power, pins := pins } :=
  h.upd rfl rfl rfl rfl rfl rfl rfl rfl rfl

theorem execThermalTrip_keeps (unit temp : Byte) : AnswersKeeping a (execThermalTrip unit temp s) :=
  answersKeeping_ite h (failPackage_keeps (supplyReport_keeps (powerPins_keeps (railsOff_keeps h computeRails) _ _) _ _ _ _))

theorem execRailFault_keeps (rail : Fin 25) : AnswersKeeping a (execRailFault rail s) := by
  have hoff := railsOff_keeps h (railsOfDie rail.val)
  refine answersKeeping_ite h (failPackage_keeps (supplyReport_keeps (ite_keeps (fun _ => ?_) fun _ => hoff) _ _ _ _))
  exact hoff.upd rfl rfl rfl rfl rfl rfl rfl rfl rfl

/-! ## Security and management (R387 to R400, R457 to R459) -/

theorem execGetCertificate_keeps (slot : Fin 8) : AnswersKeeping a (execGetCertificate slot s) :=
  answersKeeping_next (spdm_keeps h _ fun _ hq => ite_keeps (fun _ => spdmOk_keeps hq _) fun _ => spdmError_keeps hq _)

theorem execGetMeasurements_keeps (nonce : BitVec 256) : AnswersKeeping a (execGetMeasurements nonce s) :=
  answersKeeping_next (spdm_keeps h _ fun _ hq => ite_keeps (fun _ => spdmError_keeps hq _) fun _ => spdmOk_keeps hq _)

theorem execKeyExchange_keeps (keyHash : BitVec 384) (mutualAuth : Bool) :
    AnswersKeeping a (execKeyExchange keyHash mutualAuth s) := by
  refine answersKeeping_next (spdm_keeps h _ fun _ hq => ite_keeps (fun _ => spdmError_keeps hq _) fun _ =>
    spdmOk_keeps (refreshSec_keeps ?_) _)
  exact hq.upd rfl rfl rfl rfl rfl rfl rfl rfl rfl

theorem execIdeKm_keeps (session : Nat) (stream : Fin 3) (key : BitVec 256) :
    AnswersKeeping a (execIdeKm session stream key s) := by
  refine answersKeeping_next (inSession_keeps h _ _ fun _ _ hq => emit_keeps (refreshSec_keeps (advanceEpoch_keeps ?_)) _)
  exact hq.upd rfl rfl rfl rfl rfl rfl rfl rfl rfl

theorem execIdeStreamInsecure_keeps (stream : Fin 3) : AnswersKeeping a (execIdeStreamInsecure stream s) := by
  have hclear : Keeps a (refreshSec { s with sec := { s.sec with ideSecure := s.sec.ideSecure.set stream.val false } }) :=
    refreshSec_keeps (h.upd rfl rfl rfl rfl rfl rfl rfl rfl rfl)
  exact answersKeeping_next (ite_keeps (fun _ => tdiError_keeps hclear) fun _ => hclear)

theorem execTenantChange_keeps (failedDdr : List (Fin 12)) : AnswersKeeping a (execTenantChange failedDdr s) := by
  refine answersKeeping_next ?_
  split
  · exact ite_keeps (fun _ => closeChange_keeps
      (installPolicy_keeps (scrubAll_keeps (newKeys_keeps (endTenancyWork_keeps h)) _) _) _ _) fun _ => h
  · exact h

theorem execSmbAlertResponse_keeps : AnswersKeeping a (execSmbAlertResponse s) := by
  refine answersKeeping_ite h (smbWord_keeps ?_ _)
  exact h.upd rfl rfl rfl rfl rfl rfl rfl rfl rfl

theorem execLog_keeps (n : Option Nat) : AnswersKeeping a (execLog n s) :=
  answersKeeping_next (monitorLine_keeps h _ fun _ hq => ite_keeps (fun _ => monOk_keeps hq _) fun _ => monErr_keeps hq _)

theorem execFailrec_keeps : AnswersKeeping a (execFailrec s) :=
  answersKeeping_next (monitorLine_keeps h _ fun _ hq => ite_keeps (fun _ => monErr_keeps hq _) fun _ => monOk_keeps hq _)

theorem execRegr_keeps (offset : BitVec 26) : AnswersKeeping a (execRegr offset s) :=
  answersKeeping_next (openOnly_keeps h _ fun _ hq =>
    ite_keeps (fun _ => monOk_keeps (dropLatch_keeps hq _) _) fun _ => monFailed_keeps (dropLatch_keeps hq _))

theorem execRegw_keeps (offset : BitVec 26) (value : Word) : AnswersKeeping a (execRegw offset value s) := by
  refine answersKeeping_next (openOnly_keeps h _ fun q hq => ite_keeps (fun _ => monErr_keeps hq _) fun _ => ?_)
  have hwritten := barWrite_keeps hq .monitor offset.toNat 8 value
  exact ite_keeps (fun _ => monOk_keeps hwritten _) fun _ => monFailed_keeps hwritten

theorem execMemr_keeps (addr : Addr) (n : Nat) : AnswersKeeping a (execMemr addr n s) :=
  answersKeeping_next (openOnly_keeps h _ fun _ hq => ite_keeps (fun _ => monErr_keeps hq _) fun _ =>
    ite_keeps (fun _ => monFailed_keeps (bump_keeps hq _)) fun _ => ite_keeps (fun _ => emit_keeps hq _) fun _ => monOk_keeps hq _)

theorem execReset_keeps (scope : Nat) : AnswersKeeping a (execReset scope s) :=
  answersKeeping_next (openOnly_keeps h _ fun _ hq =>
    ite_keeps (fun _ => resetWrite_keeps (monOk_keeps hq _) _) fun _ => monErr_keeps hq _)

end Commands

/-! ## Every command and every step -/

/-- Every command answers a next state and keeps what `Keeps` says. -/
theorem exec_keeps (i : Instr) (s : State) : AnswersKeeping s (exec i s) := by
  have h : Keeps s s := .refl s
  cases i with
  | copy c => exact answersKeeping_next (withHalt_ringRow_keeps h .copy c)
  | zero c => exact answersKeeping_next (withHalt_ringRow_keeps h .zero c)
  | mma c ev => exact answersKeeping_next (ringRowWith_runOp_keeps h .mma ev c)
  | invoke c => exact answersKeeping_next (ringRowWith_runOp_keeps h .invoke c.ev c.cmd)
  | restore c failsAt => exact execRestore_keeps h c failsAt
  | restoreFrom c parts lost => exact answersKeeping_next (restoreRow_keeps h c parts lost)
  | distillGradStats c => exact execDistillGradStats_keeps h c
  | distillGradGrad c => exact execDistillGradGrad_keeps h c
  | pin c | unpin c | planes c | moveRelease c | add c | mul c | axpby c | scale c | convert c | transpose c | relu c | gelu c
  | silu c | reluBwd c | geluBwd c | siluBwd c | rmsnorm c | layernorm c | rmsnormBwd c | layernormBwd c | rowmax c | expSub c
  | rowsum c | rowdiv c | topk c | sum c | sumsq c | amax c | scaleSet c | sgdMom c | adam c | adamw c | fwd c | bwd c | bwdP c
  | append c | attnCombine c | allreduce c | reduceScatter c | allgather c | alltoall c | dispatch c | collCombine c
  | compressed c | sync c | step c | admitTable c | take c | register c | callRelease c | assayRead c | assayClear c
  | assayReadClear c | ctxRead c => exact answersKeeping_next (ringRow_runOp_keeps h _ c)
  | engineArbitration turn => exact execEngineArbitration_keeps h turn
  | deadlineMiss x n pos => exact execDeadlineMiss_keeps h x n pos
  | kindlingWindowEnd c => exact answersKeeping_ite h (setArr_keeps h _ _)
  | rampStep c mismatch => exact execRampStep_keeps h c mismatch
  | waitMet x n => exact execWaitMet_keeps h x n
  | semTimeout x n => exact execSemTimeout_keeps h x n
  | stepBoundary x lost cut => exact answersKeeping_next (settle_keeps (boundaryNow_keeps h _ _ _))
  | stepGroupTimeout x => exact answersKeeping_next (settle_keeps (groupTimeout_keeps h _))
  | snapshotStreamEnd x failed => exact execSnapshotStreamEnd_keeps h x failed
  | teardown x => exact answersKeeping_ite h (teardownNow_keeps h _ _)
  | epochRetired => exact answersKeeping_next (setRf_keeps h _ _ _ _)
  | doorbell x n place tee acc => exact execDoorbell_keeps h x n place tee acc
  | cancel x n place tee acc => exact execCancel_keeps h x n place tee acc
  | eventHead offset tee acc => exact execEventHead_keeps h offset tee acc
  | coalescingTimeout x n => exact answersKeeping_ite h (signal_keeps (modRing_keeps h _ _ _) _)
  | ptmDialogue root => exact answersKeeping_ite h (ptmMeasures_keeps h _)
  | bar4Read offset len => exact execBar4Read_keeps h offset len
  | bar4Write offset data ep => exact answersKeeping_ite h (settle_keeps (bar4Writes_keeps h _ _ _))
  | fourByteRead src offset => exact execFourByteRead_keeps h src offset
  | setUpdCtlGo src hostReadFails flashFails => exact execSetUpdCtlGo_keeps h src hostReadFails flashFails
  | registerWrite src offset size value => exact answersKeeping_next (barWrite_keeps h _ _ _ _)
  | contextEnable src x value | contextDisable src x value | contextLock src x value | ringEnable src x n value =>
    exact answersKeeping_ite h (barReg_keeps h _ _ _)
  | ringDisable src x n value => exact answersKeeping_next (ite_keeps (fun _ => h) fun _ => barReg_keeps h _ _ _)
  | forceRings src x rings | forceCtx src x | tierCxScript src x value | tierCxEmber src x value | peerCtlEn src value
  | hifTbSet src value | secTenantEndGo src | contextReset src x | engineReset src e | regionReset src r | dieWarmReset src d
  | packageWarmReset src => exact answersKeeping_next (barReg_keeps h _ _ _)
  | create x k => exact execCreate_keeps h x k
  | importAdapter x k => exact execImportAdapter_keeps h x k
  | rebuild k => exact answersKeeping_next (ite_keeps (fun _ => h) fun _ => settle_keeps (rebuildNow_keeps h _))
  | load x e readFails => exact execLoad_keeps h x e readFails
  | unload x e => exact execUnload_keeps h x e
  | faultMergeWindow agg => exact answersKeeping_next (passUp_keeps h _)
  | stormHoldEnd code source => exact execStormHoldEnd_keeps h code source
  | patrolRead store line found => exact answersKeeping_next (patrolFinds_keeps h _ _ _)
  | engineHang e => exact answersKeeping_next (ite_keeps (fun _ => h) fun _ => settle_keeps (watchdogTrips_keeps h _))
  | heartbeatMiss u => exact answersKeeping_next (settle_keeps (heartbeatsMissed_keeps h _))
  | hostAer e => exact execHostAer_keeps h e
  | ringFetch x n => exact answersKeeping_ite h (fetchFails_keeps h _ _)
  | spareTakeover u => exact execSpareTakeover_keeps h u
  | d2dRetrain link wire => exact answersKeeping_next (wireFails_keeps h _ _)
  | failureRecordWrite cutOff => exact answersKeeping_next (ite_keeps (fun _ => h) fun _ => writeRecord_keeps h)
  | stageSlabReady x slab => exact answersKeeping_next (settle_keeps (stageReady_keeps h _ _))
  | slabMoveDone page slab => exact answersKeeping_next (settle_keeps (slabMoved_keeps h _ _))
  | placementEpoch => exact answersKeeping_next (epochEnds_keeps h)
  | imbalanceWindow x bytes => exact execImbalanceWindow_keeps h x bytes
  | tierTimeout x req => exact answersKeeping_next (settle_keeps (tierFails_keeps h _ _))
  | backgroundSpill x => exact answersKeeping_ite h (settle_keeps (backgroundSpillNow_keeps h _))
  | bringBack x undecodable => exact answersKeeping_ite h (settle_keeps (bringBackNow_keeps h _ _))
  | subPortUp sub => exact answersKeeping_ite h (setRf_keeps h _ _ _ _)
  | read f => exact answersKeeping_next (accepted_keeps h _ _ _ fun _ hq => serveRead_keeps hq _)
  | postedWrite f => exact answersKeeping_next (accepted_keeps h _ _ _ fun _ hq => serveWrite_keeps hq _)
  | readData f failed => exact answersKeeping_next (accepted_keeps h _ _ _ fun _ hq => takeData_keeps hq _ _)
  | writeAcknowledge f => exact execWriteAcknowledge_keeps h f
  | writeFailure f cause => exact execWriteFailure_keeps h f cause
  | creditAndAcknowledge f credits => exact execCreditAndAcknowledge_keeps h f credits
  | negativeAcknowledge f => exact answersKeeping_next (control_keeps h _ _ fun _ hq => retransmit_keeps hq _ _)
  | retryTimeout sub pkg => exact answersKeeping_ite h (settle_keeps (retransmit_keeps h _ _))
  | frameDiscarded f why => exact execFrameDiscarded_keeps h f why
  | hello f domain sender => exact execHello_keeps h f domain sender
  | sendHello => exact answersKeeping_next (foldl_keeps _ (fun _ _ hq => sendHelloOn_keeps hq _) _ _ h)
  | missedHellos sub pkg => exact answersKeeping_next (settle_keeps (connDown_keeps h _ _))
  | pauseFrame sub pr quanta => exact execPauseFrame_keeps h sub pr quanta
  | postedWriteTimeout x tag => exact execPostedWriteTimeout_keeps h x tag
  | collective f part => exact execCollective_keeps h f part
  | abandonNotice f g n => exact execAbandonNotice_keeps h f g n
  | stepVerdict f g counter finite => exact execStepVerdict_keeps h f g counter finite
  | faultReport f code sev info => exact answersKeeping_next (accepted_keeps h _ _ _ fun _ hq => report_keeps hq _ _ _ _ _ _ _)
  | collectiveTimeout x g => exact answersKeeping_next (settle_keeps (failColls_keeps h _))
  | coldReset b => exact answersKeeping_next (coldReset_keeps h b)
  | functionLevelReset => exact answersKeeping_ite h (warmReset_keeps h)
  | pciePerstN => exact answersKeeping_next (warmReset_keeps h)
  | standby => exact execStandby_keeps h
  | ready => exact answersKeeping_next (ite_keeps (fun _ => h) fun _ => becomeReady_keeps h)
  | configurationRequest op => exact execConfigurationRequest_keeps h op
  | powerMeasurement w => exact answersKeeping_ite h (measure_keeps h _)
  | thermalSample dies hubs hbms =>
    exact answersKeeping_next (ite_keeps (fun _ => sampleAll_keeps h _ _ _) fun _ => setPower_keeps h _)
  | thermalTrip unit temp => exact execThermalTrip_keeps h unit temp
  | inputLow mv => exact answersKeeping_ite h (supplyReport_keeps (setPower_keeps h _) _ _ _ _)
  | inputOvercurrent amps => exact answersKeeping_ite h (supplyReport_keeps (setPower_keeps h _) _ _ _ _)
  | inputLowCleared => exact answersKeeping_next (setPower_keeps h _)
  | inputLoss => exact answersKeeping_next (ite_keeps (fun _ => h) fun _ => powerLoss_keeps (logEntry_keeps h _ _))
  | inputLossRecovery b => exact answersKeeping_ite h (coldReset_keeps h b)
  | railFault rail => exact execRailFault_keeps h rail
  | pllUnlock lockLost => exact answersKeeping_ite h (clocksLost_keeps h _)
  | tamperInput _ | voltageGlitch | clockGlitch | temperature => exact answersKeeping_next (alarm_keeps h _ _)
  | cellLow => exact answersKeeping_ite h (logEntry_keeps h _ _)
  | getCertificate slot => exact execGetCertificate_keeps h slot
  | challenge nonce => exact answersKeeping_next (spdm_keeps h _ fun _ hq => spdmOk_keeps hq _)
  | getMeasurements nonce => exact execGetMeasurements_keeps h nonce
  | keyExchange keyHash mutualAuth => exact execKeyExchange_keeps h keyHash mutualAuth
  | keyUpdate n => exact answersKeeping_next (inSession_keeps h _ _ fun _ _ hq => spdmOk_keeps hq _)
  | endSession n => exact answersKeeping_next (inSession_keeps h _ _ fun _ _ hq => spdmOk_keeps (closeSession_keeps hq _) _)
  | heartbeatTimeout n => exact answersKeeping_ite h (closeSession_keeps h _)
  | setPolicy n policy => exact answersKeeping_next (keyMessage_keeps h _ _ fun _ hq => setPolicyNow_keeps hq _)
  | putSetKey n setId key => exact answersKeeping_next (keyMessage_keeps h _ _ fun _ hq => putSetKeyNow_keeps hq _ _)
  | putAdapterKey n slot key => exact answersKeeping_next (keyMessage_keeps h _ _ fun _ hq => putAdapterKeyNow_keeps hq _ _)
  | eraseKey n kind ident => exact answersKeeping_next (keyMessage_keeps h _ _ fun _ hq => eraseKeyNow_keeps hq _ _)
  | preserve n => exact answersKeeping_next (keyMessage_keeps h _ _ fun _ hq => preserveNow_keeps hq)
  | endTenancy n => exact answersKeeping_next (keyMessage_keeps h _ _ fun _ hq => endTenancyNow_keeps hq)
  | readLog n => exact answersKeeping_next (inSession_keeps h _ _ fun _ _ hq => emit_keeps hq _)
  | ideKm n stream key => exact execIdeKm_keeps h n stream key
  | lockInterface n | startInterface n =>
    exact answersKeeping_next (tdispRequest_keeps h _ _ _ fun _ hq => setTdisp_keeps hq _)
  | stopInterface n => exact answersKeeping_next (tdispRequest_keeps h _ _ _ fun _ hq => setTdisp_keeps (tearAll_keeps hq) _)
  | ideStreamInsecure stream => exact execIdeStreamInsecure_keeps h stream
  | tenantChange failedDdr => exact execTenantChange_keeps h failedDdr
  | smbReadStatus | smbReadTemperature | smbReadPower | smbReadVoltage _ | smbReadPowerCap =>
    exact answersKeeping_next (smb_keeps h _ fun _ hq => smbWord_keeps hq _)
  | smbWritePowerCap watts => exact answersKeeping_next (smb_keeps h _ fun _ hq => writeReg_keeps (dropLatch_keeps hq _) _ _ _)
  | smbReadFailrec => exact answersKeeping_next (smb_keeps h _ fun _ hq => emit_keeps (countByte_keeps hq _) _)
  | smbAlertResponse => exact execSmbAlertResponse_keeps h
  | extest | idcode | bypass => exact answersKeeping_next (smb_keeps h _ fun _ hq => emit_keeps hq _)
  | help | status => exact answersKeeping_next (monitorLine_keeps h _ fun _ hq => monOk_keeps hq _)
  | log n => exact execLog_keeps h n
  | failrec => exact execFailrec_keeps h
  | regr offset => exact execRegr_keeps h offset
  | regw offset value => exact execRegw_keeps h offset value
  | memr addr n => exact execMemr_keeps h addr n
  | reset scope => exact execReset_keeps h scope
  | monitorUnknownLine long => exact answersKeeping_next (monitorLine_keeps h _ fun _ hq => monErr_keeps hq _)

/-- With commands waiting a step is the first of them, and else a tick. -/
theorem step_keeps (s : State) : AnswersKeeping { s with pending := s.pending.tail } (step s) := by
  unfold step
  cases hs : s.pending with
  | nil => exact answersKeeping_next (tick_keeps ((Keeps.refl _).upd hs rfl rfl rfl rfl rfl rfl rfl rfl))
  | cons c rest => exact exec_keeps c _

/-- What is kept on the way from a canonical state leaves one. -/
theorem canonical_of_keeps {a t : State} (h : Keeps a t) (ha : canonical a) : canonical t := by
  obtain ⟨hmem, hregs, hpoison, hlog⟩ := ha
  exact ⟨h.mem hmem, h.regs hregs, h.poison hpoison, (h.room hlog).2⟩

/-- Settles O5: every step, command or tick, keeps what `Keeps` says, and that is the canonical form. -/
theorem stepKeepsTheCanonicalForm : Obligations.StepKeepsTheCanonicalForm := by
  intro s t hs hstep
  obtain ⟨u, hu, hkeeps⟩ := step_keeps s
  obtain rfl : u = t := Host.Outcome.next.inj (hu.symm.trans hstep)
  exact canonical_of_keeps hkeeps hs

end Sys2Proof.Proofs
end

/-! ## Streams (spec/07_streams.md): doorbells, the event head, failed fetches and BAR4 -/

section
namespace Sys2Proof.Proofs
open Sys2Proof.Machine Sys2Proof.Laws

/-! ## Little-endian bytes (R4) -/

/-- The bytes of a number read back as it, as far as they go. -/
theorem leNat_leBytes (k n : Nat) : leNat (leBytes k n) = n % 256 ^ k := by
  induction k generalizing n with
  | zero => rw [pow_zero, Nat.mod_one]; rfl
  | succ k ih =>
    rw [pow_succ', Nat.mod_mul, ← ih]
    rfl

/-- Numbers that agree in their low bytes have the same low bytes. -/
theorem leBytes_congr {k n m : Nat} (h : n % 256 ^ k = m % 256 ^ k) : leBytes k n = leBytes k m := by
  induction k generalizing n m with
  | zero => rfl
  | succ k ih =>
    rw [pow_succ'] at h
    have hlow : n % 256 = m % 256 := by rw [← Nat.mod_mul_right_mod n 256 (256 ^ k), h, Nat.mod_mul_right_mod]
    have hhigh : n / 256 % 256 ^ k = m / 256 % 256 ^ k := by
      rw [← Nat.mod_mul_right_div_self, h, Nat.mod_mul_right_div_self]
    exact congrArg₂ List.cons (BitVec.eq_of_toNat_eq hlow) (ih hhigh)

theorem leBytes_add (j k n : Nat) : leBytes (j + k) n = leBytes j n ++ leBytes k (n / 256 ^ j) := by
  induction j generalizing n with
  | zero => simp only [Nat.zero_add, pow_zero, Nat.div_one, leBytes, List.nil_append]
  | succ j ih =>
    rw [Nat.succ_add, leBytes, leBytes, ih, Nat.div_div_eq_div_mul, ← pow_succ', List.cons_append]

/-- The word that stands at the place of its own bytes is the number. -/
theorem wordAt_of_bytes {data : List Byte} {i : Nat} {v : Word32} (h : (data.drop i).take 4 = leBytes 4 v.toNat) :
    wordAt data i = v := by
  rw [wordAt, h, leNat_leBytes]
  exact BitVec.eq_of_toNat_eq (by rw [BitVec.toNat_ofNat]; omega)

/-! ## The gate open (R288, R400) -/

section Serve
variable {s : State} {tee : Bool} (hserve : hostGate s tee = .serve)
include hserve

theorem gated_of_serve (act : State → State) : gated s tee act = act s := by
  rw [gated, hserve]

theorem barOpen_of_serve : barOpen s = true := by
  by_contra hshut
  rw [hostGate, if_pos (by rwa [Bool.not_eq_true', ← Bool.not_eq_true])] at hserve
  cases hserve

theorem bar2Read_of_serve (word place len : Nat) : bar2Read s tee word place len
    = emit s (.barRead (some (((leBytes 8 word).drop (place % 8) ++ List.replicate len 0).take len)) false) := by
  rw [bar2Read, barOpen_of_serve hserve, hserve]
  rfl

end Serve

/-! ## Doorbells (R291, R294) -/

/-- The bytes of a doorbell's word are those of its two counts. -/
theorem leBytes_doorbellWord (s : State) (x n : Nat) :
    leBytes 8 (doorbellWord s x n) = leBytes 4 (ringSt s x n).subTail ++ leBytes 4 (ringSt s x n).cplHead := by
  rw [leBytes_add 4 4, doorbellWord]
  exact congrArg₂ _ (leBytes_congr (by omega)) (leBytes_congr (by omega))

theorem ringValue_none (s : State) (x n : Nat) (accept : State → Nat → Nat → Nat → State) :
    ringValue s x n none accept = s := rfl

theorem ringValue_some (s : State) (x n : Nat) (v : Word32) (accept : State → Nat → Nat → Nat → State) :
    ringValue s x n (some v) accept = if !ringEn s x n then bump s .hifDbErrCnt else accept s x n v.toNat := by
  cases h : ringEn s x n <;> simp only [ringValue, h, Bool.not_true, Bool.not_false, Bool.false_eq_true, if_true, if_false]

theorem doorbellWrite_both (s : State) (x n : Nat) (a b : Word32) :
    doorbellWrite s x n 0 (leBytes 4 a.toNat ++ leBytes 4 b.toNat)
      = ringValue (ringValue s x n (some a) newSubTail) x n (some b) newCplHead := by
  have ha : wordAt (leBytes 4 a.toNat ++ leBytes 4 b.toNat) 0 = a := wordAt_of_bytes rfl
  have hb : wordAt (leBytes 4 a.toNat ++ leBytes 4 b.toNat) 4 = b := wordAt_of_bytes rfl
  rw [doorbellWrite, if_pos ⟨rfl, rfl⟩, ha, hb, ringDoorbell]

theorem doorbellWrite_low (s : State) (x n : Nat) (a : Word32) :
    doorbellWrite s x n 0 (leBytes 4 a.toNat) = ringValue s x n (some a) newSubTail := by
  have ha : wordAt (leBytes 4 a.toNat) 0 = a := wordAt_of_bytes rfl
  rw [doorbellWrite, if_neg (by simp), if_pos ⟨rfl, rfl⟩, ha, ringDoorbell, ringValue_none]

theorem doorbellWrite_high (s : State) (x n : Nat) (b : Word32) :
    doorbellWrite s x n 4 (leBytes 4 b.toNat) = ringValue s x n (some b) newCplHead := by
  have hb : wordAt (leBytes 4 b.toNat) 0 = b := wordAt_of_bytes rfl
  rw [doorbellWrite, if_neg (by simp), if_neg (by simp), if_pos ⟨rfl, rfl⟩, hb, ringDoorbell, ringValue_none]

/-- A value that breaks the rules, with the ring's number as it is. -/
theorem refuseDoorbell_eq (s : State) (x : Nat) (n : Fin 16) (which v : Nat) : refuseDoorbell s x n which v
    = writeEvent (bump s .hifDbErrCnt) x ⟨0x08, none, none, 0, n.val + which * 2 ^ 4 + v % 2 ^ 32 * 2 ^ 32⟩ := by
  rw [refuseDoorbell, Nat.mod_eq_of_lt n.isLt]

section Doorbell
variable {s : State} {tee : Bool} (hserve : hostGate s tee = .serve) (x : Fin 64) (n : Fin 16)
include hserve

theorem exec_doorbell_write {place : BitVec 12} (hplace : place.toNat < 8) (data : List Byte) :
    exec (.doorbell x n place tee (.write data)) s = .next (doorbellWrite s x n place.toNat data) := by
  change Host.Outcome.next (if 8 ≤ place.toNat then s else gated s tee _) = _
  rw [if_neg (Nat.not_le.mpr hplace), gated_of_serve hserve]

theorem exec_doorbell_read : exec (.doorbell x n 0 tee (.read 8)) s = .next (emit s (.barRead (some
    (leBytes 4 (ringSt s x n).subTail ++ leBytes 4 (ringSt s x n).cplHead)) false)) := by
  change Host.Outcome.next (bar2Read s tee (doorbellWord s x n) 0 8) = _
  rw [bar2Read_of_serve hserve, leBytes_doorbellWord]
  rfl

end Doorbell

/-! ## The event head (R291) -/

/-- The event head of a context stands at offset 16 of its page 0. -/
theorem bar2_eventHead (x : Fin 64) : bar2Ctx (BitVec.ofNat 22 (x.val * 0x10000 + 16)) = x.val
    ∧ bar2Ring (BitVec.ofNat 22 (x.val * 0x10000 + 16)) = 0 ∧ bar2Place (BitVec.ofNat 22 (x.val * 0x10000 + 16)) = 16 := by
  have hx := x.isLt
  have hval : (BitVec.ofNat 22 (x.val * 0x10000 + 16)).toNat = x.val * 0x10000 + 16 := by
    rw [BitVec.toNat_ofNat]
    omega
  simp only [bar2Ctx, bar2Ring, bar2Place, hval]
  omega

theorem exec_eventHead (offset : BitVec 22) (tee : Bool) (acc : Bar2Access) (s : State) :
    exec (.eventHead offset tee acc) s = execEventHead offset tee acc s := rfl

theorem exec_eventHead_write {s : State} {tee : Bool} (hserve : hostGate s tee = .serve) (x : Fin 64) (v : Word32) :
    exec (.eventHead (BitVec.ofNat 22 (x.val * 0x10000 + 16)) tee (.write (leBytes 4 v.toNat))) s
      = .next (newEvtHead s x.val v.toNat) := by
  obtain ⟨hctx, hring, hplace⟩ := bar2_eventHead x
  have hv : wordAt (leBytes 4 v.toNat) 0 = v := wordAt_of_bytes rfl
  rw [exec_eventHead]
  simp only [execEventHead, hctx, hring, hplace, gated_of_serve hserve, hv, leBytes_length]
  rw [if_neg (by decide), if_pos (by decide)]

/-! ## BAR4 (R290) -/

theorem exec_bar4Read_of_open {s : State} {offset : BitVec 34} {len : Nat} (hopen : barOpen s = true)
    (hbar : bar4Present s = true) (hlen : offset.toNat + len ≤ 2 ^ 34) :
    exec (.bar4Read offset len) s = .next (bar4Reads s (bar4Addr s offset) len) := by
  change execBar4Read _ _ _ = _
  rw [execBar4Read, hopen, hbar, decide_eq_false (Nat.not_lt.mpr hlen)]
  rfl

theorem exec_bar4Write_of_open {s : State} {offset : BitVec 34} {data : List Byte} {ep : Bool} (hopen : barOpen s = true)
    (hbar : bar4Present s = true) (hlen : offset.toNat + data.length ≤ 2 ^ 34) :
    exec (.bar4Write offset data ep) s = .next (settle (bar4Writes s (bar4Addr s offset) data ep)) := by
  change execBar4Write _ _ _ _ = _
  rw [execBar4Write, hopen, hbar, decide_eq_true hlen]
  rfl

/-- Settles O37: each row with the gate, the ring or the aperture open is its operation, and a doorbell is judged value by value
(`ringValue_some`). -/
theorem hostEventsAct : Obligations.HostEventsAct := by
  intro s x n tee bad tail head
  have htail (u : State) (v : Word32) : ringValue u x n (some v) newSubTail = tail u v := by
    rw [ringValue_some, newSubTail, refuseDoorbell_eq]
    rfl
  have hhead (u : State) (v : Word32) : ringValue u x n (some v) newCplHead = head u v := by
    rw [ringValue_some, newCplHead, refuseDoorbell_eq]
    rfl
  refine ⟨fun hserve => ⟨fun a b => ⟨?both, ?low, ?high⟩, exec_doorbell_read hserve x n, exec_eventHead_write hserve x⟩,
    fun hold => ?coalesced, fun hopen hhost => ?fetch, fun hopen hbar offset data len ep => ?bar4⟩
  case both =>
    rw [exec_doorbell_write hserve x n (by decide), ← htail, ← hhead]
    exact congrArg _ (doorbellWrite_both s x n a b)
  case low =>
    rw [exec_doorbell_write hserve x n (by decide), ← htail]
    exact congrArg _ (doorbellWrite_low s x n a)
  case high =>
    rw [exec_doorbell_write hserve x n (by decide), ← hhead]
    exact congrArg _ (doorbellWrite_high s x n b)
  case coalesced => exact congrArg Host.Outcome.next (if_pos hold)
  case fetch =>
    have hfetch : (ringOpen s x n && rngOf (ringBase s (.ctxCxSq x n)) == some .host) = true := by rw [hopen, hhost]; rfl
    exact congrArg Host.Outcome.next (if_pos hfetch)
  case bar4 =>
    intro a
    refine ⟨fun hlen => ?read, fun hlen => ?write⟩
    case read => rw [exec_bar4Read_of_open hopen hbar hlen, bar4Reads]
    case write => rw [exec_bar4Write_of_open hopen hbar hlen, bar4Writes]

end Sys2Proof.Proofs
end

/-! ## Collectives (spec/08_distillation.md, spec/11_peer_links_collectives.md): how the rows of COLL begin -/

section
namespace Sys2Proof.Proofs
open Sys2Proof.Machine Sys2Proof.Laws

/-! ## The command that a row of COLL reads (R273, R298, R299) -/

/-- The rows of COLL. -/
def collRows : List (RingOp × (Cmd → Instr)) :=
  [(.allreduce, .allreduce), (.reduceScatter, .reduceScatter), (.allgather, .allgather), (.alltoall, .alltoall),
   (.dispatch, .dispatch), (.collCombine, .collCombine), (.compressed, .compressed)]

/-- Every row of COLL is one `ringRow`, whose work is `runColl` of its operation. -/
theorem exec_coll_of_starts : ∀ p ∈ collRows, ∀ (c : Cmd) (s : State), starts s p.1 c = true →
    exec (p.2 c) s = .next (settle (runColl p.1 (workState s c) (workCmd s c))) := by
  simp only [collRows, List.forall_mem_cons, List.not_mem_nil, false_imp_iff, implies_true, and_true]
  and_intros
  all_goals exact fun _ _ => exec_of_ringRow rfl

theorem collRows_code : ∀ p ∈ collRows, p.1.code.1 = 4
    ∧ (p.1.code.2 == 4 || p.1.code.2 == 5) = (decide (p.1 = .dispatch) || decide (p.1 = .collCombine)) := by
  decide

theorem code_of_opOfCode {cls n : Nat} {op : RingOp} (h : opOfCode cls n = some op) : op.code = (cls, n) := by
  unfold opOfCode at h
  split at h <;> cases h <;> rfl

/-- A descriptor that spells a command has its class and operation code. -/
theorem code_of_ofDesc {d : Desc} {op : RingOp} (h : RingOp.ofDesc d = some op) : op.code = (d.cls, d.opCode) :=
  code_of_opOfCode h

/-- No map places a descriptor of a COLL elsewhere. -/
theorem translateAt_of_coll {d : Desc} {op : RingOp} (hd : RingOp.ofDesc d = some op) (hcls : op.code.1 = 4) (s : State)
    (m : List Nat) : translateAt s m d = d := by
  have hd4 : d.cls = 4 := by rw [← hcls, code_of_ofDesc hd]
  have ht : translate m d = d := by rw [Machine.translate, if_pos (by omega)]
  have hne : (RingOp.ofDesc d == some .distillStats) = false := by
    rw [hd]
    refine beq_false_of_ne fun h => ?_
    cases h
    exact absurd hcls (by decide)
  simp only [translateAt, ht, hne, Bool.false_and, Bool.false_eq_true, if_false]

theorem workCmd_d_of_coll {s : State} {op : RingOp} {c : Cmd} (h : starts s op c = true) (hcls : op.code.1 = 4) :
    (workCmd s c).d = c.d := by
  obtain ⟨hreads, -⟩ := starts_iff.mp h
  obtain ⟨hd, -⟩ := reads_iff.mp hreads
  exact translateAt_of_coll hd hcls _ _

/-- The command that starts spells the row's operation. -/
theorem ofDesc_workCmd_of_coll {s : State} {op : RingOp} {c : Cmd} (h : starts s op c = true) (hcls : op.code.1 = 4) :
    RingOp.ofDesc (workCmd s c).d = some op := by
  obtain ⟨hreads, -⟩ := starts_iff.mp h
  rw [workCmd_d_of_coll h hcls]
  exact (reads_iff.mp hreads).1

/-- The operation decides whether what lands is the teacher's (R189). -/
theorem collEval_of_ofDesc {p : RingOp × (Cmd → Instr)} (hp : p ∈ collRows) {d : Desc} (hd : RingOp.ofDesc d = some p.1) :
    collEval d = (decide (p.1 = .dispatch) || decide (p.1 = .collCombine)) := by
  obtain ⟨-, heval⟩ := collRows_code p hp
  rw [← heval, code_of_ofDesc hd]
  rfl

/-! ## Messages leave the registers and what has arrived alone (R264, R276) -/

/-- What sending leaves alone, as far as an exchange reads it: the registers and what has arrived. -/
def exchangeView (s : State) : List (Nat × Word) × List (Nat × CollPart) := (s.regs, s.collIn)

theorem exchangeView_pumpFrames (sub pkg : Nat) (fs : List Sent) :
    ∀ (s : State) (blocked : List Nat), exchangeView (pumpFrames s sub pkg blocked fs) = exchangeView s := by
  induction fs with
  | nil => exact fun _ _ => rfl
  | cons f fs ih =>
    intro s blocked
    rw [pumpFrames]
    extract_lets
    split
    · exact ih _ _
    · exact ih _ _

theorem exchangeView_sendMessage (s : State) (pkg vc typ cx tag poison : Nat) (payload : List Byte) :
    exchangeView (sendMessage s pkg vc typ cx tag poison payload) = exchangeView s := by
  unfold sendMessage
  split
  · rfl
  · exact exchangeView_pumpFrames _ _ _ _ _

theorem exchangeView_tellMembers (s : State) (o : OutCmd) (payload : List Byte) :
    exchangeView (tellMembers s o payload) = exchangeView s :=
  List.foldlRecOn (motive := fun t => exchangeView t = exchangeView s) _ _ rfl fun _ ht _ _ =>
    (exchangeView_sendMessage _ _ _ _ _ _ _ _).trans ht

theorem clMembers_of_regs {s t : State} (h : t.regs = s.regs) (d : Desc) : clMembers t d = clMembers s d := by
  simp only [clMembers, grpMembers, ownPkg, reg_of_regs h, rf_of_regs h]

theorem clPeers_of_regs {s t : State} (h : t.regs = s.regs) (d : Desc) : clPeers t d = clPeers s d := by
  simp only [clPeers, clMembers_of_regs h, ownPkg, rf_of_regs h]

/-! ## An exchange that waits (R276) -/

theorem bodiesFrom_of_silent {s : State} {g : Nat} (h : ∀ q ∈ s.collIn, q.2.group.val ≠ g) (n pkg : Nat) :
    bodiesFrom s g n pkg = [] := by
  rw [bodiesFrom, List.map_eq_nil_iff, List.filter_eq_nil_iff]
  intro q hq
  simp only [beq_false_of_ne (h q hq), Bool.and_false, Bool.false_and, Bool.false_eq_true, not_false_iff]

theorem any_collIn_of_silent {s : State} {g : Nat} (h : ∀ q ∈ s.collIn, q.2.group.val ≠ g) (f : Nat × CollPart → Bool)
    (p : Nat) : (s.collIn.any fun q => q.1 == p && q.2.group.val == g && f q) = false := by
  rw [List.any_eq_false]
  intro q hq
  simp only [beq_false_of_ne (h q hq), Bool.and_false, Bool.false_and, Bool.false_eq_true, not_false_iff]

/-- A handshake that no member has answered waits, as long as there is another member. -/
theorem collStep_of_silent {s : State} {o : OutCmd} (hst : o.st = .coll .shake)
    (hin : ∀ q ∈ s.collIn, q.2.group.val ≠ clGroup o.d) (hpeers : clPeers s o.d ≠ []) : collStep s o = none := by
  have hshake : ∀ p, shakeOf (bodiesFrom s (clGroup o.d) o.seqNo p) = none := fun p => by
    rw [bodiesFrom_of_silent hin]
    rfl
  have hany : ((clPeers s o.d).any fun _ => false) = false := List.any_eq_false.mpr fun _ _ => Bool.false_ne_true
  have hall : ((clPeers s o.d).all fun _ => false) = false :=
    have ⟨k, hk⟩ := List.exists_mem_of_ne_nil _ hpeers
    List.all_eq_false.mpr ⟨k, hk, Bool.false_ne_true⟩
  simp only [collStep, hst, hshake, any_collIn_of_silent hin, hany, hall, Option.any_none, Option.isSome_none, Bool.and_false,
    Bool.not_false, if_true, Bool.false_eq_true, if_false]

/-- What is found under a command's number once it has been put there is that command. -/
theorem eq_of_findOut_putOut {s : State} {o p : OutCmd} (h : findOut (putOut s o) o.ident = some p) : p = o := by
  obtain ⟨q, -, hq⟩ := List.mem_map.mp (List.mem_of_find?_eq_some h)
  have hp : p.ident = o.ident := beq_iff_eq.mp (List.find?_some (p := fun q : OutCmd => q.ident == o.ident) h)
  by_cases hi : q.ident = o.ident
  · rw [← hq, if_pos (beq_iff_eq.mpr hi)]
  · rw [if_neg (mt beq_iff_eq.mp hi)] at hq
    exact absurd (hq ▸ hp) hi

/-- A handshake that waits goes no further. -/
theorem collGoes_of_silent {s : State} {o : OutCmd} (hst : o.st = .coll .shake)
    (hin : ∀ q ∈ s.collIn, q.2.group.val ≠ clGroup o.d) (hpeers : clPeers s o.d ≠ []) (k : Nat) :
    collGoes k (putOut s o) o.ident = putOut s o := by
  cases k with
  | zero => rfl
  | succ k =>
    rw [collGoes]
    split
    next => rfl
    next p hp =>
      have hstep : collStep (putOut s o) p = none := by
        rw [eq_of_findOut_putOut hp]
        exact collStep_of_silent hst hin hpeers
      simp only [hstep]

/-! ## How an exchange opens (R276, R277, R284) -/

section Open
variable {s : State} {o : OutCmd}

/-- Nothing has arrived from any rank. -/
def noParts : Nat → Lines := fun _ => ⟨[], []⟩

/-- No rank has returned anything. -/
def noBlocks : Nat → Lines × Stats := fun _ => (⟨[], []⟩, Stats.empty)

theorem openColl_of_alone (h : clMembers s o.d = [ownPkg s]) :
    openColl s o = finishColl (collOp o) (forgetPast s (clGroup o.d)) o noParts noBlocks := by
  have hone : (clMembers (forgetPast s (clGroup o.d)) o.d).length ≤ 1 := by
    change (clMembers s o.d).length ≤ 1
    rw [h]
    exact Nat.le_refl 1
  rw [openColl]
  exact if_pos hone

theorem collFailed_of_notBegun (h : collBegun o = false) :
    collFailed s o = endColl (setRemotePoisoned (clAbandon s o) o.ctx true) o stRemoteFail := by
  rw [collFailed, h, if_neg Bool.false_ne_true]

theorem openColl_of_abandoned (hbegun : collBegun o = false)
    (hmore : 1 < (clMembers (forgetPast s (clGroup o.d)) o.d).length)
    (ha : (forgetPast s (clGroup o.d)).abandoned.contains (clGroup o.d, o.seqNo) = true) :
    let u := forgetPast s (clGroup o.d)
    openColl s o = endColl (setRemotePoisoned
      (clAbandon { u with abandoned := u.abandoned.filter (· != (clGroup o.d, o.seqNo)) } o) o.ctx true) o stRemoteFail := by
  rw [openColl, if_neg (Nat.not_le_of_lt hmore), if_pos ha, collFailed_of_notBegun hbegun]

theorem openColl_of_silent (hmore : 1 < (clMembers (forgetPast s (clGroup o.d)) o.d).length)
    (ha : (forgetPast s (clGroup o.d)).abandoned.contains (clGroup o.d, o.seqNo) = false)
    (hin : ∀ q ∈ (forgetPast s (clGroup o.d)).collIn, q.2.group.val ≠ clGroup o.d)
    (hpeer : ∃ k ∈ clMembers (forgetPast s (clGroup o.d)) o.d, k ≠ ownPkg (forgetPast s (clGroup o.d))) :
    let u := forgetPast s (clGroup o.d)
    openColl s o = putOut (tellMembers u o (messageLine 0 (clGroup o.d) o.seqNo (paramBits (collParams u o))))
      { o with st := .coll .shake } := by
  intro u
  rw [openColl, if_neg (Nat.not_le_of_lt hmore), if_neg (Bool.eq_false_iff.mp ha)]
  obtain ⟨hregs, harrived⟩ := Prod.mk.inj
    (exchangeView_tellMembers u o (messageLine 0 (clGroup o.d) o.seqNo (paramBits (collParams u o))))
  obtain ⟨k, hk, hne⟩ := hpeer
  have hpeers : clPeers u o.d ≠ [] := List.ne_nil_of_mem (List.mem_filter.mpr ⟨hk, bne_iff_ne.mpr hne⟩)
  exact collGoes_of_silent (o := { o with st := .coll .shake }) rfl (fun q hq => hin q (harrived ▸ hq))
    (by rwa [clPeers_of_regs hregs]) 4

end Open

/-! ## What a COLL of this package alone lands (R192 to R198, R274, R280) -/

section Alone
variable {s : State} {x : Nat} {d : Desc}

theorem clRank_of_alone (h : clMembers s d = [ownPkg s]) : clRank s d = 0 := by
  rw [clRank, h, List.idxOf_cons_self]

/-- A gather's one block is this package's own. -/
theorem gatherOut_of_alone (h : clMembers s d = [ownPkg s]) (op : RingOp) (parts : Nat → Lines) :
    gatherOut s x op d parts = Out.concat [outCopy s (clSrc d) (clDst d) (gatherBytes s x d)] := by
  have hfrom : gatherFrom s x op d 0 = clSrc d := by rw [gatherFrom, Nat.zero_mul, ite_self, Nat.add_zero]
  simp only [gatherOut, h, clRank_of_alone h, List.length_singleton, List.range_one, List.map_singleton, if_true, hfrom,
    Nat.zero_mul, Nat.add_zero]

/-- What a DISPATCH of this package alone writes: its rows at the experts, from position 0 on, the assignments and the summary. -/
def dispatchAlone (s : State) (x : Nat) (d : Desc) : Out :=
  let b := expertBlock s (clAux d)
  let as := assignAll s x d b
  Out.concat (((servedBy s b (ownPkg s)).map fun e =>
      placeExpert (tensor s x (clSTid d)).fmt (clCount d) b (expertAt s b.map e) (rowsFor s x d b as e))
    ++ [assignOut s b as fun _ => 0, summaryOut s b (realTokens s x d b).length as])

/-- The assignments of a DISPATCH that are rerouted. -/
def reroutes (s : State) (x : Nat) (d : Desc) : List Assign :=
  (assignAll s x d (expertBlock s (clAux d))).filter (rerouted s (expertBlock s (clAux d)))

theorem servedRows_own (b : ExpertBlock) (as : List Assign) (parts : Nat → Lines) (e : Nat) :
    servedRows s x d b as parts (clRank s d) e = rowsFor s x d b as e := by
  rw [servedRows, if_pos rfl]

theorem servedRows_of_alone (h : clMembers s d = [ownPkg s]) (b : ExpertBlock) (as : List Assign) (parts : Nat → Lines)
    (e : Nat) : ((List.range (clMembers s d).length).flatMap fun r => servedRows s x d b as parts r e) = rowsFor s x d b as e := by
  have hrank := clRank_of_alone h
  rw [h, List.length_singleton, List.range_one, List.flatMap_singleton, ← hrank, servedRows_own]

theorem dispatchOut_of_alone (h : clMembers s d = [ownPkg s]) (parts : Nat → Lines) :
    dispatchOut s x d parts noParts = (dispatchAlone s x d, (reroutes s x d).length) := by
  have hreturned (q n : Nat) : leNat (((noParts q).data.drop n).take 2) = 0 := by
    rw [noParts, List.drop_nil, List.take_nil, leNat]
  have hfirst (b : ExpertBlock) (as : List Assign) (e : Nat) : servedBase s x d b as parts 0 e = 0 := rfl
  simp only [dispatchOut, servedRows_of_alone h, clRank_of_alone h, hreturned, hfirst, ite_self]
  rfl

end Alone

/-! ## The end of an exchange that needs nothing of others (R274, R280, R282) -/

section Finish
variable {s : State} {o : OutCmd} (hgot : o.got = []) (hbad : o.gotBad = [])
include hgot hbad

theorem collView_of_nothingRead : collView s o = s := by
  rw [collView, hgot, hbad]
  rfl

theorem finishColl_reduction_of_alone (h : clMembers s o.d = [ownPkg s]) {op : RingOp}
    (hop : op = .allreduce ∨ op = .reduceScatter) (parts : Nat → Lines) (blocks : Nat → Lines × Stats) :
    finishColl op s o parts blocks = landColl s o (aloneOut s o.ctx o.d) Out.empty := by
  have hone : (clMembers s o.d).length ≤ 1 := by rw [h, List.length_singleton]
  rcases hop with rfl | rfl <;> simp only [finishColl, collView_of_nothingRead hgot hbad, if_pos hone]

theorem finishColl_gather_of_alone (h : clMembers s o.d = [ownPkg s]) {op : RingOp}
    (hop : op = .allgather ∨ op = .alltoall) (parts : Nat → Lines) (blocks : Nat → Lines × Stats) :
    finishColl op s o parts blocks
      = landColl s o Out.empty (Out.concat [outCopy s (clSrc o.d) (clDst o.d) (gatherBytes s o.ctx o.d)]) := by
  rcases hop with rfl | rfl <;> simp only [finishColl, collView_of_nothingRead hgot hbad, gatherOut_of_alone h]

theorem finishColl_dispatch_of_alone (h : clMembers s o.d = [ownPkg s]) (parts : Nat → Lines) :
    finishColl .dispatch s o parts noBlocks =
      landColl (bumpBy s (.telCxReroutes o.ctx) 0 48 (reroutes s o.ctx o.d).length) o Out.empty (dispatchAlone s o.ctx o.d) := by
  have hout : dispatchOut s o.ctx o.d parts (fun r => (noBlocks r).1)
      = (dispatchAlone s o.ctx o.d, (reroutes s o.ctx o.d).length) :=
    dispatchOut_of_alone h parts
  simp only [finishColl, collView_of_nothingRead hgot hbad, hout]

/-- A COMBINE whose outputs are all on this package lands its rows at once. -/
theorem finishColl_combine_of_near (hnear : combineLines s o.ctx o.d = []) (parts : Nat → Lines)
    (blocks : Nat → Lines × Stats) :
    finishColl .collCombine s o parts blocks = landColl s o (combineOut s o.ctx o.d) Out.empty := by
  simp only [finishColl, startCombine, combineNow, collView_of_nothingRead hgot hbad, hnear, List.isEmpty_nil, if_true]

theorem finishColl_compressed (parts : Nat → Lines) (blocks : Nat → Lines × Stats) :
    finishColl .compressed s o parts blocks
      = landColl s o (compressedOut s o.ctx o.d parts).1 (compressedOut s o.ctx o.d parts).2 := by
  simp only [finishColl, collView_of_nothingRead hgot hbad]

end Finish

/-! ## A row of COLL journals its flip, then opens its exchange (R283) -/

section Run
variable {op : RingOp} {s : State} {o : OutCmd}

/-- The flip that a COMPRESSED journals before anything else; none where there is no room for it. -/
def flipOf (s : State) (o : OutCmd) : Option State := journalAdd s o.ctx o.d [] (.flip (clAux o.d))

/-- The state once a COMPRESSED has journalled its flip; every other operation journals none. -/
def flipped (op : RingOp) (s : State) (o : OutCmd) : State := if op = .compressed then (flipOf s o).getD s else s

theorem runColl_of_noRoom (hop : op = .compressed) (h : flipOf s o = none) :
    runColl op s o = endColl (clAbandon s o) o stQuota := by
  subst hop
  change journalAdd s o.ctx o.d [] (.flip (clAux o.d)) = none at h
  simp only [runColl, beq_self_eq_true, if_true, h]

theorem runColl_of_near (hroom : op = .compressed → flipOf s o ≠ none) (hnear : collFetch (flipped op s o) o = []) :
    runColl op s o = openColl (flipped op s o) o := by
  have hflip : (if op == .compressed then journalAdd s o.ctx o.d [] (.flip (clAux o.d)) else some s) = some (flipped op s o) := by
    by_cases hop : op = .compressed
    · obtain ⟨t, ht⟩ := Option.ne_none_iff_exists'.mp (hroom hop)
      rw [if_pos (beq_iff_eq.mpr hop), flipped, if_pos hop, ht, Option.getD_some]
      exact ht
    · rw [if_neg (mt beq_iff_eq.mp hop), flipped, if_neg hop]
  rw [runColl, hflip]
  simp only [hnear, List.isEmpty_nil, if_true]

end Run

/-- Settles O27: each row runs as `runColl`, which journals a flip where it has one and then opens the exchange in one of three
ways: alone it lands what `finishColl` gives each operation, with silent members it waits, and an abandoned one fails. -/
theorem collectivesExchangeWithTheirGroup : Obligations.CollectivesExchangeWithTheirGroup := by
  intro p hp c s hstart v o d x g flip w u none' land
  obtain ⟨hcls, -⟩ := collRows_code p hp
  have hd : RingOp.ofDesc o.d = some p.1 := ofDesc_workCmd_of_coll hstart hcls
  have hop : collOp o = p.1 := by rw [collOp, hd, Option.getD_some]
  have hland : ∀ y counted plain, land y counted plain = landColl y o counted plain := by
    intro y counted plain
    simp only [landColl, endColl, collEval_of_ofDesc hp hd]
    rfl
  have hexec {t : State} (ht : runColl p.1 v o = t) : exec (p.2 c) s = .next (settle t) := by
    rw [exec_coll_of_starts p hp c s hstart, ← ht]
  refine ⟨fun hcomp hflip => hexec (runColl_of_noRoom hcomp hflip), fun hroom hnear => ?opens⟩
  have hopens : runColl p.1 v o = openColl w o := runColl_of_near hroom hnear
  refine ⟨fun hself => ?alone, fun hmore hgoes hsilent hpeer => ?waits, fun hmore hgone => ?abandoned⟩
  case alone =>
    have halone : clMembers u o.d = [ownPkg u] := hself
    have hfinish : runColl p.1 v o = finishColl p.1 u o noParts noBlocks := by
      rw [hopens, openColl_of_alone hself, hop]
    refine ⟨fun hred => ?reduction, fun hgat => ?gather, fun hdis => ?dispatch, fun hcomb hlines => ?combine,
      fun hcomp => ?compressed⟩
    case reduction => exact hexec (by rw [hfinish, hland, finishColl_reduction_of_alone rfl rfl halone hred]; rfl)
    case gather => exact hexec (by rw [hfinish, hland, finishColl_gather_of_alone rfl rfl halone hgat]; rfl)
    case dispatch => exact hexec (by rw [hfinish, hland, hdis, finishColl_dispatch_of_alone rfl rfl halone]; rfl)
    case combine => exact hexec (by rw [hfinish, hland, hcomb, finishColl_combine_of_near rfl rfl hlines]; rfl)
    case compressed => exact hexec (by rw [hfinish, hland, hcomp, finishColl_compressed rfl rfl]; rfl)
  case waits => exact hexec (hopens.trans (openColl_of_silent hmore hgoes hsilent hpeer))
  case abandoned => exact hexec (hopens.trans (openColl_of_abandoned rfl hmore hgone))

end Sys2Proof.Proofs
end

/-! ## Training steps (spec/09_training_steps.md): waits that end, teardown, step boundaries and verdicts -/

section
namespace Sys2Proof.Proofs
open Sys2Proof.Machine Sys2Proof.Laws

/-! ## The waits of SYNCs and of a context that drains (R300, R302, R342, R344) -/

section Waits
variable {s : State} {x : Fin 64} {n : Fin 16} {o : OutCmd}

theorem exec_waitMet_of_met
    (h : (s.outs.find? fun o => o.ctx == x.val && o.ring == n.val && o.st == .syncWait && waitMetNow s o.d) = some o) :
    exec (.waitMet x n) s = .next (settle (finishSync s o)) := by
  change execWaitMet x n s = _
  rw [execWaitMet, h]

theorem exec_semTimeout_of_unmet
    (h : (s.outs.find? fun o => o.ctx == x.val && o.ring == n.val && o.st == .syncWait) = some o)
    (hunmet : waitMetNow s o.d = false) :
    exec (.semTimeout x n) s
      = .next (teardownNow (writeEvent s x.val (cmdEvent o 0x09 (syWaitAddr o.d))) x.val (some o.ident)) := by
  change execSemTimeout x n s = _
  simp only [execSemTimeout, h, hunmet, Bool.false_eq_true, if_false]

theorem exec_teardown_of_drained (hdis : (ctx s x.val).disabling = true) (hdrained : ringsDrained s x.val = true) :
    exec (.teardown x) s = .next (teardownNow s x.val none) := by
  change execTeardown x s = _
  simp only [execTeardown, hdis, hdrained, Bool.and_self, if_true]

end Waits

/-- The teardown of a context that is not idle, whole (R344). -/
theorem teardownNow_of_busy {s : State} {x : Nat} (h : ctxIdle s x = false) (fault : Option Nat) :
    teardownNow s x fault =
      let w := setRf (setRf s (.schCxStat x) 0 16 0xFFFF) (.schCxStat x) 32 1 1
      settle (markIdle (releaseOwned (faultCause (endWork w x fault) x (fault.bind (findOut s))) x) x) := by
  rw [teardownNow, if_neg (Bool.eq_false_iff.mp h)]

/-! ## The stages of a boundary (R220, R222) -/

theorem exec_stepBoundary (x : Fin 64) (lost : List Addr) (cut : List (Nat × SpareUnit)) (s : State) :
    exec (.stepBoundary x lost cut) s = .next (settle (boundaryNow s x.val (lost.map BitVec.toNat) cut)) := rfl

theorem exec_stepGroupTimeout (x : Fin 64) (s : State) :
    exec (.stepGroupTimeout x) s = .next (settle (groupTimeout s x.val)) := rfl

section Boundary
variable {s : State} {x : Nat} {o : OutCmd}

/-- The running STEP is a command of the context. -/
theorem ctx_of_runningStep (h : runningStep s x = some o) : o.ctx = x := by
  have hp := List.find?_some h
  obtain ⟨hctx, -⟩ := Bool.and_eq_true_iff.mp hp
  exact beq_iff_eq.mp hctx

section Running
variable (hrun : runningStep s x = some o)
include hrun

theorem boundaryNow_of_fence (hst : o.st = .stepFence) (hdrained : fenceDrained s o = true) (lost : List Nat)
    (cut : List (Nat × SpareUnit)) : boundaryNow s x lost cut = checkStep s o lost cut := by
  simp only [boundaryNow, hrun, hst, hdrained, if_true]

theorem boundaryNow_of_group {cause : Nat} (hst : o.st = .stepGroup cause) (hin : verdictsIn s o.d = true) (lost : List Nat)
    (cut : List (Nat × SpareUnit)) : boundaryNow s x lost cut = groupDecides s o cause lost cut := by
  simp only [boundaryNow, hrun, hst, hin, if_true]

theorem boundaryNow_of_rebuilt {status : Nat} (hst : o.st = .stepRebuild status) (hready : rebuildWaits s x = false)
    (lost : List Nat) (cut : List (Nat × SpareUnit)) : boundaryNow s x lost cut = afterRebuild s o status lost := by
  simp only [boundaryNow, hrun, hst, hready, Bool.false_eq_true, if_false]

theorem groupTimeout_of_silent {cause : Nat} (hst : o.st = .stepGroup cause) (hsilent : verdictsIn s o.d = false) :
    groupTimeout s x = decideStep (setRemotePoisoned (takeVerdicts s (spGroup o.d) (groupPeers s o.d)) x true) o
      (cause ||| causePeer) [] [] := by
  simp only [groupTimeout, hrun, hst, hsilent, Bool.false_eq_true, if_false]

end Running

theorem checkStep_of_remotePoisoned (h : remotePoisoned s o.ctx = true) (lost : List Nat) (cut : List (Nat × SpareUnit)) :
    checkStep s o lost cut = complete s o stRemoteFail ((reg s (.ctxCxStep o.ctx)).toNat % 2 ^ 32) := by
  rw [checkStep, if_pos h]

theorem checkStep_of_noGroup (h : remotePoisoned s o.ctx = false) (hgroup : spGroupEn o.d = false) (lost : List Nat)
    (cut : List (Nat × SpareUnit)) : checkStep s o lost cut = decideStep s o (stepCause s o) lost cut := by
  simp only [checkStep, h, hgroup, Bool.false_eq_true, if_false]

theorem checkStep_of_group (h : remotePoisoned s o.ctx = false) (hgroup : spGroupEn o.d = true) (lost : List Nat)
    (cut : List (Nat × SpareUnit)) :
    checkStep s o lost cut =
      let u := sendVerdict s o (stepCause s o == 0)
      let q : OutCmd := { o with st := .stepGroup (stepCause s o) }
      if verdictsIn u o.d then groupDecides u q (stepCause s o) lost cut else putOut u q := by
  simp only [checkStep, h, hgroup, Bool.false_eq_true, if_false, if_true]

end Boundary

/-! ## Void and commit (R217, R221) -/

/-- An emptied journal counts no entry. -/
theorem emptyJournal_eq (s : State) (x : Nat) :
    emptyJournal s x = setRf (modCtx s x fun c => { c with journal := [] }) (.ctxCxJrnlStat x) 0 17 0 := by
  have hjournal : (ctx (modCtx s x fun c => { c with journal := [] }) x).journal = [] := by
    rw [ctx, modCtx, setCtx, smGet_smSet_same]
  rw [emptyJournal, refreshUsed, hjournal, List.length_nil]

/-- A STEP that has its verdict voids, loads maps, or commits and goes on once no rebuild is due, all in its own context. -/
theorem decideStep_of_ctx {o : OutCmd} {x : Nat} (hctx : o.ctx = x) (s : State) (cause : Nat) (lost : List Nat)
    (cut : List (Nat × SpareUnit)) :
    decideStep s o cause lost cut =
      if cause ≠ 0 then finishBoundary (voidStep s o) o stStepVoid cause lost
      else if spMapLoad o.d then finishBoundary (mapLoadStep s o) o stOk 0 lost
      else
        let r := commitStep s o cut
        if rebuildWaits r.1 x then putOut r.1 { o with st := .stepRebuild r.2 }
        else finishBoundary (cutAtCommit r.1 x (r.2 == stOk)) o r.2 0 lost := by
  subst hctx
  rfl

/-! ## Verdicts of other packages (R222, R265) -/

theorem accepted_of_accepts {s : State} {f : Frame} (h : accepts s f = true) (vc : Nat) (act : State → State) :
    accepted s f vc act = settle (act (received s f vc)) := by
  simp only [accepts, Bool.and_eq_true, beq_iff_eq] at h
  obtain ⟨⟨⟨⟨⟨hsub, hup⟩, hdst⟩, hcrc⟩, hversion⟩, hseq⟩ := h
  simp only [accepted, received, hsub, hup, hdst, hcrc, hversion, hseq, bne_self_eq_false, Bool.or_self, Bool.not_true,
    Bool.false_eq_true, if_false, ne_eq, not_true_eq_false]

/-- A package is another member of the group. -/
def otherMember (s : State) (g p : Nat) : Bool := (grpMembers s g).contains p && p != ownPkg s

theorem otherMember_iff {s : State} {g p : Nat} :
    otherMember s g p = true ↔ (grpMembers s g).contains p = true ∧ p ≠ ownPkg s := by
  rw [otherMember, Bool.and_eq_true, bne_iff_ne]

theorem exec_stepVerdict_of_accepts {s : State} {f : Frame} (h : accepts s f = true) (g : Fin 64) (k : Word) (fin : Bool) :
    exec (.stepVerdict f g k fin) s = .next (settle (
      if otherMember (received s f 4) g.val f.src.val then verdictArrives (received s f 4) g.val f.src.val k fin
      else received s f 4)) := by
  change execStepVerdict f g k fin s = _
  rw [execStepVerdict, accepted_of_accepts h]
  rfl

/-- Settles O35: each row comes to one function of the model (`finishSync`, `teardownNow`, `boundaryNow`, `groupTimeout`,
`verdictArrives`), and a boundary's stages all end in `decideStep` or `finishBoundary`, which the statement writes out for
the STEP's own context. -/
theorem waitsAndStepEventsAct : Obligations.WaitsAndStepEventsAct := by
  intro s x torn finish empty commit decide' judged
  have htorn {v : State} (hbusy : ctxIdle v x.val = false) (fault : Option Nat) : teardownNow v x.val fault = torn v fault := by
    rw [teardownNow_of_busy hbusy]
    rfl
  have hfinish {o : OutCmd} (hctx : o.ctx = x.val) (u : State) (status cause : Nat) (lost : List Addr) :
      finishBoundary u o status cause (lost.map BitVec.toNat) = finish u o status cause lost := by
    simp only [finishBoundary, hctx]
    rfl
  have hcommit {o : OutCmd} (hctx : o.ctx = x.val) (u : State) (cut : List (Nat × SpareUnit)) :
      commitStep u o cut = commit u o cut := by
    simp only [commitStep, hctx, emptyJournal_eq]
    rfl
  have hdecide {o : OutCmd} (hctx : o.ctx = x.val) (u : State) (cause : Nat) (lost : List Addr) (cut : List (Nat × SpareUnit)) :
      decideStep u o cause (lost.map BitVec.toNat) cut = decide' u o cause lost cut := by
    have hvoid : voidStep u o = zeroAccs (bump (empty (clearAmax u x.val)) (.telCxVoids x.val)) o.d := by
      rw [voidStep, emptyJournal_eq, hctx]
    have hload : mapLoadStep u o =
        let v := zeroAccs (clearAmax u x.val) o.d
        modCtx v x.val fun c =>
          { c with maps := tableMaps v x.val, rings := c.rings.map fun p => (p.1, { p.2 with map := 0 }) } := by
      rw [mapLoadStep, hctx]
    simp only [decide', decideStep_of_ctx hctx, hvoid, hload, hcommit hctx, hfinish hctx]
  have hjudged {o : OutCmd} (hctx : o.ctx = x.val) (u : State) (cause : Nat) (lost : List Addr) (cut : List (Nat × SpareUnit)) :
      groupDecides u o cause (lost.map BitVec.toNat) cut = judged u o cause lost cut := by
    simp only [groupDecides, hdecide hctx, hctx]
    rfl
  refine ⟨fun n o hfind => exec_waitMet_of_met hfind, fun n o hfind hunmet => ?late, fun hdis hdrained hbusy => ?drained,
    fun lost cut o hrun => ?boundary, fun f g k fin hacc => ?verdict⟩
  case late =>
    intro u hbusy
    rw [exec_semTimeout_of_unmet hfind hunmet, htorn hbusy]
  case drained => rw [exec_teardown_of_drained hdis hdrained, htorn hbusy]
  case boundary =>
    have hctx : o.ctx = x.val := ctx_of_runningStep hrun
    have hexec {t : State} (ht : boundaryNow s x.val (lost.map BitVec.toNat) cut = t) :
        exec (.stepBoundary x lost cut) s = .next (settle t) := by
      rw [exec_stepBoundary, ht]
    refine ⟨fun hst hdrained hpoisoned => ?poisoned, fun hst hdrained hclean hgroup => ?noGroup,
      fun hst hdrained hclean hgroup => ?group, fun cause hst hin => ?judged, fun status hst hready => ?rebuilt,
      fun cause hst hsilent => ?timeout⟩
    case poisoned =>
      refine hexec ?_
      rw [← hctx] at hpoisoned
      rw [boundaryNow_of_fence hrun hst hdrained, checkStep_of_remotePoisoned hpoisoned, hctx]
    case noGroup =>
      refine hexec ?_
      rw [← hctx] at hclean
      rw [boundaryNow_of_fence hrun hst hdrained, checkStep_of_noGroup hclean hgroup, hdecide hctx]
    case group =>
      intro u q
      rw [← hctx] at hclean
      have hq : q.ctx = x.val := hctx
      refine hexec ?_
      rw [boundaryNow_of_fence hrun hst hdrained, checkStep_of_group hclean hgroup, ← hjudged hq]
    case judged =>
      refine hexec ?_
      rw [boundaryNow_of_group hrun hst hin, hjudged hctx]
    case rebuilt =>
      refine hexec ?_
      rw [boundaryNow_of_rebuilt hrun hst hready, afterRebuild, hfinish hctx, hctx]
    case timeout =>
      have hlate := groupTimeout_of_silent hrun hst hsilent
      rw [← List.map_nil (f := BitVec.toNat (w := 48)), hdecide hctx] at hlate
      rw [exec_stepGroupTimeout, hlate]
  case verdict =>
    rw [exec_stepVerdict_of_accepts hacc]
    refine ⟨fun hmember hother => ?_, fun hnot => ?_⟩
    · rw [if_pos (otherMember_iff.mpr ⟨hmember, hother⟩)]
      rfl
    · have hnone : ¬ otherMember (received s f 4) g.val f.src.val = true := by
        rw [otherMember_iff]
        rintro ⟨hmember, hother⟩
        rcases hnot with hout | hown
        · exact Bool.eq_false_iff.mp hout hmember
        · exact hother hown
      rw [if_neg hnone]

end Sys2Proof.Proofs
end

/-! ## Restores served (spec/14_fault_tolerance.md, R372, R373): RESTORE reads its generation, RESTORE_FROM joins its sources' parts -/

section
namespace Sys2Proof.Proofs
open Sys2Proof.Machine

/-! ## A restore that has its generation (R372) -/

/-- The state once a restore has cancelled the context's staged ADMITs (R372 step 3). -/
def stagedCancelled (s : State) (x : Nat) : State :=
  (s.outs.filter fun p => p.ctx == x && p.st == .staged).foldl (fun s p => complete s p stCancelled 0) s

section Restore
variable {s : State} {o : OutCmd} {g : Gen}

theorem restoreWith_of_backed (hb : backPages s o.ctx (genPages s g) ≠ none) (failsAt : Option Nat) (failSt : Nat) :
    restoreWith s o (some g) failsAt failSt = applyGen (stagedCancelled s o.ctx) o g failsAt failSt := by
  rw [restoreWith, if_neg (by rwa [Option.isNone_iff_eq_none])]
  rfl

theorem restoreWith_of_notBacked (hb : backPages s o.ctx (genPages s g) = none) (failsAt : Option Nat) (failSt : Nat) :
    restoreWith s o (some g) failsAt failSt = complete s o stQuota 0 := by
  rw [restoreWith, if_pos (by rwa [Option.isNone_iff_eq_none])]

theorem runRestore_of_backed (hg : restoreGen (abortOthers s o) o.ctx o.d = some g)
    (hb : backPages (abortOthers s o) o.ctx (genPages (abortOthers s o) g) ≠ none) (failsAt : Option Nat) :
    runRestore failsAt s o = applyGen (stagedCancelled (abortOthers s o) o.ctx) o g failsAt stTierFail := by
  rw [runRestore, hg, restoreWith_of_backed hb]

/-! ## The parts of the sources (R373) -/

variable {parts : List SnapPart}

theorem supplyRestore_of_backed (hj : joinParts s o.ctx o.d parts = some g)
    (hb : backPages s o.ctx (genPages s g) ≠ none) (lost : Bool) :
    supplyRestore s o parts lost =
      applyGen (stagedCancelled s o.ctx) o g (if lost then some 0 else none) stRemoteFail := by
  rw [supplyRestore, hj]
  exact restoreWith_of_backed hb _ _

theorem supplyRestore_of_notBacked (hj : joinParts s o.ctx o.d parts = some g)
    (hb : backPages s o.ctx (genPages s g) = none) (lost : Bool) :
    supplyRestore s o parts lost = complete s o stQuota 0 := by
  rw [supplyRestore, hj]
  exact restoreWith_of_notBacked hb _ _

theorem supplyRestore_of_notJoined (hj : joinParts s o.ctx o.d parts = none) (lost : Bool) :
    supplyRestore s o parts lost = complete s o (if lost then stRemoteFail else stBadDesc) 0 := by
  rw [supplyRestore, hj]

end Restore

/-! ## The row of RESTORE_FROM -/

section RestoreRow
variable {s : State} {c : Cmd} (parts : List SnapPart) (lost : Bool)

theorem exec_restoreFrom_of_waiting {o : OutCmd} (h : waitingRestore s c = some o) :
    exec (.restoreFrom c parts lost) s = .next (settle (supplyRestore s o parts lost)) := by
  change Host.Outcome.next (restoreRow c parts lost s) = _
  rw [restoreRow, h]

theorem exec_restoreFrom_of_starts (hw : waitingRestore s c = none) (h : starts s .restoreFrom c = true) :
    exec (.restoreFrom c parts lost) s = .next (settle
      (supplyRestore (abortOthers (workState s c) (workCmd s c)) (workCmd s c) parts lost)) := by
  change Host.Outcome.next (restoreRow c parts lost s) = _
  rw [restoreRow, hw]
  exact congrArg Host.Outcome.next (ringRow_of_starts (fun s o => supplyRestore (abortOthers s o) o parts lost) h)

end RestoreRow

/-- Settles O29: both rows apply a generation to the context once its staged ADMITs are cancelled (`runRestore_of_backed`,
`supplyRestore_of_backed`), and `applyGen` is the statement's in its two cases: with a read that fails, and with none. -/
theorem restoreFromIsServedByItsSources : Obligations.RestoreFromIsServedByItsSources := by
  intro c s failsAt parts lost back served
  have hback (v : State) (o : OutCmd) (g : Gen) (failsAt : Option Nat) (failSt : Nat) :
      applyGen (stagedCancelled v o.ctx) o g failsAt failSt = back v o g failsAt failSt := by
    cases failsAt with
    | none => rfl
    | some k => rfl
  have hserved (v : State) (o : OutCmd) : served v o (settle (supplyRestore v o parts lost)) :=
    ⟨fun g hj hb => by rw [supplyRestore_of_backed hj hb, hback],
      fun g hj hb => by rw [supplyRestore_of_notBacked hj hb],
      fun hj => by rw [supplyRestore_of_notJoined hj]⟩
  refine ⟨fun h => ?restore, fun o hw => ?waiting, fun hw h => ?read⟩
  case restore =>
    intro o v g hg hb
    rw [exec_of_ringRow (i := .restore c failsAt) (run := runRestore failsAt) rfl h, runRestore_of_backed hg hb, hback]
  case waiting => exact ⟨_, exec_restoreFrom_of_waiting parts lost hw, hserved s o⟩
  case read => exact ⟨_, exec_restoreFrom_of_starts parts lost hw h, hserved _ _⟩

end Sys2Proof.Proofs
end

/-! ## Adapters and packages (spec/10_adapters.md, R239, R247, R248, R254; spec/15_security.md, R397): their requests end -/

section
namespace Sys2Proof.Proofs
open Sys2Proof.Machine

/-- The state once what a fetch has read is known: its free values are spent (log entry 27). -/
def fetched (s : State) : State := { s with free := s.free + 1 }

/-! ## CREATE (R247, R248) -/

section Create
variable {s : State} {x : Nat} {q : AdpReq}

theorem exec_create_of_pending {x : Fin 64} {k : BitVec 16} (h : pendingReq s x.val 1 k.toNat = some q) :
    exec (.create x k) s = .next (settle (createNow s x.val q)) := by
  change execCreate x k s = _
  rw [execCreate, h]

/-- What a CREATE reads and writes. -/
def createPlan (s : State) (x : Nat) (q : AdpReq) : Plan := buildPlan s x (adpEntry s q.entry) []

/-- A CREATE with its pages backed and both of its moments zeroed; the flag says that a frame was exhausted. -/
def momentsZeroed (s : State) (x : Nat) (q : AdpReq) : State × Bool :=
  let n := adpEntry s q.entry
  let u := backPlan s x (createPlan s x q)
  let p := adapterParams u x (layoutOf u (entLayout n))
  storeCells u ((List.range (4 * p)).map fun i => (entState n + 4 * p + i, (0 : Byte))) []

/-- The digest of the master that a CREATE finds (R248). -/
def masterDigest (s : State) (x : Nat) (q : AdpReq) : BitVec 384 :=
  let n := adpEntry s q.entry
  let u := backPlan s x (createPlan s x q)
  Config.sha384 (readBytes u (entState n) (4 * adapterParams u x (layoutOf u (entLayout n))))

theorem createNow_of_refused {st : Nat} (h : planFails s x (createPlan s x q) = some st) :
    createNow s x q = requestFailed s x q st := by
  unfold createNow
  change (match planFails s x (createPlan s x q) with | some st => _ | none => _) = _
  rw [h]

theorem createNow_of_planned (h : planFails s x (createPlan s x q) = none) :
    createNow s x q = if (momentsZeroed s x q).2 then requestFailed (momentsZeroed s x q).1 x q stKeyExhausted
      else buildAdapter (momentsZeroed s x q).1 x q (adpEntry s q.entry) 0 (masterDigest s x q) := by
  unfold createNow
  change (match planFails s x (createPlan s x q) with | some st => _ | none => _) = _
  rw [h]
  rfl

end Create

/-! ## IMPORT (R248, R249) -/

section Import
variable {s : State} {x : Nat} {q : AdpReq}

theorem exec_importAdapter_of_pending {x : Fin 64} {k : BitVec 16} (h : pendingReq s x.val 2 k.toNat = some q) :
    exec (.importAdapter x k) s = .next (settle (importNow s x.val q)) := by
  change execImportAdapter x k s = _
  rw [execImportAdapter, h]

/-- Parameters of the adapter that a request builds. -/
def requestParams (s : State) (x : Nat) (q : AdpReq) : Nat := adapterParams s x (layoutOf s (entLayout (adpEntry s q.entry)))

/-- What an IMPORT reads and writes: its archive too, where the layout may be read. -/
def importPlan (s : State) (x : Nat) (q : AdpReq) : Plan :=
  let n := adpEntry s q.entry
  if (buildPlan s x n []).exts.isEmpty then buildPlan s x n []
  else buildPlan s x n [ext false (entArch n) (archiveBytes (requestParams s x q))]

/-- The header of an IMPORT's archive. -/
def importHeader (s : State) (q : AdpReq) : List Byte := fetchedBytes s (entArch (adpEntry s q.entry)) 128

/-- The plaintext of an IMPORT's archive: none where its header is another's, or its tag fails (R249). -/
def importOpened (s : State) (x : Nat) (q : AdpReq) (key : AdpKey) : Option (List Byte) :=
  let a := entArch (adpEntry s q.entry)
  let p := requestParams s x q
  let h := importHeader s q
  if archiveOk h q.adapter p then
    Config.gcmOpen key.key (BitVec.ofNat 96 (bitsAt (leNat h) 128 96)) h (fetchedBytes s (a + 128) (8 * p))
      (BitVec.ofNat 128 (leNat (fetchedBytes s (a + 128 + 8 * p) 16)))
  else none

/-- An IMPORT with its pages backed and its plaintext in the state extent; the flag says that a frame was exhausted. -/
def importStored (s : State) (x : Nat) (q : AdpReq) (pt : List Byte) : State × Bool :=
  let n := adpEntry s q.entry
  let p := requestParams s x q
  let v := backPlan (fetched s) x (importPlan s x q)
  let o := outBytes (entState n) ((List.range (8 * p)).map fun i => pt.getD i 0) (anyPoison v (entArch n) (archiveBytes p))
  storeCells v o.cells o.bad

theorem importNow_of_noKey (h : adpKey s q.adapter = none) : importNow s x q = requestFailed s x q stBadDesc := by
  simp only [importNow, h]

section Keyed
variable {key : AdpKey} (hkey : adpKey s q.adapter = some key)
include hkey

theorem importNow_of_refused {st : Nat} (h : planFails s x (importPlan s x q) = some st) :
    importNow s x q = requestFailed s x q st := by
  rw [importNow, hkey]
  change (match planFails s x (importPlan s x q) with | some st => _ | none => _) = _
  rw [h]

variable (hplan : planFails s x (importPlan s x q) = none)
include hplan

theorem importNow_of_barred (h : archBarred s (entArch (adpEntry s q.entry)) = true) :
    importNow s x q = requestFailed (requestFails s x (entArch (adpEntry s q.entry)) 0) x q stTierFail := by
  rw [importNow, hkey]
  change (match planFails s x (importPlan s x q) with | some st => _ | none => _) = _
  rw [hplan]
  exact if_pos h

variable (hhost : archBarred s (entArch (adpEntry s q.entry)) = false)
include hhost

theorem importNow_of_readable : importNow s x q =
    match importOpened s x q key with
    | none => requestFailed (fetched s) x q stBadDesc
    | some pt =>
      if (importStored s x q pt).2 then requestFailed (importStored s x q pt).1 x q stKeyExhausted
      else buildAdapter (importStored s x q pt).1 x q (adpEntry s q.entry) (bitsAt (leNat (importHeader s q)) 64 48)
        (BitVec.ofNat 384 (bitsAt (leNat (importHeader s q)) 256 384)) := by
  rw [importNow, hkey]
  change (match planFails s x (importPlan s x q) with | some st => _ | none => _) = _
  rw [hplan]
  refine (if_neg (Bool.eq_false_iff.mp hhost)).trans ?_
  extract_lets
  split
  next hnone =>
    have hopened : importOpened s x q key = none := hnone
    rw [hopened]
    rfl
  next pt hpt =>
    have hopened : importOpened s x q key = some pt := hpt
    rw [hopened]
    rfl

theorem importNow_of_notOpened (h : importOpened s x q key = none) :
    importNow s x q = requestFailed (fetched s) x q stBadDesc := by
  rw [importNow_of_readable hkey hplan hhost, h]

theorem importNow_of_opened {pt : List Byte} (h : importOpened s x q key = some pt) :
    importNow s x q = if (importStored s x q pt).2 then requestFailed (importStored s x q pt).1 x q stKeyExhausted
      else buildAdapter (importStored s x q pt).1 x q (adpEntry s q.entry) (bitsAt (leNat (importHeader s q)) 64 48)
        (BitVec.ofNat 384 (bitsAt (leNat (importHeader s q)) 256 384)) := by
  rw [importNow_of_readable hkey hplan hhost, h]

end Keyed

end Import

/-! ## Rebuilds (R253, R254) -/

theorem exec_rebuild_of_due {s : State} {k : BitVec 16} (hfree : passInUse s k.toNat = false)
    (hdue : (adp s k.toNat).rebuildDue = true) :
    let a := adp s k.toNat
    let u := (buildPass s a.owner k.toNat (adpLayout s a) a.stAddr a.passAddr).1
    exec (.rebuild k) s = .next (settle (setAdp u k.toNat { adp u k.toNat with rebuildDue := false })) := by
  intro a u
  change execRebuild k s = _
  rw [execRebuild, if_neg (Bool.eq_false_iff.mp hfree), rebuildNow, if_pos hdue]

/-! ## Packages (R397, R398) -/

section Package
variable {s : State} {x : Nat} {e dst len : Nat}

theorem exec_load_of_loading {x : Fin 64} {i : BitVec 8} {op : Nat} (h : loadingAt s x.val i.toNat 1 = some (e, op, dst, len))
    (fails : Bool) : exec (.load x i fails) s = .next (loadNow s x.val e dst len fails) := by
  change execLoad x i fails s = _
  rw [execLoad, h]

theorem exec_unload_of_loading {x : Fin 64} {i : BitVec 8} {op : Nat} (h : loadingAt s x.val i.toNat 2 = some (e, op, dst, len)) :
    exec (.unload x i) s = .next (unloadNow s x.val e) := by
  change execUnload x i s = _
  rw [execUnload, h]

/-- The package that a LOAD reads, as it is stored. -/
def loadImage (s : State) (e : Nat) : List Byte :=
  fetchedBytes s (pkgArch (pkgEntry s e)) (pkgBytes (pkgHeader s (pkgEntry s e)))

/-- The plaintext of the package that a LOAD reads, if it opens. -/
def loadPlain (s : State) (e : Nat) : Option (List Byte) :=
  pkgPlain (fetched s) (pkgHeader s (pkgEntry s e)) ((loadImage s e).take 128) ((loadImage s e).drop 128)

/-- A LOAD's plaintext in its destination; the flag says that a frame was exhausted. -/
def loadStored (s : State) (e dst len : Nat) (pt : List Byte) : State × Bool :=
  let n := pkgEntry s e
  let o := outBytes dst ((List.range len).map fun i => pt.getD i 0) (anyPoison s (pkgArch n) (pkgBytes (pkgHeader s n)))
  storeCells (fetched s) o.cells o.bad

/-- The record of a package that a LOAD has placed. -/
def loadRecord (s : State) (x e dst len : Nat) : Package :=
  ⟨x, resolve (fetched s) dst, len, pkgFrozen (pkgEntry s e), Config.sha384 (loadImage s e)⟩

variable {fails : Bool}

theorem loadNow_of_unread (h : (fails || archBarred (fetched s) (pkgArch (pkgEntry s e))) = true) :
    loadNow s x e dst len fails
      = loadFails (requestFails (fetched s) x (pkgArch (pkgEntry s e)) 0) x e dst len stTierFail := by
  rw [loadNow]
  exact if_pos h

variable (hread : (fails || archBarred (fetched s) (pkgArch (pkgEntry s e))) = false)
include hread

theorem loadNow_of_placed {pt : List Byte} {k : Nat} (hpt : loadPlain s e = some pt) (hk : freeSlot (fetched s) = some k) :
    loadNow s x e dst len fails =
      let r := loadStored s e dst len pt
      if r.2 then loadFails r.1 x e dst len stKeyExhausted
      else loadEnds (advanceEpoch { r.1 with packages := smSet none r.1.packages k (some (loadRecord s x e dst len)) })
        x e stOk (some k) := by
  rw [loadNow]
  refine (if_neg (Bool.eq_false_iff.mp hread)).trans ?_
  change (match loadPlain s e, freeSlot (fetched s) with | some pt, some k => _ | _, _ => _) = _
  rw [hpt, hk]
  rfl

theorem loadNow_of_notPlaced (h : ∀ pt k, loadPlain s e = some pt → freeSlot (fetched s) ≠ some k) :
    loadNow s x e dst len fails = loadFails (fetched s) x e dst len stBadDesc := by
  rw [loadNow]
  refine (if_neg (Bool.eq_false_iff.mp hread)).trans ?_
  extract_lets
  split
  next pt k hpt hk => exact absurd hk (h pt k hpt)
  next => rfl

end Package

/-- Settles O43: each row ends the request that waits, in the cases of `createNow`, `importNow` and `loadNow`; an image that is
due is built by `exec_rebuild_of_due`, and an unload's two cases are those of `unloadNow`. -/
theorem adapterAndPackageEventsAct : Obligations.AdapterAndPackageEventsAct := by
  intro s x k i fails failed built ends zeroed
  refine ⟨fun q hq => ?create, fun q hq => ?importing, fun hfree hdue => exec_rebuild_of_due hfree hdue,
    fun e op dst len hq => ?load, fun e op dst len hq => ?unload⟩
  case create =>
    rw [exec_create_of_pending hq]
    refine congrArg (fun t => Host.Outcome.next (settle t)) ?_
    extract_lets n
    split
    next st hplan =>
      rw [createNow_of_refused hplan]
      rfl
    next hplan =>
      rw [createNow_of_planned hplan]
      rfl
  case importing =>
    intro n p plan
    rw [exec_importAdapter_of_pending hq]
    refine ⟨fun hkey => ?noKey, fun key hkey => ⟨fun st hplan => ?refused, fun hplan hbar => ?barred, fun hplan hbar => ?read⟩⟩
    case noKey =>
      rw [importNow_of_noKey hkey]
      rfl
    case refused =>
      rw [importNow_of_refused hkey hplan]
      rfl
    case barred =>
      rw [importNow_of_barred hkey hplan hbar]
      rfl
    case read =>
      intro h ct tag u nonce opened
      refine ⟨fun hsealed => ?sealed, fun pt hopened => ?opened⟩
      case sealed =>
        rw [importNow_of_notOpened hkey hplan hbar hsealed]
        rfl
      case opened =>
        rw [importNow_of_opened hkey hplan hbar hopened]
        rfl
  case load =>
    intro n h image u
    rw [exec_load_of_loading hq]
    refine congrArg Host.Outcome.next ?_
    split
    next hbar =>
      rw [loadNow_of_unread hbar]
      rfl
    next hbar =>
      have hread := Bool.eq_false_iff.mpr hbar
      split
      next pt slot hpt hslot =>
        rw [loadNow_of_placed hread hpt hslot]
        rfl
      next hnone =>
        rw [loadNow_of_notPlaced hread hnone]
        rfl
  case unload =>
    rw [exec_unload_of_loading hq, unloadNow]
    rfl

end Sys2Proof.Proofs
end

section
namespace Sys2Proof.Proofs
open Sys2Proof.Machine Sys2Proof.Laws

/-! ## Steps (R295) -/

/-- Settles O1: putting a command at the front of the queue leaves the rest behind it. -/
theorem stepTakesTheFrontCommand : Obligations.StepTakesTheFrontCommand := by
  intro s c rest
  refine ⟨rfl, fun h => ?_⟩
  rw [step, h]

/-- Settles O6: every command answers a state on the way to which `Keeps` holds. -/
theorem everyCommandAnswersAndKeepsTheQueue : Obligations.EveryCommandAnswersAndKeepsTheQueue := by
  intro c s
  obtain ⟨t, ht, hkeeps⟩ := exec_keeps c s
  exact ⟨t, ht, hkeeps.queue, hkeeps.clusters, hkeeps.regions, hkeeps.board⟩

/-! ## The battery log (R413) -/

/-- An entry of the battery log: SECONDS, FRACTION, ON_CELL, CODE and DETAIL. -/
def logBits (s : State) (code detail : Nat) : BitVec 128 :=
  BitVec.ofNat 128 (rtcSeconds s + rtcFraction s * 2 ^ 32 + (if onCell s then 2 ^ 47 else 0)
    + code % 256 * 2 ^ 48 + detail % 2 ^ 64 * 2 ^ 64)

theorem logEntry_log (s : State) (code detail : Nat) : (logEntry s code detail).sec.log
    = (s.sec.log ++ [logBits s code detail]).drop (s.sec.log.length + 1 - 512) := by
  simp only [logEntry, List.length_append, List.length_singleton, logBits]

theorem rtcFraction_lt (s : State) : rtcFraction s < 2 ^ 15 := by
  unfold rtcFraction
  omega

/-- The fields of an entry do not overlap, and fill its 128 bits. -/
theorem logBits_toNat (s : State) (code detail : Nat) : (logBits s code detail).toNat =
    rtcSeconds s + rtcFraction s * 2 ^ 32 + (if onCell s then 2 ^ 47 else 0) + code % 256 * 2 ^ 48 + detail % 2 ^ 64 * 2 ^ 64 := by
  have hfrac := rtcFraction_lt s
  have hsec : rtcSeconds s < 2 ^ 32 := Nat.mod_lt _ (by decide)
  rw [logBits, BitVec.toNat_ofNat, Nat.mod_eq_of_lt]
  split <;> omega

theorem logBits_fields (s : State) (code detail : Nat) :
    bitsAt (logBits s code detail).toNat 0 32 = rtcSeconds s
      ∧ bitsAt (logBits s code detail).toNat 48 8 = code % 256
      ∧ bitsAt (logBits s code detail).toNat 64 64 = detail % 2 ^ 64
      ∧ (logBits s code detail).toNat.testBit 47 = onCell s := by
  have hfrac := rtcFraction_lt s
  have hsec : rtcSeconds s < 2 ^ 32 := Nat.mod_lt _ (by decide)
  simp only [bitsAt, logBits_toNat, Nat.shiftRight_eq_div_pow, Nat.testBit_eq_decide_div_mod_eq]
  cases onCell s
  · simp only [Bool.false_eq_true, if_false, decide_eq_false_iff_not]
    omega
  · simp only [if_true, decide_eq_true_eq]
    omega

/-- Settles O7: every command keeps the log as `Keeps` says, and an entry joins the log behind the others. -/
theorem noCommandClearsTheBatteryLog : Obligations.NoCommandClearsTheBatteryLog := by
  refine ⟨fun c s t ht hroom => ?kept, fun s code detail => ?entry⟩
  case kept =>
    obtain ⟨u, hu, hkeeps⟩ := exec_keeps c s
    obtain rfl : u = t := Host.Outcome.next.inj (hu.symm.trans ht)
    exact ⟨hkeeps.count, hkeeps.room hroom⟩
  case entry =>
    refine ⟨logBits s code detail, fun hlt => ?_, fun hfull => ?_, logBits_fields s code detail⟩
    · rw [logEntry_log, Nat.sub_eq_zero_of_le hlt, List.drop_zero]
    · rw [logEntry_log, hfull, Nat.add_sub_cancel_left, List.drop_one, List.tail_append_of_ne_nil]
      exact List.ne_nil_of_length_pos (by omega)

/-! ## The state after reset (R148, R463) -/

/-- Right after reset a register stores its Reset column. -/
theorem regRaw_reset (r : Reg) : regRaw State.reset r = r.resetVal := BitVec.zero_xor

theorem reg_reset (r : Reg) : reg State.reset r = r.resetVal := by
  rw [reg, regRaw_reset, ite_self]

/-- Settles O3: nothing is listed after reset, so every register reads its Reset column and every byte 0. -/
theorem resetHoldsTheResetColumns : Obligations.ResetHoldsTheResetColumns := by
  refine ⟨fun r => ⟨regRaw_reset r, reg_reset r⟩, fun _ => ⟨rfl, rfl⟩, rfl, rfl, ?_, ?_⟩
  · rw [secState, rf, reg_reset]
    decide
  · rw [isUp, reg_reset]
    decide

/-! ## Descriptors (R298, R299) -/

/-- A field above the one that is written is not changed. -/
theorem bitsAt_putBits_high {lo len lo' : Nat} (h : lo + len ≤ lo') (n v len' : Nat) :
    bitsAt (putBits n lo len v) lo' len' = bitsAt n lo' len' := by
  have hlow : n % 2 ^ lo + v % 2 ^ len * 2 ^ lo < 2 ^ (lo + len) := by
    have hn : n % 2 ^ lo < 2 ^ lo := Nat.mod_lt _ (by positivity)
    have hv : v % 2 ^ len + 1 ≤ 2 ^ len := Nat.mod_lt _ (by positivity)
    calc n % 2 ^ lo + v % 2 ^ len * 2 ^ lo < (v % 2 ^ len + 1) * 2 ^ lo := by rw [add_mul]; omega
      _ ≤ 2 ^ len * 2 ^ lo := Nat.mul_le_mul_right _ hv
      _ = 2 ^ (lo + len) := by rw [← pow_add, Nat.add_comm]
  obtain ⟨k, rfl⟩ := Nat.exists_eq_add_of_le h
  have hput : putBits n lo len v >>> (lo + len) = n >>> (lo + len) := by
    rw [putBits, Nat.shiftRight_eq_div_pow, Nat.add_mul_div_right _ _ (by positivity), Nat.div_eq_of_lt hlow, Nat.zero_add]
  rw [bitsAt, bitsAt, Nat.shiftRight_add, hput, ← Nat.shiftRight_add]

theorem fld_setFld_high {lo len lo' len' : Nat} (h : lo + len ≤ lo') (h64 : lo' + len' ≤ 64) (w : Word) (v : Nat) :
    fld (setFld w lo len v) lo' len' = fld w lo' len' := by
  rw [fld, setFld, BitVec.toNat_ofNat, bitsAt_mod_two_pow h64, bitsAt_putBits_high h, fld]

/-- A bit is a field of one. -/
theorem bitOf_eq_fld (w : Word) (i : Nat) : bitOf w i = decide (fld w i 1 = 1) := by
  rw [bitOf, fld, bitsAt, Nat.testBit_eq_decide_div_mod_eq, Nat.shiftRight_eq_div_pow, pow_one]

section WithOp
variable (d : Desc) (op : RingOp)

/-- Setting the operation sets CLASS of word 0 and an OP field of word 2. -/
theorem withOp_w0 : (d.withOp op).w0 = setFld d.w0 0 4 op.code.1 := by
  unfold Desc.withOp
  split <;> rfl

theorem withOp_otherWords : (d.withOp op).w1 = d.w1 ∧ (d.withOp op).w3 = d.w3 ∧ (d.withOp op).w4 = d.w4
    ∧ (d.withOp op).w5 = d.w5 ∧ (d.withOp op).w6 = d.w6 ∧ (d.withOp op).w7 = d.w7 := by
  unfold Desc.withOp
  split <;> exact ⟨rfl, rfl, rfl, rfl, rfl, rfl⟩

theorem cls_withOp : (d.withOp op).cls = op.code.1 := by
  have hfits : op.code.1 < 2 ^ 4 := by cases op <;> decide
  rw [Desc.cls, withOp_w0, fld_setFld_same (by decide), Nat.mod_eq_of_lt hfits]

/-- The bits of a class's OP field in word 2; none for a class without one. -/
def opWidth : Nat → Nat
  | 0 | 3 | 4 | 7 | 10 => 4
  | 2 => 8
  | 9 => 2
  | _ => 0

theorem opCode_eq_fld : d.opCode = fld d.w2 0 (opWidth d.cls) := by
  unfold Desc.opCode
  generalize d.cls = k
  match k with
  | 0 | 2 | 3 | 4 | 7 | 9 | 10 => rfl
  | 1 | 5 | 6 | 8 | _ + 11 => exact (Nat.mod_one _).symm

theorem fld_withOp_w2 : fld (d.withOp op).w2 0 (opWidth op.code.1) = op.code.2 % 2 ^ opWidth op.code.1 := by
  unfold Desc.withOp
  generalize op.code.1 = k
  match k with
  | 0 | 2 | 3 | 4 | 7 | 9 | 10 => exact fld_setFld_same (by decide) _ _
  | 1 | 5 | 6 | 8 | _ + 11 => exact (Nat.mod_one _).trans (Nat.mod_one _).symm

theorem opCode_withOp : (d.withOp op).opCode = op.code.2 := by
  have hfits : op.code.2 < 2 ^ opWidth op.code.1 := by cases op <;> decide
  rw [opCode_eq_fld, cls_withOp, fld_withOp_w2, Nat.mod_eq_of_lt hfits]

/-- The fields of word 0 above CLASS stay. -/
theorem fld_withOp_w0 {lo len : Nat} (h : 4 ≤ lo) (h64 : lo + len ≤ 64) : fld (d.withOp op).w0 lo len = fld d.w0 lo len := by
  rw [withOp_w0, fld_setFld_high h h64]

end WithOp

theorem opOfCode_code {op : RingOp} (h : op ≠ .distillGrad) : opOfCode op.code.1 op.code.2 = some op := by
  cases op <;> first | rfl | exact absurd rfl h

/-- Settles O11: setting the operation sets the two fields that spell it, and the decoder inverts `RingOp.code`. -/
theorem descriptorsSpellTheirCommands : Obligations.DescriptorsSpellTheirCommands := by
  refine ⟨fun d op hop => ?_, fun d op hd => code_of_ofDesc hd⟩
  obtain ⟨h1, h3, h4, h5, h6, h7⟩ := withOp_otherWords d op
  refine ⟨?_, h1, h3, h4, h5, h6, h7, fld_withOp_w0 d op (by decide) (by decide), fld_withOp_w0 d op (by decide) (by decide), ?_,
    fld_withOp_w0 d op (by decide) (by decide)⟩
  · rw [RingOp.ofDesc, cls_withOp, opCode_withOp, opOfCode_code hop]
  · rw [Desc.irq, Desc.irq, bitOf_eq_fld, bitOf_eq_fld, fld_withOp_w0 d op (by decide) (by decide)]

end Sys2Proof.Proofs
end

section
namespace Sys2Proof.Proofs
open Sys2Proof.Machine Sys2Proof.Laws

/-! ## Rows of registers with one index (R463) -/

/-- Registers of one name that stand at regular offsets. -/
structure RegRow where
  base : Nat
  stride : Nat
  count : Nat
  reg : Nat → Reg

/-- The register of the row at an offset. -/
def RegRow.at (q : RegRow) (off : Nat) : Option Reg := (strideIdx q.base q.stride q.count off).map q.reg

/-- No register of one row stands where one of the other does: the rows lie apart, or are interleaved in one stride. -/
def RegRow.apart (p q : RegRow) : Bool :=
  decide (0 < p.stride) && decide (0 < q.stride)
    && (decide (p.base + (p.count - 1) * p.stride < q.base) || decide (q.base + (q.count - 1) * q.stride < p.base)
      || (p.stride == q.stride && p.base % p.stride != q.base % p.stride))

theorem strideIdx_eq_some {base stride count i : Nat} (hs : 0 < stride) (hi : i < count) :
    strideIdx base stride count (base + i * stride) = some i := by
  rw [strideIdx, Nat.add_sub_cancel_left, Nat.mul_div_cancel _ hs, if_pos ⟨Nat.le_add_right _ _, Nat.mul_mod_left _ _, hi⟩]

theorem eq_of_strideIdx_eq_some {base stride count off i : Nat} (h : strideIdx base stride count off = some i) :
    i < count ∧ off = base + i * stride := by
  unfold strideIdx at h
  split at h
  next hcond =>
    obtain ⟨hle, hmod, hlt⟩ := hcond
    obtain rfl := Option.some.inj h
    refine ⟨hlt, ?_⟩
    rw [Nat.div_mul_cancel (Nat.dvd_of_mod_eq_zero hmod)]
    omega
  next => cases h

theorem RegRow.at_eq_none_of_apart {p q : RegRow} (h : p.apart q = true) {i : Nat} (hi : i < q.count) :
    p.at (q.base + i * q.stride) = none := by
  simp only [RegRow.apart, Bool.and_eq_true, Bool.or_eq_true, decide_eq_true_eq, beq_iff_eq, bne_iff_ne] at h
  obtain ⟨⟨hp, hq⟩, hapart⟩ := h
  rw [RegRow.at, Option.map_eq_none_iff, Option.eq_none_iff_forall_ne_some]
  intro j hj
  obtain ⟨hjlt, heq⟩ := eq_of_strideIdx_eq_some hj
  have hqi : i * q.stride ≤ (q.count - 1) * q.stride := Nat.mul_le_mul_right _ (by omega)
  have hpj : j * p.stride ≤ (p.count - 1) * p.stride := Nat.mul_le_mul_right _ (by omega)
  rcases hapart with (hbelow | habove) | ⟨hstride, hmod⟩
  · omega
  · omega
  · refine hmod ?_
    have hm := congrArg (· % p.stride) heq
    simp only [← hstride, Nat.add_mul_mod_self_right] at hm
    exact hm.symm

/-- Of rows that lie apart, the one that holds an offset answers it. -/
theorem findSome?_of_apart {rows : List RegRow} (hrows : rows.Pairwise fun p q => p.apart q && q.apart p) {q : RegRow}
    (hq : q ∈ rows) {i : Nat} (hi : i < q.count) (hs : 0 < q.stride) :
    (rows.findSome? fun p => p.at (q.base + i * q.stride)) = some (q.reg i) := by
  induction rows with
  | nil => cases hq
  | cons p rows ih =>
    obtain ⟨hp, hrest⟩ := List.pairwise_cons.mp hrows
    rw [List.findSome?_cons]
    rcases List.mem_cons.mp hq with rfl | hmem
    · rw [RegRow.at, strideIdx_eq_some hs hi]
      rfl
    · rw [RegRow.at_eq_none_of_apart (Bool.and_eq_true_iff.mp (hp q hmem)).1 hi]
      exact ih hrest hmem

/-- The registers with one index. -/
def indexedRows : List RegRow :=
  [⟨0x0301000, 0x80, 64, .tierCxHmask⟩, ⟨0x0301008, 0x80, 64, .tierCxDmask⟩, ⟨0x0301010, 0x80, 64, .tierCxWmask⟩,
   ⟨0x0301018, 0x80, 64, .tierCxQuota⟩, ⟨0x0301020, 0x80, 64, .tierCxScript⟩, ⟨0x0301028, 0x80, 64, .tierCxEmber⟩,
   ⟨0x0301030, 0x80, 64, .tierCxHeld⟩, ⟨0x0301038, 0x80, 64, .tierCxPfLate⟩, ⟨0x0301040, 0x80, 64, .tierCxEmbCnt⟩,
   ⟨0x0301048, 0x80, 64, .tierCxExch⟩, ⟨0x0301050, 0x80, 64, .tierCxFail⟩, ⟨0x0400100, 0x8, 12, .strmSplit⟩,
   ⟨0x0700100, 0x10, 64, .peerGrpMem⟩, ⟨0x0700108, 0x10, 64, .peerGrpCfg⟩, ⟨0x0700500, 0x8, 64, .peerCxAllow⟩,
   ⟨0x0700800, 0x8, 64, .peerRoute⟩, ⟨0x0201000, 0x20, 64, .schCxShift⟩, ⟨0x0201008, 0x20, 64, .schCxForce⟩,
   ⟨0x0201010, 0x20, 64, .schCxStat⟩, ⟨0x0A00100, 0x8, 6, .fltFailClu⟩, ⟨0x0A01000, 0x40, 64, .fltCxSnapCfg⟩,
   ⟨0x0A01008, 0x40, 64, .fltCxSnapList⟩, ⟨0x0A01010, 0x40, 64, .fltCxSnapArea⟩, ⟨0x0A01018, 0x40, 64, .fltCxSnapSize⟩,
   ⟨0x0A01020, 0x40, 64, .fltCxSnapNewest⟩, ⟨0x0A01028, 0x40, 64, .fltCxSnapPrev⟩, ⟨0x0A01030, 0x40, 64, .fltCxSnapStat⟩,
   ⟨0x0A01038, 0x40, 64, .fltCxFaults⟩, ⟨0x0801000, 0x10, 64, .secCxPkg⟩, ⟨0x0801008, 0x10, 64, .secCxPkgStat⟩,
   ⟨0x0500100, 0x8, 324, .arrCluStat⟩, ⟨0x0B01000, 0x40, 64, .telCxVoids⟩, ⟨0x0B01008, 0x40, 64, .telCxReroutes⟩,
   ⟨0x0B01010, 0x40, 64, .telCxMisses⟩, ⟨0x0D00030, 0x8, 6, .idRomDigest⟩, ⟨0x0D00100, 0x8, 12, .idDdr⟩,
   ⟨0x0D00200, 0x8, 36, .idRgn⟩]

/-- The registers of a context page with one more index. -/
def pageRows (x : Nat) : List RegRow :=
  [⟨0x200, 0x20, 16, .ctxCxSq x⟩, ⟨0x208, 0x20, 16, .ctxCxCq x⟩, ⟨0x210, 0x20, 16, .ctxCxRing x⟩,
   ⟨0x218, 0x20, 16, .ctxCxRstat x⟩, ⟨0x100, 0x10, 16, .ctxCxWinBase x⟩, ⟨0x108, 0x10, 16, .ctxCxWinSize x⟩]

theorem indexedRows_apart : indexedRows.Pairwise fun p q => p.apart q && q.apart p := of_decide_eq_true rfl

theorem pageRows_apart (x : Nat) : (pageRows x).Pairwise fun p q => p.apart q && q.apart p := by
  simp [pageRows, RegRow.apart]

theorem findSome?_cons_orElse {α β : Type} (f : α → Option β) (a : α) (l : List α) :
    (a :: l).findSome? f = (f a <|> l.findSome? f) := by
  rw [List.findSome?_cons]
  cases f a <;> rfl

/-- The decoder of the registers with one index goes through their rows. -/
theorem regAtIndexed_eq (off : Nat) : regAtIndexed off = indexedRows.findSome? (RegRow.at · off) := by
  simp only [regAtIndexed, indexedRows, findSome?_cons_orElse, List.findSome?_nil, Option.orElse_eq_orElse, Option.orElse_eq_or, Option.or_none, RegRow.at]

/-- The offsets of the registers that carry no index: low in their block, but for two of FLT, and not among the ROM digest's. -/
def plainOffset (off : Nat) : Prop :=
  (off % 0x100000 < 0x78 ∧ (off < 0x0D00030 ∨ 0x0D00060 ≤ off)) ∨ off = 0x0A00130 ∨ off = 0x0A00138

theorem plainOffset_of_regAtPlain {off : Nat} {r : Reg} (h : regAtPlain off = some r) : plainOffset off := by
  unfold regAtPlain at h
  unfold plainOffset
  split at h
  all_goals first | omega | cases h

/-- Registers with one index are decoded by their row. -/
theorem regAt_indexedRows : ∀ q ∈ indexedRows, ∀ i < q.count, regAt (q.base + i * q.stride) = some (q.reg i) := by
  intro q hq i hi
  have hplace : 0 < q.stride ∧ ¬ plainOffset (q.base + i * q.stride)
      ∧ ¬ (0x0110000 ≤ q.base + i * q.stride ∧ q.base + i * q.stride < 0x0150000) := by
    revert hi
    revert q
    simp only [indexedRows, List.forall_mem_cons, List.not_mem_nil, false_imp_iff, implies_true, and_true, plainOffset]
    and_intros <;> omega
  obtain ⟨hs, hplain, hpage⟩ := hplace
  have hnone : regAtPlain (q.base + i * q.stride) = none :=
    Option.eq_none_iff_forall_ne_some.mpr fun _ hr => hplain (plainOffset_of_regAtPlain hr)
  rw [regAt, hnone]
  exact (if_neg hpage).trans ((regAtIndexed_eq _).trans (findSome?_of_apart indexedRows_apart hq hi hs))

/-- Registers of a context page are decoded by the context and the offset in the page. -/
theorem regAt_of_page {x o : Nat} (hx : x < 64) (ho : o < 0x1000) : regAt (0x0110000 + x * 0x1000 + o) = ctxPageReg x o := by
  have hnone : regAtPlain (0x0110000 + x * 0x1000 + o) = none :=
    Option.eq_none_iff_forall_ne_some.mpr fun _ hr => by
      have hplain := plainOffset_of_regAtPlain hr
      unfold plainOffset at hplain
      omega
  have hctx : (0x0110000 + x * 0x1000 + o - 0x0110000) / 0x1000 = x := by omega
  have hoff : (0x0110000 + x * 0x1000 + o) % 0x1000 = o := by omega
  rw [regAt, hnone]
  exact (if_pos ⟨by omega, by omega⟩).trans (by rw [hctx, hoff])

/-- The decoder of a page goes through its rows between its own registers. -/
theorem ctxPageReg_eq {x o : Nat} (h : 0x100 ≤ o ∧ o < 0x400) : ctxPageReg x o = (pageRows x).findSome? (RegRow.at · o) := by
  unfold ctxPageReg
  split
  case h_15 =>
    simp only [pageRows, findSome?_cons_orElse, List.findSome?_nil, Option.orElse_eq_orElse, Option.orElse_eq_or, Option.or_none,
      RegRow.at]
  all_goals omega

/-- Registers of a context page with one more index are decoded by their row. -/
theorem regAt_pageRows {x : Nat} (hx : x < 64) : ∀ q ∈ pageRows x, ∀ i < q.count,
    regAt (0x0110000 + q.base + x * 0x1000 + i * q.stride) = some (q.reg i) := by
  intro q hq i hi
  have hplace : 0 < q.stride ∧ 0x100 ≤ q.base + i * q.stride ∧ q.base + i * q.stride < 0x400 := by
    revert hi
    revert q
    simp only [pageRows, List.forall_mem_cons, List.not_mem_nil, false_imp_iff, implies_true, and_true]
    and_intros <;> omega
  obtain ⟨hs, hin⟩ := hplace
  rw [show 0x0110000 + q.base + x * 0x1000 + i * q.stride = 0x0110000 + x * 0x1000 + (q.base + i * q.stride) by omega, regAt_of_page hx (by omega), ctxPageReg_eq hin]
  exact findSome?_of_apart (pageRows_apart x) hq hi hs

/-- The registers of a context page that carry no more index. -/
def pageRegs (x : Nat) : List (Nat × Reg) :=
  [(0x400, .ctxCxEq x), (0x408, .ctxCxEqCfg x), (0x410, .ctxCxEqStat x), (0x000, .ctxCxCtl x), (0x008, .ctxCxSetupStat x),
   (0x010, .ctxCxStep x), (0x018, .ctxCxSteprec x), (0x020, .ctxCxSeed x), (0x028, .ctxCxScale x), (0x030, .ctxCxJournal x),
   (0x038, .ctxCxJrnlStat x), (0x040, .ctxCxPmap x), (0x048, .ctxCxAdp x), (0x050, .ctxCxSemTmo x)]

theorem regAt_pageRegs {x : Nat} (hx : x < 64) : ∀ p ∈ pageRegs x, regAt (0x0110000 + p.1 + x * 0x1000) = some p.2 := by
  intro p hp
  have hplace : p.1 < 0x1000 ∧ ctxPageReg x p.1 = some p.2 := by
    revert p
    simp only [pageRegs, List.forall_mem_cons, List.not_mem_nil, false_imp_iff, implies_true, and_true]
    simp [ctxPageReg]
  obtain ⟨ho, hreg⟩ := hplace
  rw [Nat.add_right_comm, regAt_of_page hx ho, hreg]

/-- The decoder of offsets answers a register at its own offset. -/
theorem regAt_offset {r : Reg} (h : r.inTable = true) : regAt r.offset = some r := by
  have hrow := regAt_indexedRows
  have hpage := @regAt_pageRows
  have hregs := @regAt_pageRegs
  simp only [indexedRows, pageRows, pageRegs, List.forall_mem_cons, List.not_mem_nil, false_imp_iff, implies_true, and_true] at hrow hpage hregs
  cases r
  all_goals try rfl
  all_goals
    simp only [Reg.inTable, decide_eq_true_eq, Bool.and_eq_true] at h
    simp only [Reg.offset, hrow, hpage, hregs, h]

/-- Registers of the tables stand at offsets of their own. -/
theorem eq_of_offset_eq {r q : Reg} (hr : r.inTable = true) (hq : q.inTable = true) (h : q.offset = r.offset) : q = r := by
  have hreg := regAt_offset hq
  rw [h, regAt_offset hr] at hreg
  exact (Option.some.inj hreg).symm

theorem offset_aligned {r : Reg} (h : r.inTable = true) : r.offset % 8 = 0 ∧ r.offset < 2 ^ 26 := by
  cases r
  all_goals
    simp only [Reg.inTable, decide_eq_true_eq, Bool.and_eq_true] at h
    simp only [Reg.offset, true_and]
    omega

/-- Settles O8: the decoder answers every register at its offset, so no two share one. -/
theorem registersStandAtTheirOffsets : Obligations.RegistersStandAtTheirOffsets := by
  refine ⟨fun r hr => ⟨regAt_offset hr, offset_aligned hr⟩, fun s r q v hr hq => ?_⟩
  split
  next heq => rw [heq, regRaw_setReg_same]
  next hne => exact regRaw_setReg_other s r q v (mt (eq_of_offset_eq hr hq) hne)

end Sys2Proof.Proofs
end

section
namespace Sys2Proof.Proofs
open Sys2Proof.Machine Sys2Proof.Laws

/-! ## What registers and signals leave alone -/

/-- Storing a register leaves what a basic register at another offset reads. -/
theorem reg_setReg_other {q r : Reg} (hq : q.expert = false) (h : q.offset ≠ r.offset) (s : State) (v : Word) :
    reg (setReg s r v) q = reg s q := by
  simp only [reg, hq, Bool.false_and, Bool.false_eq_true, if_false, regRaw_setReg_other s r q v h]

/-- A basic register reads as it is stored. -/
theorem reg_of_basic {r : Reg} (hr : r.expert = false) (s : State) : reg s r = regRaw s r := by
  simp only [reg, hr, Bool.false_and, Bool.false_eq_true, if_false]

/-- Bytes, marks and pages are as they were where the package keeps its id. -/
theorem sameStore_of_ownPkg {s t : State} (hpkg : ownPkg t = ownPkg s) (hmem : t.mem = s.mem) (hpoison : t.poison = s.poison)
    (htier : t.tier = s.tier) : sameStore s t := by
  simp only [sameStore, readByte, poisoned, resolve_of_ownPkg hpkg, hmem, hpoison, htier, implies_true, and_self]

theorem sameStore_setReg {s : State} {r : Reg} (h : Reg.peerId.offset ≠ r.offset) (v : Word) : sameStore s (setReg s r v) :=
  sameStore_of_ownPkg (rf_setReg_other rfl h s v 0 6) rfl rfl rfl

theorem sameWork_trans {s t u : State} (hst : sameWork s t) (htu : sameWork t u) : sameWork s u := by
  obtain ⟨hctxs, houts, hadapters, hpackages⟩ := hst
  obtain ⟨hctxs', houts', hadapters', hpackages'⟩ := htu
  exact ⟨hctxs'.trans hctxs, houts'.trans houts, hadapters'.trans hadapters, hpackages'.trans hpackages⟩

/-- A signal changes the pending vectors, or what the block has said. -/
theorem signal_eq (s : State) (v : Nat) : ∃ pend out, signal s v = { s with msixPend := pend, out := out } := by
  unfold signal
  split
  · exact ⟨_, _, rfl⟩
  · split
    · exact ⟨_, _, rfl⟩
    · exact ⟨_, _, rfl⟩

/-! ## The timebase (R321) -/

/-- PTM_LOCK is bit 9 of HIF_STAT. -/
theorem setLock_eq (s : State) (left : Int) : setLock s left = setRf s .hifStat 9 1 (if left.natAbs < 1000 then 1 else 0) := rfl

theorem hifStat_setLock (s : State) (left : Int) : rf (setLock s left) .hifStat 9 1 = if left.natAbs < 1000 then 1 else 0 := by
  rw [setLock_eq, rf_setRf_same rfl (by decide)]
  split <;> rfl

theorem sameStore_setLock (s : State) (left : Int) : sameStore s (setLock s left) := sameStore_setReg (by decide) _

theorem regRaw_setLock {q : Reg} (s : State) (left : Int) (h : q.offset ≠ Reg.hifStat.offset) : regRaw (setLock s left) q = regRaw s q :=
  regRaw_setReg_other _ _ _ _ h

theorem anyEnabled_setReg {r : Reg} (h : Reg.ctxEnabled.offset ≠ r.offset) (s : State) (v : Word) :
    anyEnabled (setReg s r v) = anyEnabled s := by
  rw [anyEnabled, anyEnabled, reg_setReg_other rfl h]

section Tick
variable {s : State}

theorem runTimebase_of_settled (h : s.ptm.left = 0) : runTimebase s = setReg s .hifTb (reg s .hifTb + 1) := if_pos h

theorem runTimebase_of_gathering (h : s.ptm.left ≠ 0) (hsum : s.ptm.frac + rf s .hifPtmCtl 16 16 < 1000000) :
    runTimebase s = setReg { s with ptm := { s.ptm with frac := s.ptm.frac + rf s .hifPtmCtl 16 16 } } .hifTb (reg s .hifTb + 1) :=
  (if_neg h).trans (if_pos hsum)

/-- The offset once one more ns of it has been worked off. -/
def slewedLeft (left : Int) : Int := if 0 < left then left - 1 else left + 1

theorem runTimebase_of_slewing (h : s.ptm.left ≠ 0) (hsum : ¬ s.ptm.frac + rf s .hifPtmCtl 16 16 < 1000000) :
    runTimebase s = setLock (setReg { s with ptm := ⟨slewedLeft s.ptm.left, s.ptm.frac + rf s .hifPtmCtl 16 16 - 1000000⟩ } .hifTb
      (reg s .hifTb + if 0 < s.ptm.left then 2 else 0)) (slewedLeft s.ptm.left) :=
  (if_neg h).trans (if_neg hsum)

end Tick

/-- Settles O2: with the domains running a tick settles the state and then runs the timebase, in its three cases. -/
theorem emptyQueueStepTicks : Obligations.EmptyQueueStepTicks := by
  intro s hs u t
  have hstep : step s = .next (if clocksRun u then runTimebase t else u) := by
    rw [step, hs]
    rfl
  have hruns (hclocks : clocksRun u = true) : step s = .next (runTimebase t) := by rw [hstep, if_pos hclocks]
  refine ⟨fun hstopped => ?stopped, fun hclocks hleft => ?settled, fun hclocks hleft => ?slewing⟩
  case stopped => rw [hstep, hstopped, if_neg Bool.false_ne_true]
  case settled => rw [hruns hclocks, runTimebase_of_settled hleft]
  case slewing =>
    refine ⟨_, hruns hclocks, ?_⟩
    by_cases hsum : t.ptm.frac + rf t .hifPtmCtl 16 16 < 1000000
    · rw [runTimebase_of_gathering hleft hsum, regRaw_setReg_same, if_pos hsum]
      exact ⟨sameStore_of_ownPkg (rf_setReg_other rfl (by decide) _ _ 0 6) rfl rfl rfl, ⟨rfl, rfl, rfl, rfl⟩, rfl⟩
    · rw [runTimebase_of_slewing hleft hsum, if_neg hsum]
      refine ⟨sameStore_trans ?store (sameStore_setLock _ _), ⟨rfl, rfl, rfl, rfl⟩, ?tb⟩
      case store => exact sameStore_of_ownPkg (rf_setReg_other rfl (by decide) _ _ 0 6) rfl rfl rfl
      case tb => exact (regRaw_setLock _ _ (by decide)).trans (regRaw_setReg_same _ _ _)

end Sys2Proof.Proofs
end

section
namespace Sys2Proof.Proofs
open Sys2Proof.Machine Sys2Proof.Laws

/-! ## Accesses of registers (R463 to R465) -/

/-- The source that a write counts as: writes from outside the host's TEE are the host's (R465). -/
def senderOf (src : Source) : Source := if src = .outside then .host else src

/-- The gate of a source serves its write at an offset. -/
def mayWrite (s : State) (src : Source) (off : Nat) : Bool :=
  match src with
  | .host => hostGate s true == .serve
  | .outside => hostGate s false == .serve
  | _ => sourceMay s src off

theorem barWrite_of_mayWrite {s : State} {src : Source} {off : Nat} (h : mayWrite s src off = true) (size : Nat) (v : Word) :
    barWrite s src off size v = writeAt s (senderOf src) off size v := by
  cases src with
  | host => exact gated_of_serve (eq_of_beq h) (writeAt · .host off size v)
  | outside => exact gated_of_serve (eq_of_beq h) (writeAt · .host off size v)
  | monitor | smbus | preset => exact if_pos h

theorem inMsix_iff (off : Nat) : inMsix off = true ↔ (0x80000 ≤ off ∧ off < 0x88000) ∨ (0x90000 ≤ off ∧ off < 0x90100) := by
  simp only [inMsix, Bool.or_eq_true, Bool.and_eq_true, decide_eq_true_eq]

/-- No register of the tables stands among the MSI-X structures. -/
theorem inMsix_offset {r : Reg} (h : r.inTable = true) : inMsix r.offset = false := by
  rw [Bool.eq_false_iff, Ne, inMsix_iff]
  cases r
  all_goals
    simp only [Reg.inTable, decide_eq_true_eq, Bool.and_eq_true] at h
    simp only [Reg.offset]
    omega

theorem word_of_offset {r : Reg} (h : r.inTable = true) : r.offset / 8 * 8 = r.offset :=
  Nat.div_mul_cancel (Nat.dvd_of_mod_eq_zero (offset_aligned h).1)

theorem toNat_offset {r : Reg} (h : r.inTable = true) : (BitVec.ofNat 26 r.offset).toNat = r.offset := by
  rw [BitVec.toNat_ofNat, Nat.mod_eq_of_lt (offset_aligned h).2]

theorem writeAt_of_misaligned {size off : Nat} (h : (size ≠ 4 ∧ size ≠ 8) ∨ off % size ≠ 0) (s : State) (src : Source) (v : Word) :
    writeAt s src off size v = logAccess (dropLatch s src) src off 4 := if_pos h

section TableRegister
variable {r : Reg} (hr : r.inTable = true)
include hr

/-- A write of 8 bytes at a register's offset writes it; one of 4 bytes is logged. -/
theorem writeAt_offset (s : State) (src : Source) (v : Word) :
    writeAt s src r.offset 8 v = writeReg (dropLatch s src) src r v
      ∧ writeAt s src r.offset 4 v = logAccess (dropLatch s src) src r.offset 1 := by
  have halign := (offset_aligned hr).1
  have h8 : ¬ (((8 : Nat) ≠ 4 ∧ (8 : Nat) ≠ 8) ∨ r.offset % 8 ≠ 0) := by omega
  have h4 : ¬ (((4 : Nat) ≠ 4 ∧ (4 : Nat) ≠ 8) ∨ r.offset % 4 ≠ 0) := by omega
  constructor
  · simp only [writeAt, if_neg h8, inMsix_offset hr, word_of_offset hr, regAt_offset hr]
    rfl
  · simp only [writeAt, if_neg h4, inMsix_offset hr, word_of_offset hr, regAt_offset hr]
    rfl

theorem barReg_of_mayWrite {s : State} {src : Source} (h : mayWrite s src r.offset = true) (v : Word) :
    barReg s src r v = writeReg (dropLatch s (senderOf src)) (senderOf src) r v :=
  (barWrite_of_mayWrite h 8 v).trans (writeAt_offset hr _ _ v).1

/-- The low half of a register, which is read as it stands, with the high half held for the source. -/
theorem readHalf_offset (s : State) (src : Source) :
    readHalf s src r.offset = ((readReg s r).setWidth 32,
      { dropLatch s src with
        latches := (dropLatch s src).latches ++ [(latchOwner src, r.offset, (readReg s r >>> 32).setWidth 32)] }) := by
  rw [readHalf, inMsix_offset hr, if_neg Bool.false_ne_true, if_pos (offset_aligned hr).1, readLow, readAt, regAt_offset hr]

end TableRegister

/-- The gate of a source serves its read at an offset (R400, R457, R460). -/
def mayRead (s : State) (src : Source) (off : Nat) : Bool :=
  match src with
  | .host | .outside => barOpen s && readServed s (src == .host) off
  | .monitor => monitorRuns s && secState s == 0
  | .smbus => clocksRun s
  | .preset => false

theorem execFourByteRead_of_mayRead {s : State} {src : Source} {off : BitVec 26} (hmay : mayRead s src off.toNat = true)
    (hword : off.toNat % 4 = 0) :
    execFourByteRead src off s = .next (answerHalf (readHalf s src off.toNat).2 src (readHalf s src off.toNat).1) := by
  have haligned : ¬ off.toNat % 4 ≠ 0 := not_not_intro hword
  cases src with
  | host | outside =>
    obtain ⟨hopen, hserved⟩ := Bool.and_eq_true_iff.mp hmay
    simp only [execFourByteRead, hopen, hserved, if_neg haligned, Bool.not_true, Bool.false_eq_true, if_false, if_true]
  | monitor | smbus =>
    simp only [mayRead] at hmay
    simp only [execFourByteRead, hmay, if_neg haligned, if_true]
  | preset => exact absurd hmay Bool.false_ne_true

theorem dropLatch_senderOf (s : State) (src : Source) : dropLatch s (senderOf src) = dropLatch s src := by cases src <;> rfl

/-- Settles O41: a register's offset is aligned, decodes to it and lies outside the MSI-X structures. -/
theorem registerAccessesReachTheirRegister : Obligations.RegisterAccessesReachTheirRegister := by
  intro s r v src hr from' may u held low
  have hoff := toNat_offset hr
  have hwritten (size : Nat) (hmay : mayWrite s src r.offset = true) :
      exec (.registerWrite src (BitVec.ofNat 26 r.offset) size v) s = .next (writeAt s from' r.offset size v) :=
    congrArg Host.Outcome.next ((congrArg (barWrite s src · size v) hoff).trans (barWrite_of_mayWrite hmay size v))
  have hread : readHalf s src (BitVec.ofNat 26 r.offset).toNat = (low, held) := by
    rw [hoff, readHalf_offset hr, ← dropLatch_senderOf]
    rfl
  have hanswered (hmay : mayRead s src r.offset = true) :
      exec (.fourByteRead src (BitVec.ofNat 26 r.offset)) s = .next (answerHalf held src low) := by
    have halign := (offset_aligned hr).1
    have hexec := execFourByteRead_of_mayRead (hoff ▸ hmay) (by omega)
    rwa [hread] at hexec
  refine ⟨fun hmay => ⟨?eight, ?four⟩, fun off size hmay hbad => ?bad, fun hsrc hopen hserved => ?host, fun hruns hsec hsrc => ?monitor,
    fun hruns hsrc => ?smbus⟩
  case eight => rw [hwritten 8 hmay, (writeAt_offset hr s from' v).1]
  case four => rw [hwritten 4 hmay, (writeAt_offset hr s from' v).2]
  case bad => exact congrArg Host.Outcome.next ((barWrite_of_mayWrite hmay size v).trans (writeAt_of_misaligned hbad s from' v))
  case host =>
    have hgate : (barOpen s && readServed s (src == .host) r.offset) = true := by rw [hopen, hserved, Bool.and_self]
    rcases hsrc with rfl | rfl
    · exact hanswered hgate
    · exact hanswered hgate
  case monitor =>
    subst hsrc
    exact hanswered (by rw [mayRead, hruns, hsec]; rfl)
  case smbus =>
    subst hsrc
    exact hanswered hruns

/-! ## Setting the timebase (R321) -/

theorem sameStore_dropLatch (s : State) (src : Source) : sameStore s (dropLatch s src) := sameStore_of_ownPkg rfl rfl rfl rfl

/-- Logging an access changes the two registers of the access log. -/
theorem regRaw_logAccess {q : Reg} (hcnt : q.offset ≠ Reg.idAccLogCnt.offset) (hlast : q.offset ≠ Reg.idAccLogLast.offset) (s : State)
    (src : Source) (off kind : Nat) : regRaw (logAccess s src off kind) q = regRaw s q :=
  (regRaw_setReg_other _ _ _ _ hlast).trans (regRaw_setReg_other _ _ _ _ hcnt)

theorem sameStore_logAccess (s : State) (src : Source) (off kind : Nat) : sameStore s (logAccess s src off kind) :=
  sameStore_trans (sameStore_setReg (by decide) _) (sameStore_setReg (by decide) _)

theorem sameWork_setReg (s : State) (r : Reg) (v : Word) : sameWork s (setReg s r v) := ⟨rfl, rfl, rfl, rfl⟩

theorem sameWork_dropLatch (s : State) (src : Source) : sameWork s (dropLatch s src) := ⟨rfl, rfl, rfl, rfl⟩

theorem sameWork_logAccess (s : State) (src : Source) (off kind : Nat) : sameWork s (logAccess s src off kind) :=
  sameWork_trans (sameWork_setReg _ _ _) (sameWork_setReg _ _ _)

section Dialogue
variable {s : State} (root : Word)

/-- With no context enabled a dialogue sets the timebase to the root's time and locks it. -/
theorem ptmMeasures_of_idle (h : anyEnabled s = false) : ptmMeasures s root =
    setLock { setReg (setReg s .hifPtmOfs (root - reg s .hifTb)) .hifTb root with ptm := ⟨0, 0⟩ } 0 := by
  rw [ptmMeasures, anyEnabled_setReg (by decide), h]
  rfl

/-- The state in which the ticks work the offset off. -/
def slewing (s : State) (ofs : Word) : State := setLock { setReg s .hifPtmOfs ofs with ptm := ⟨ofs.toInt, 0⟩ } ofs.toInt

theorem ptmMeasures_of_enabled (h : anyEnabled s = true) : ∃ pend out,
    ptmMeasures s root = { slewing s (root - reg s .hifTb) with msixPend := pend, out := out } := by
  have hmeasured : ptmMeasures s root = if 1000000 < (root - reg s .hifTb).toInt.natAbs
      then signalDevice (slewing s (root - reg s .hifTb)) else slewing s (root - reg s .hifTb) := by
    rw [ptmMeasures, anyEnabled_setReg (by decide), h]
    rfl
  rw [hmeasured]
  split
  · exact signal_eq _ _
  · exact ⟨_, _, rfl⟩

theorem sameStore_slewing (s : State) (ofs : Word) : sameStore s (slewing s ofs) :=
  sameStore_trans (sameStore_of_ownPkg (rf_setReg_other rfl (by decide) _ _ 0 6) rfl rfl rfl) (sameStore_setLock _ _)

end Dialogue

/-- A write of HIF_TB_SET that its source's gate serves. -/
theorem exec_hifTbSet {s : State} {src : Source} (h : mayWrite s src Reg.hifTbSet.offset = true) (v : Word) :
    exec (.hifTbSet src v) s = .next (tbSetWrite (dropLatch s (senderOf src)) (senderOf src) v) :=
  congrArg Host.Outcome.next (barReg_of_mayWrite (r := .hifTbSet) rfl h v)

/-- Settles O38: both rows look at the enabled contexts first, and with one enabled neither stores HIF_TB. -/
theorem timeIsNotSteppedUnderWork : Obligations.TimeIsNotSteppedUnderWork := by
  intro s root src w may
  have hdialogue (hon : ptmOn s = true) : exec (.ptmDialogue root) s = .next (ptmMeasures s root) := congrArg _ (if_pos hon)
  refine ⟨fun hon hidle => ?stepped, fun hon henabled => ?slewed, fun hmay henabled => ?refused, fun hmay hidle => ?set⟩
  case stepped => rw [hdialogue hon, ptmMeasures_of_idle root hidle]; rfl
  case slewed =>
    obtain ⟨pend, out, ht⟩ := ptmMeasures_of_enabled root henabled
    have htb : regRaw (slewing s (root - reg s .hifTb)) .hifTb = regRaw s .hifTb :=
      (regRaw_setLock _ _ (by decide)).trans (regRaw_setReg_other _ _ _ _ (by decide))
    have hofs : regRaw (slewing s (root - reg s .hifTb)) .hifPtmOfs = root - reg s .hifTb :=
      (regRaw_setLock _ _ (by decide)).trans (regRaw_setReg_same _ _ _)
    have hlock : rf (slewing s (root - reg s .hifTb)) .hifStat 9 1 = if (root - reg s .hifTb).toInt.natAbs < 1000 then 1 else 0 :=
      hifStat_setLock _ _
    have hstore := sameStore_slewing s (root - reg s .hifTb)
    exact ⟨_, (hdialogue hon).trans (congrArg _ ht), htb, hofs, rfl, hlock, sameStore_trans hstore (sameStore_of_ownPkg rfl rfl rfl rfl),
      ⟨rfl, rfl, rfl, rfl⟩⟩
  case refused =>
    have hstore : sameStore s (logAccess (dropLatch s w) w Reg.hifTbSet.offset 3) :=
      sameStore_trans (sameStore_dropLatch s w) (sameStore_logAccess _ _ _ _)
    have hwork : sameWork s (logAccess (dropLatch s w) w Reg.hifTbSet.offset 3) :=
      sameWork_trans (sameWork_dropLatch s w) (sameWork_logAccess _ _ _ _)
    have hran : tbSetWrite (dropLatch s w) w root = logAccess (dropLatch s w) w Reg.hifTbSet.offset 3 := if_pos henabled
    have htb : regRaw (logAccess (dropLatch s w) w Reg.hifTbSet.offset 3) .hifTb = regRaw (dropLatch s w) .hifTb :=
      regRaw_logAccess (by decide) (by decide) _ _ _ _
    exact ⟨_, (exec_hifTbSet hmay root).trans (congrArg _ hran), rfl, htb, hstore, hwork⟩
  case set => exact (exec_hifTbSet hmay root).trans (congrArg _ (if_neg (ne_true_of_eq_false hidle)))

end Sys2Proof.Proofs
end

section
namespace Sys2Proof.Proofs
open Sys2Proof.Machine Sys2Proof.Laws

/-! ## Written resets (R376) -/

/-- A value of FLT_RESET holds its scope and its target. -/
theorem resetWord_fields {scope target : Nat} (hscope : scope < 2 ^ 3) (htarget : target < 2 ^ 11) :
    fld (resetWord scope target) 0 3 = scope ∧ fld (resetWord scope target) 8 11 = target := by
  have hword : (resetWord scope target).toNat = scope + target * 2 ^ 8 := by
    rw [resetWord, BitVec.toNat_ofNat, Nat.mod_eq_of_lt (by omega)]
  simp only [fld, bitsAt, hword, Nat.shiftRight_eq_div_pow]
  omega

/-- A write of FLT_RESET that its source's gate serves. -/
theorem barReg_fltReset {s : State} {src : Source} (h : mayWrite s src Reg.fltReset.offset = true) (v : Word) :
    barReg s src .fltReset v = resetWrite (dropLatch s (senderOf src)) v := barReg_of_mayWrite (r := .fltReset) rfl h v

section Scopes
variable (s : State)

theorem resetWrite_die (d : Fin 4) : resetWrite s (resetWord 3 d.val) = dieWarm s d.val := by
  obtain ⟨hscope, htarget⟩ := resetWord_fields (scope := 3) (target := d.val) (by decide) (by omega)
  rw [resetWrite, hscope, htarget]
  exact if_pos d.isLt

theorem resetWrite_package : resetWrite s (resetWord 4 0) = warmReset s := by
  obtain ⟨hscope, -⟩ := resetWord_fields (scope := 4) (target := 0) (by decide) (by decide)
  rw [resetWrite, hscope]
  rfl

end Scopes

/-! ## What a reset of a die leaves in the merge tables (R376) -/

/-- Nothing can go on by itself, and the merge table of HD0 holds some entries. -/
structure Resting (m : List MergeEntry) (s : State) : Prop where
  idle : Idle s
  hd0 : smGet [] s.merges 40 = m

section Resting
variable {m : List MergeEntry} {s : State}

theorem resting_of_eq (h : Resting m s) {t : State} (houts : t.outs = s.outs) (hsec : t.sec = s.sec) (hctxs : t.ctxs = s.ctxs)
    (hmerges : t.merges = s.merges) : Resting m t where
  idle := idle_of_eq h.idle houts hsec hctxs
  hd0 := by rw [hmerges, h.hd0]

theorem resting_setReg (h : Resting m s) (r : Reg) (v : Word) : Resting m (setReg s r v) := resting_of_eq h rfl rfl rfl rfl

theorem resting_setRf (h : Resting m s) (r : Reg) (lo len v : Nat) : Resting m (setRf s r lo len v) := resting_setReg h r _

theorem resting_addReport (h : Resting m s) {agg : Nat} (hagg : agg ≠ 40) (e : MergeEntry) : Resting m (addReport s agg e) where
  idle := idle_addReport h.idle agg e
  hd0 := by rw [addReport, smGet_smSet, if_neg hagg.symm, h.hd0]

/-- The first report of a region reaches its own aggregator. -/
theorem firstAgg_region {i : Nat} (h : i < 36) (s : State) : firstAgg s (srcOf 1 i) = i := by
  have hkind : srcOf 1 i / 2 ^ 12 = 1 := by unfold srcOf; omega
  have hindex : srcOf 1 i % 2 ^ 12 = i := by unfold srcOf; omega
  rw [firstAgg, hkind, hindex]
  rfl

/-- The first report of a die-to-die link reaches the package's. -/
theorem firstAgg_link (k : Nat) (s : State) : firstAgg s (srcOf 5 k) = 42 := by
  have hkind : srcOf 5 k / 2 ^ 12 = 5 := by unfold srcOf; omega
  rw [firstAgg, hkind]
  rfl

theorem resting_zeroRegion (h : Resting m s) (r : Nat) : Resting m (zeroRegion s r) := by
  have hembers : loseEmbers s r = s := by
    unfold loseEmbers
    refine List.foldlRecOn (motive := fun t => t = s) s.ctxs _ rfl fun t ht p hp => ?_
    rw [h.idle.embers p hp]
    exact ht
  rw [zeroRegion, hembers]
  exact resting_of_eq h rfl rfl rfl rfl

theorem resting_freshArray (h : Resting m s) (c : Nat) : Resting m (freshArray s c) :=
  resting_setReg (s := setArr s c ArrSt.reset) (resting_of_eq h rfl rfl rfl rfl) _ _

theorem resting_trainLink (h : Resting m s) (k : Nat) : Resting m (trainLink s k) := by
  have hlink (t : State) : firstAgg t (srcOf 5 k) ≠ 40 := by rw [firstAgg_link]; decide
  have hset : Resting m (setD2d s k (d2dOf s k)) := resting_of_eq h rfl rfl rfl rfl
  unfold trainLink
  dsimp only
  split
  · exact resting_of_eq (resting_addReport hset (hlink _) _) rfl rfl rfl rfl
  · split
    · exact resting_addReport hset (hlink _) _
    · split
      · exact hset
      · exact h

theorem resting_buildRegion (h : Resting m s) (p : Nat) (number : Option Nat) (spare : Bool) :
    Resting m (buildRegion s p number spare) := by
  refine resting_setReg (List.foldlRecOn (motive := Resting m) _ _ h fun t ht k _ => ?_) _ _
  have hmarked := resting_setRf ht (.arrCluStat (9 * p + k)) 24 1 (if cluRecorded t (9 * p + k) then 1 else 0)
  dsimp only
  split
  · split
    · exact resting_setRf hmarked _ _ _ _
    · exact resting_setRf hmarked _ _ _ _
  · exact resting_setRf hmarked _ _ _ _
  · exact resting_setRf hmarked _ _ _ _

theorem resting_buildDie (h : Resting m s) {d : Nat} (hd : d < 4) : Resting m (buildDie s d) := by
  refine resting_setRf (List.foldlRecOn (motive := Resting m) _ _ (List.foldlRecOn (motive := Resting m) _ _ h ?region) ?number) _ _ _ _
  case region =>
    intro t ht k _
    dsimp only
    split
    · split
      · exact resting_buildRegion ht _ _ _
      · exact resting_buildRegion ht _ _ _
    · exact resting_buildRegion ht _ _ _
  case number =>
    intro t ht i hi
    have hi8 : i < 8 := List.mem_range.mp hi
    dsimp only
    split
    · exact resting_setRf ht _ _ _ _
    · exact resting_addReport (resting_setRf ht _ _ _ _) (by rw [firstAgg_region (by omega)]; omega) _

theorem hd0_settle (h : Resting m s) : smGet [] (settle s).merges 40 = m := by rw [merges_settle_of_idle h.idle, h.hd0]

end Resting

/-- What a reset of a die does after the streams are abandoned. -/
def rebuildDie (s : State) (d : Nat) : State :=
  let s := (dieRegions d).foldl zeroRegion s
  let s := ((List.range 81).map (81 * d + ·)).foldl freshArray s
  let s := (dieLinks d).foldl trainLink (buildDie s d)
  settle { s with ways := rf s .tierWays 0 5 }

/-- Rebuilding a die leaves the merge table of HD0. -/
theorem hd0_rebuildDie {m : List MergeEntry} {s : State} (h : Resting m s) {d : Nat} (hd : d < 4) :
    smGet [] (rebuildDie s d).merges 40 = m := by
  have hzeroed := List.foldlRecOn (motive := Resting m) (dieRegions d) zeroRegion h fun _ ht r _ => resting_zeroRegion ht r
  have hfresh := List.foldlRecOn (motive := Resting m) ((List.range 81).map (81 * d + ·)) freshArray hzeroed
    fun _ ht c _ => resting_freshArray ht c
  have htrained := List.foldlRecOn (motive := Resting m) (dieLinks d) trainLink (resting_buildDie hfresh hd)
    fun _ ht k _ => resting_trainLink ht k
  exact hd0_settle (resting_of_eq htrained rfl rfl rfl rfl)

/-- A background snapshot stream with nothing left to copy. -/
def emptyStream : Stream := ⟨⟨0, [], [], [], [], [], [], 0⟩, [], none, 0⟩

/-- Contexts 1 and 0, each with such a stream, listed out of order, and a COPY of context 0 on a stream engine of region 0. -/
def listedOutOfOrder : State :=
  { setReg (addOut State.reset copyInFlight) (.arrCluStat 0) (BitVec.ofNat 64 (2 ^ 26)) with
    ctxs := [(1, { CtxSt.reset with stream := some emptyStream }), (0, { CtxSt.reset with stream := some emptyStream })] }

/-- The commands on the engines of die 0 have ended, which lists the contexts in order. -/
def commandsEnded : State := abortOn listedOutOfOrder ((List.range 9).flatMap fun k => regionEngines listedOutOfOrder k)

theorem keys_commandsEnded : commandsEnded.ctxs.map Prod.fst = [0, 1] := by decide

/-- The streams of some contexts have been abandoned in turn. -/
def abandoned (xs : List Nat) : State := xs.foldl abandonStream commandsEnded

theorem abandoned_quiet : ∀ xs ∈ [[1, 0], [0, 1]], (abandoned xs).outs = [] ∧ (abandoned xs).sec.erases = []
    ∧ (∀ p ∈ (abandoned xs).ctxs, p.2.embers = [] ∧ p.2.wants = [])
    ∧ (smGet [] (abandoned xs).merges 40).map (·.ctx) = xs.map some := by decide

theorem reporters_rebuildDie {xs : List Nat} (h : xs ∈ [[1, 0], [0, 1]]) :
    (smGet [] (rebuildDie (abandoned xs) 0).merges 40).map (·.ctx) = xs.map some := by
  obtain ⟨houts, herases, hctxs, hreports⟩ := abandoned_quiet xs h
  have hidle : Idle (abandoned xs) :=
    ⟨houts, herases, fun p hp => (hctxs p hp).1, smGet_of_forall (P := fun c => c.wants = []) rfl fun p hp => (hctxs p hp).2⟩
  rw [hd0_rebuildDie ⟨hidle, rfl⟩ (by decide), hreports]

/-- Refutes O40: a reset of a die abandons the streams in the order in which the contexts are listed before it ends their commands,
where the statement takes the order after it. The records of the streams show it where the contexts are listed out of order: ending a
COPY of context 0 lists them in order. -/
theorem not_writtenResetsAct : ¬ Obligations.WrittenResetsAct := by
  intro h
  obtain ⟨-, -, -, hdie, -⟩ := h listedOutOfOrder .preset rfl
  have hstated : exec (.dieWarmReset .preset 0) listedOutOfOrder
      = .next (rebuildDie (abandoned (commandsEnded.ctxs.map Prod.fst)) 0) := hdie 0
  have hexec : exec (.dieWarmReset .preset 0) listedOutOfOrder = .next (rebuildDie (abandoned [1, 0]) 0) :=
    congrArg Host.Outcome.next ((barReg_fltReset rfl _).trans (resetWrite_die _ 0))
  have hsame := Host.Outcome.next.inj (hexec.symm.trans hstated)
  have hreports := congrArg (fun s => (smGet [] s.merges 40).map (·.ctx)) hsame
  rw [keys_commandsEnded, reporters_rebuildDie (by decide), reporters_rebuildDie (by decide)] at hreports
  exact absurd hreports (by decide)

end Sys2Proof.Proofs
end

section
namespace Sys2Proof.Proofs
open Sys2Proof.Machine Sys2Proof.Laws

/-! ## Writes of control registers (R468, R474) -/

/-- The bits of a register that a write can change now. -/
def openBits (s : State) (r : Reg) : Word := BitVec.ofNat 64 (r.rwMask ||| if regLocked s r then 0 else r.rwlMask)

/-- A value in the open bits of a register, with the others as they are. -/
def mergedValue (s : State) (r : Reg) (v : Word) : Word := (regRaw s r &&& ~~~openBits s r) ||| (v &&& openBits s r)

/-- A write to a register under its lock is logged (R468). -/
def lockLogged (s : State) (src : Source) (r : Reg) : State := if regLocked s r then logAccess s src r.offset 2 else s

/-- A write to a register with open bits: what it stores and does once the locked fields are settled. -/
theorem writeReg_of_basic {r : Reg} (hro : r.writeOnly = false) (hrw : r.rwMask ≠ 0) (hbasic : r.expert = false) {s : State}
    (hlock : regLocked s r = true → r.rwlMask ≠ 0) (src : Source) (v : Word) :
    writeReg s src r v = applyWrite (lockLogged s src r) src r
      (adjusted (lockLogged s src r) r (regRaw s r) (mergedValue s r v)) := by
  have hlocked : (r.rwlMask != 0 && regLocked s r) = regLocked s r := by
    cases hl : regLocked s r
    · rw [Bool.and_false]
    · rw [Bool.and_true, bne_iff_ne]
      exact hlock hl
  have hsome : ¬ (decide (r.rwMask = 0) && decide (r.rwlMask = 0)) = true := by rw [decide_eq_false hrw]; exact Bool.false_ne_true
  have hstored : ¬ (regLocked s r && decide (r.rwMask = 0)) = true := by
    rw [decide_eq_false hrw, Bool.and_false]; exact Bool.false_ne_true
  have hopen : ¬ (r.expert && !expertOn s r.block) = true := by rw [hbasic, Bool.false_and]; exact Bool.false_ne_true
  rw [writeReg, hro, if_neg Bool.false_ne_true, if_neg hsome, if_neg hopen]
  simp only [hlocked]
  rw [if_neg hstored]
  rfl

/-- An open bit takes the bit that is written. -/
theorem bitOf_mergedValue {s : State} {r : Reg} {i : Nat} (h : bitOf (openBits s r) i = true) (v : Word) :
    bitOf (mergedValue s r v) i = bitOf v i := by
  simp only [bitOf, BitVec.testBit_toNat] at h ⊢
  simp only [mergedValue, BitVec.getLsbD_or, BitVec.getLsbD_and, BitVec.getLsbD_not, h, Bool.not_true, Bool.and_false, Bool.and_true, Bool.false_or]

/-- A register other than SEC_EPOCH is as it was after an advance of the epoch. -/
theorem regRaw_advanceEpoch {q : Reg} (h : q.offset ≠ Reg.secEpoch.offset) (s : State) : regRaw (advanceEpoch s) q = regRaw s q :=
  (regRaw_setReg_other _ _ _ _ h).trans (regRaw_setReg_other _ _ _ _ h)

/-! ## CTX_CX_CTL (R342, R468, R476) -/

section ContextControl
variable {s : State} {x : Nat} {v : Word}

/-- The lock of a context is set first, where a write sets it. -/
def lockedFirst (s : State) (x : Nat) (v : Word) : State :=
  if bitOf v 1 && !bitOf (reg s (.ctxCxCtl x)) 1 then advanceEpoch (setRf s (.ctxCxCtl x) 1 1 1) else s

theorem reg_lockedFirst {q : Reg} (hq : q.expert = false) (hctl : q.offset ≠ (Reg.ctxCxCtl x).offset)
    (hepoch : q.offset ≠ Reg.secEpoch.offset) : reg (lockedFirst s x v) q = reg s q := by
  unfold lockedFirst
  split
  · rw [reg_of_basic hq, reg_of_basic hq, regRaw_advanceEpoch hepoch]
    exact regRaw_setReg_other _ _ _ _ hctl
  · rfl

theorem ctxEnabled_lockedFirst : ctxEnabled (lockedFirst s x v) x = ctxEnabled s x := by
  rw [ctxEnabled, ctxEnabled, reg_lockedFirst rfl (by simp only [Reg.offset]; omega) (by decide)]

theorem ctxIdle_lockedFirst (hx : x < 64) : ctxIdle (lockedFirst s x v) x = ctxIdle s x := by
  rw [ctxIdle, ctxIdle, reg_lockedFirst rfl (by simp only [Reg.offset]; omega) (by simp only [Reg.offset]; omega)]

/-- Enabling an idle context is the host's. -/
theorem ctxCtlWrite_of_enable (hx : x < 64) (hv : bitOf v 0 = true) (hoff : ctxEnabled s x = false) (hidle : ctxIdle s x = true)
    (src : Source) : ctxCtlWrite s src x v = if src ≠ .host then logAccess (lockedFirst s x v) src (Reg.ctxCxCtl x).offset 3
      else enableAttempt (lockedFirst s x v) x := by
  have hwas : ¬ (bitOf (reg s (.ctxCxCtl x)) 0 && ctxEnabled (lockedFirst s x v) x) = true := by
    rw [ctxEnabled_lockedFirst, hoff, Bool.and_false]; exact Bool.false_ne_true
  refine (if_pos hv).trans ((if_neg hwas).trans ?_)
  change (if (ctxIdle (lockedFirst s x v) x && src == .host) = true then _ else _) = _
  rw [ctxIdle_lockedFirst hx, hidle, Bool.true_and]
  cases src <;> rfl

/-- Clearing EN of an enabled context disables it. -/
theorem ctxCtlWrite_of_disable (hv : bitOf v 0 = false) (hwas : bitOf (reg s (.ctxCxCtl x)) 0 = true) (hon : ctxEnabled s x = true)
    (src : Source) : ctxCtlWrite s src x v = disableCtx (setRf (lockedFirst s x v) (.ctxCxCtl x) 0 1 0) x := by
  have hen : ctxEnabled (setRf (lockedFirst s x v) (.ctxCxCtl x) 0 1 0) x = true := by
    rw [ctxEnabled, setRf, reg_setReg_other rfl (by simp only [Reg.offset]; omega)]
    exact ctxEnabled_lockedFirst.trans hon
  exact (if_neg (ne_true_of_eq_false hv)).trans (if_pos (Bool.and_eq_true_iff.mpr ⟨hwas, hen⟩))

/-- A write that sets no EN of a disabled context clears it. -/
theorem ctxCtlWrite_of_disabled (hv : bitOf v 0 = false) (hoff : ctxEnabled s x = false) (src : Source) :
    ctxCtlWrite s src x v = setRf (lockedFirst s x v) (.ctxCxCtl x) 0 1 0 := by
  have hen : ctxEnabled (setRf (lockedFirst s x v) (.ctxCxCtl x) 0 1 0) x = false := by
    rw [ctxEnabled, setRf, reg_setReg_other rfl (by simp only [Reg.offset]; omega)]
    exact ctxEnabled_lockedFirst.trans hoff
  refine (if_neg (ne_true_of_eq_false hv)).trans (if_neg ?_)
  change ¬ (_ && ctxEnabled (setRf (lockedFirst s x v) (.ctxCxCtl x) 0 1 0) x) = true
  rw [hen, Bool.and_false]
  exact Bool.false_ne_true

/-- A write of CTX_CX_CTL that its source's gate serves: EN and LOCK are as written. -/
theorem barReg_ctxCtl {src : Source} (hx : x < 64) (hmay : mayWrite s src (Reg.ctxCxCtl x).offset = true) (v : Word) :
    ∃ w, (∀ i < 2, bitOf w i = bitOf v i)
      ∧ barReg s src (.ctxCxCtl x) v = ctxCtlWrite (dropLatch s (senderOf src)) (senderOf src) x w := by
  refine ⟨mergedValue (dropLatch s (senderOf src)) (.ctxCxCtl x) v, fun i hi => bitOf_mergedValue ?_ v, ?_⟩
  · have hopen : ∀ i < 2, bitOf (BitVec.ofNat 64 (0x3 ||| 0x0)) i = true := by decide
    exact hopen i hi
  · rw [barReg_of_mayWrite (r := .ctxCxCtl x) (decide_eq_true hx) hmay,
        writeReg_of_basic (r := .ctxCxCtl x) rfl (by rw [Reg.rwMask]; decide) rfl (fun h => absurd h Bool.false_ne_true)]
    rfl

theorem lockedFirst_congr {w : Word} (h : bitOf w 1 = bitOf v 1) : lockedFirst s x w = lockedFirst s x v := by
  rw [lockedFirst, lockedFirst, h]

end ContextControl

/-! ## CTX_CX_RING_n (R293, R294, R341) -/

section RingControl
variable {s : State} {x n : Nat}

/-- Storing the fields above bit 0 leaves it. -/
theorem bitOf_setFld_zero {lo : Nat} (hlo : 1 ≤ lo) {len : Nat} (w : Word) (v : Nat) : bitOf (setFld w lo len v) 0 = bitOf w 0 := by
  rw [bitOf_eq_fld, bitOf_eq_fld, fld, fld, setFld, BitVec.toNat_ofNat, bitsAt_mod_two_pow (by decide), bitsAt_putBits_low hlo]

/-- A value of CTX_CX_RING_n with MODE 3 ignored. -/
def ringMode (s : State) (x n : Nat) (v : Word) : Word := if fld v 3 2 = 3 then setFld v 3 2 (rf s (.ctxCxRing x n) 3 2) else v

/-- A value of CTX_CX_RING_n as it is stored: with MODE 3 ignored, and COALESCE at least 1. -/
def storedRingValue (s : State) (x n : Nat) (v : Word) : Word := atLeastOne 8 8 (ringMode s x n v)

theorem bitOf_ringMode (v : Word) : bitOf (ringMode s x n v) 0 = bitOf v 0 := by
  unfold ringMode
  split
  · exact bitOf_setFld_zero (by decide) _ _
  · rfl

theorem bitOf_storedRingValue (v : Word) : bitOf (storedRingValue s x n v) 0 = bitOf v 0 := by
  rw [storedRingValue, atLeastOne]
  split
  · rw [bitOf_setFld_zero (by decide), bitOf_ringMode]
  · exact bitOf_ringMode v

theorem ringCfgWrite_of_start {v : Word} (hv : bitOf v 0 = true) (hoff : ringEn s x n = false) (hcfg : ringConfigured s x n = true)
    (hbusy : ringBusy s x n = false) (src : Source) :
    ringCfgWrite s src x n v = startRing (setReg s (.ctxCxRing x n) (storedRingValue s x n v)) x n := by
  have hen : (bitOf (storedRingValue s x n v) 0 && !ringEn s x n) = true := by rw [bitOf_storedRingValue, hv, hoff]; rfl
  have hfit : ¬ (!ringConfigured s x n || ringBusy s x n) = true := by rw [hcfg, hbusy]; exact Bool.false_ne_true
  exact (if_pos hen).trans (if_neg hfit)

theorem ringCfgWrite_of_stop {v : Word} (hv : bitOf v 0 = false) (hon : ringEn s x n = true) (src : Source) :
    ringCfgWrite s src x n v = setIntakeOff (setReg s (.ctxCxRing x n) (storedRingValue s x n v)) x n true := by
  have hen : ¬ (bitOf (storedRingValue s x n v) 0 && !ringEn s x n) = true := by rw [bitOf_storedRingValue, hv]; exact Bool.false_ne_true
  have hstop : (!bitOf (storedRingValue s x n v) 0 && ringEn s x n) = true := by rw [bitOf_storedRingValue, hv, hon]; rfl
  exact (if_neg hen).trans (if_pos hstop)

/-- What a lock logs leaves the registers of rings and contexts. -/
theorem regRaw_lockLogged {q : Reg} (hcnt : q.offset ≠ Reg.idAccLogCnt.offset) (hlast : q.offset ≠ Reg.idAccLogLast.offset) (src : Source)
    (r : Reg) : regRaw (lockLogged s src r) q = regRaw s q := by
  unfold lockLogged
  split
  · exact regRaw_logAccess hcnt hlast _ _ _ _
  · rfl

theorem reg_lockLogged {q : Reg} (hq : q.expert = false) (hcnt : q.offset ≠ Reg.idAccLogCnt.offset)
    (hlast : q.offset ≠ Reg.idAccLogLast.offset) (src : Source) (r : Reg) : reg (lockLogged s src r) q = reg s q := by
  rw [reg_of_basic hq, reg_of_basic hq, regRaw_lockLogged hcnt hlast]

/-- A write of CTX_CX_RING_n that its source's gate serves. -/
theorem barReg_ring {src : Source} (hx : x < 64) (hn : n < 16) (hmay : mayWrite s src (Reg.ctxCxRing x n).offset = true) (v : Word) :
    barReg s src (.ctxCxRing x n) v
      = ringCfgWrite (lockLogged (dropLatch s (senderOf src)) (senderOf src) (.ctxCxRing x n)) (senderOf src) x n
        (mergedValue (dropLatch s (senderOf src)) (.ctxCxRing x n) v) := by
  rw [barReg_of_mayWrite (r := .ctxCxRing x n) (by rw [Reg.inTable, decide_eq_true hx, decide_eq_true hn, Bool.and_self]) hmay,
    writeReg_of_basic (r := .ctxCxRing x n) rfl (by rw [Reg.rwMask]; decide) rfl (fun _ => by rw [Reg.rwlMask]; decide)]
  rfl

theorem bitOf_mergedRing (v : Word) : bitOf (mergedValue s (.ctxCxRing x n) v) 0 = bitOf v 0 := by
  refine bitOf_mergedValue ?_ v
  rw [openBits]
  split
  · exact (by decide : bitOf (BitVec.ofNat 64 (0xFFFF19 ||| 0x0)) 0 = true)
  · exact (by decide : bitOf (BitVec.ofNat 64 (0xFFFF19 ||| 0x6)) 0 = true)

/-- What a ring holds apart from its own counts stays as its counts restart. -/
theorem disabling_zeroRing : (ctx (zeroRing s x n) x).disabling = (ctx s x).disabling := by
  rw [ctx, zeroRing]
  simp only [refreshBusy, setRf, setReg_ctxs, modRing, modCtx, setCtx, smGet_smSet_same]

end RingControl

/-! ## Forces, scripts, ember tables, and the peer enable (R160, R164, R286, R343) -/

section Writes
variable {s : State} {src : Source}

/-- A write of a write-only register acts on what was written. -/
theorem barReg_of_writeOnly {r : Reg} (hr : r.inTable = true) (hro : r.writeOnly = true) (hmay : mayWrite s src r.offset = true)
    (v : Word) : barReg s src r v = applyWrite (dropLatch s (senderOf src)) (senderOf src) r v := by
  rw [barReg_of_mayWrite hr hmay, writeReg, if_pos hro]

/-- A write of a basic register without a lock acts on the old value with the open bits replaced. -/
theorem barReg_of_unlocked {r : Reg} (hr : r.inTable = true) (hro : r.writeOnly = false) (hrw : r.rwMask ≠ 0) (hbasic : r.expert = false)
    (hlock : regLocked (dropLatch s (senderOf src)) r = false) (hmay : mayWrite s src r.offset = true) (v : Word) :
    barReg s src r v = applyWrite (dropLatch s (senderOf src)) (senderOf src) r
      (adjusted (dropLatch s (senderOf src)) r (regRaw (dropLatch s (senderOf src)) r) (mergedValue (dropLatch s (senderOf src)) r v)) := by
  rw [barReg_of_mayWrite hr hmay, writeReg_of_basic hro hrw hbasic (fun h => absurd (hlock.symm.trans h) Bool.false_ne_true),
    lockLogged, hlock, if_neg Bool.false_ne_true]

theorem forceWrite_of_rings {x : Nat} (hbusy : ctxIdle s x = false) (rings : BitVec 16) :
    forceWrite s x (rings.setWidth 64) = settle ((setBits (fld (rings.setWidth 64) 0 16) 16).foldl (fun s n => forceRing s x n) s) := by
  have hctx : ¬ bitOf (rings.setWidth 64) 16 = true := by
    rw [bitOf, BitVec.toNat_setWidth_of_le (by decide), Nat.testBit_lt_two_pow rings.isLt]
    exact Bool.false_ne_true
  rw [forceWrite, if_neg (ne_true_of_eq_false hbusy)]
  simp only [if_neg hctx]

theorem forceWrite_of_context {x : Nat} (hbusy : ctxIdle s x = false) :
    forceWrite s x 0x10000 = teardownNow ((List.range 16).foldl (fun s n => forceRing s x n) s) x none := by
  have hctx : bitOf 0x10000 16 = true := by decide
  rw [forceWrite, if_neg (ne_true_of_eq_false hbusy)]
  simp only [if_pos hctx]

theorem emberWrite_of_table {x : Nat} {v : Word} (h : fld v 48 13 ≤ 4096) {os : List EmberObj} {b : State}
    (htable : emberTable s x v = .ok (os, b)) : emberWrite s x v = settle (modCtx (setReg (dropEmbers b x os) (.tierCxEmber x) v) x
      fun c => { c with embers := os.map (keepEmber c.embers) }) := by
  rw [emberWrite, if_neg (Nat.not_lt.mpr h), htable]

theorem emberWrite_of_fault {x : Nat} {v : Word} (h : fld v 48 13 ≤ 4096) {e : Nat × Nat} (htable : emberTable s x v = .error e) :
    emberWrite s x v = writeEvent s x ⟨0x06, none, none, 0, e.1 % 4096 + e.2 * 2 ^ 12⟩ := by
  rw [emberWrite, if_neg (Nat.not_lt.mpr h), htable]

theorem scriptWrite_eq (x : Nat) (v : Word) : scriptWrite s x v =
    if ctxEnabled s x then settle (startScript (setReg s (.tierCxScript x) (atLeastOne 48 4 v)) x)
    else modCtx (setReg s (.tierCxScript x) (atLeastOne 48 4 v)) x fun c => { c with cursor := 0, issued := 0, stage := [] } := by
  have hen : ctxEnabled (setReg s (.tierCxScript x) (atLeastOne 48 4 v)) x = ctxEnabled s x := by
    rw [ctxEnabled, ctxEnabled, reg_setReg_other rfl (by simp only [Reg.offset]; omega)]
  rw [← hen]
  rfl

theorem peerCtlWrite_of_allowed {v : Word} (hconsent : peerConsent s = true) (hbar : settingsBar s = false) :
    peerCtlWrite s v = if peerEn s && !bitOf v 1 then settle (portsDown (setReg s .peerCtl v)) else setReg s .peerCtl v := by
  rw [peerCtlWrite, hconsent, hbar]
  rfl

theorem tenantEnd_of_settled (h : secState s ≠ 2) : tenantEnd s 1 = startChange s 0 :=
  if_pos (by rw [bne_iff_ne.mpr h]; rfl)

end Writes

/-- Settles O39: each row is a write of its register, which acts on the old value with the open bits replaced. -/
theorem hostControlWritesAct : Obligations.HostControlWritesAct := by
  intro s src x n v from' may u new ctl ring y z m w0 w1 w enabled forced
  have hlogged {q : Reg} (hq : q.expert = false) (hcnt : q.offset ≠ Reg.idAccLogCnt.offset) (hlast : q.offset ≠ Reg.idAccLogLast.offset) :
      reg (lockLogged u from' ring) q = reg u q := reg_lockLogged hq hcnt hlast from' ring
  have hlogged_ring : reg (lockLogged u from' ring) ring = reg u ring :=
    hlogged rfl (by simp only [ring, Reg.offset]; omega) (by simp only [ring, Reg.offset]; omega)
  have hlogged_en : ringEn (lockLogged u from' ring) x.val n.val = ringEn u x.val n.val := congrArg (bitOf · 0) hlogged_ring
  have hlogged_cfg : ringConfigured (lockLogged u from' ring) x.val n.val = ringConfigured u x.val n.val := by
    rw [ringConfigured, ringConfigured, hlogged rfl (by simp only [Reg.offset]; omega) (by simp only [Reg.offset]; omega),
      hlogged rfl (by simp only [Reg.offset]; omega) (by simp only [Reg.offset]; omega)]
  have hlogged_busy : ringBusy (lockLogged u from' ring) x.val n.val = ringBusy u x.val n.val := by
    rw [ringBusy, ringBusy, hlogged rfl (by simp only [Reg.offset]; omega) (by simp only [Reg.offset]; omega)]
  have hvalue : storedRingValue (lockLogged u from' ring) x.val n.val (mergedValue u ring v) = w := by
    rw [storedRingValue, ringMode, rf, hlogged_ring]
    rfl
  refine ⟨fun hmay hv hoff hidle => ?enable, fun hmay hv hon hwas => ?disable, fun hmay hv hlock hoff hunlocked => ?lock,
    fun hmay hv hoff hcfg hbusy => ?start, fun hmay hv hon => ?stop, fun hmay hbusy => ⟨fun rings => ?rings, ?ctx⟩,
    fun hmay => ?script, fun hmay hq => ⟨fun os b htable => ?ember, fun e htable => ?fault⟩, fun hmay hconsent hbarred => ?peer,
    fun hmay hsec => ?tenant⟩
  case enable =>
    obtain ⟨w', hw, hbar⟩ := barReg_ctxCtl x.isLt hmay v
    have hexec : exec (.contextEnable src x v) s = .next (barReg s src ctl v) := congrArg _ (if_pos hv)
    rw [hexec, hbar.trans (ctxCtlWrite_of_enable x.isLt ((hw 0 (by decide)).trans hv) hoff hidle from'), lockedFirst_congr (hw 1 (by decide))]
    change Host.Outcome.next (if from' ≠ .host then logAccess y from' ctl.offset 3 else enableAttempt y x.val) = _
    rw [enableAttempt]
    cases enableFails y x.val (bitOf (reg y ctl) 1) <;> rfl
  case disable =>
    obtain ⟨w', hw, hbar⟩ := barReg_ctxCtl x.isLt hmay v
    have hexec : exec (.contextDisable src x v) s = .next (barReg s src ctl v) := congrArg _ (if_pos (by rw [hv, hon]; rfl))
    rw [hexec, hbar.trans (ctxCtlWrite_of_disable ((hw 0 (by decide)).trans hv) hwas hon from'), lockedFirst_congr (hw 1 (by decide))]
    rfl
  case lock =>
    obtain ⟨w', hw, hbar⟩ := barReg_ctxCtl x.isLt hmay v
    have hexec : exec (.contextLock src x v) s = .next (barReg s src ctl v) := congrArg _ (if_pos (by rw [hv, hlock, hoff]; rfl))
    rw [hexec, hbar.trans (ctxCtlWrite_of_disabled (s := u) ((hw 0 (by decide)).trans hv) hoff from'), lockedFirst_congr (hw 1 (by decide))]
    rfl
  case start =>
    have hexec : exec (.ringEnable src x n v) s = .next (barReg s src ring v) := congrArg _ (if_pos hv)
    have hstarted : barReg s src ring v = startRing (setReg (lockLogged u from' ring) ring w) x.val n.val := by
      rw [← hvalue]
      exact (barReg_ring x.isLt n.isLt hmay v).trans (ringCfgWrite_of_start ((bitOf_mergedRing v).trans hv) (hlogged_en.trans hoff)
        (hlogged_cfg.trans hcfg) (hlogged_busy.trans hbusy) from')
    rw [hexec, hstarted, startRing, ← disabling_zeroRing (n := n.val)]
    rfl
  case stop =>
    have hexec : exec (.ringDisable src x n v) s = .next (barReg s src ring v) := congrArg _ (if_neg (ne_true_of_eq_false hv))
    have hstopped : barReg s src ring v = setIntakeOff (setReg (lockLogged u from' ring) ring w) x.val n.val true := by
      rw [← hvalue]
      exact (barReg_ring x.isLt n.isLt hmay v).trans
        (ringCfgWrite_of_stop ((bitOf_mergedRing v).trans hv) (hlogged_en.trans hon) from')
    exact hexec.trans (congrArg _ hstopped)
  case rings =>
    have hbar := barReg_of_writeOnly (r := .schCxForce x.val) (decide_eq_true x.isLt) rfl hmay (rings.setWidth 64)
    exact congrArg _ (hbar.trans (forceWrite_of_rings hbusy rings))
  case ctx =>
    have hbar := barReg_of_writeOnly (r := .schCxForce x.val) (decide_eq_true x.isLt) rfl hmay 0x10000
    exact congrArg _ (hbar.trans (forceWrite_of_context hbusy))
  case script =>
    have hbar := barReg_of_unlocked (r := .tierCxScript x.val) (decide_eq_true x.isLt) rfl (by rw [Reg.rwMask]; decide) rfl rfl hmay v
    exact congrArg _ (hbar.trans (scriptWrite_eq _ _))
  case ember =>
    have hbar := barReg_of_unlocked (r := .tierCxEmber x.val) (decide_eq_true x.isLt) rfl (by rw [Reg.rwMask]; decide) rfl rfl hmay v
    exact congrArg _ (hbar.trans (emberWrite_of_table hq htable))
  case fault =>
    have hbar := barReg_of_unlocked (r := .tierCxEmber x.val) (decide_eq_true x.isLt) rfl (by rw [Reg.rwMask]; decide) rfl rfl hmay v
    exact congrArg _ (hbar.trans (emberWrite_of_fault hq htable))
  case peer =>
    have hbar := barReg_of_unlocked (r := .peerCtl) rfl rfl (by decide) rfl rfl hmay v
    exact congrArg _ (hbar.trans (peerCtlWrite_of_allowed hconsent hbarred))
  case tenant =>
    have hbar := barReg_of_writeOnly (r := .secTenantEnd) rfl rfl hmay 1
    exact congrArg _ (hbar.trans (tenantEnd_of_settled hsec))

end Sys2Proof.Proofs
end

section
namespace Sys2Proof.Proofs
open Sys2Proof.Machine Sys2Proof.Laws

/-! ## Messages in a session (R386 to R395, R399, R400) -/

section Session
variable {s : State}

theorem spdm_of_open (h : doeOpen s = true) (act : State → State) : spdm s act = act s := if_pos h

variable {n : Nat} {q : Session} (hopen : doeOpen s = true) (hq : sessionOf s n = some q)
include hopen hq

theorem inSession_of_open (act : State → Session → State) : inSession s n act = act s q := by
  rw [inSession, spdm_of_open hopen, hq]

/-- The key protocol speaks with the tenant session alone in a tenancy. -/
theorem keyMessage_of_tenant (hmay : secState s ≠ 1 ∨ q.tenant = true) (act : State → State) : keyMessage s n act = act s := by
  have hallowed : ¬ (secState s == 1 && !q.tenant) = true := by
    rw [Bool.and_eq_true, beq_iff_eq, Bool.not_eq_true']
    rintro ⟨hsec, htenant⟩
    rcases hmay with hsec' | htenant'
    · exact hsec' hsec
    · exact absurd (htenant'.symm.trans htenant) (by decide)
  rw [keyMessage, inSession_of_open hopen hq, if_neg hallowed]

theorem keyMessage_of_other (hsec : secState s = 1) (hother : q.tenant = false) (act : State → State) :
    keyMessage s n act = kpAnswer s kpRefused := by
  have hbarred : (secState s == 1 && !q.tenant) = true := by rw [hsec, hother]; rfl
  rw [keyMessage, inSession_of_open hopen hq, if_pos hbarred]

theorem tdispRequest_of_open (ok : State → Bool) (next : State → State) : tdispRequest s n ok next =
    if ok s then emit (next (advanceEpoch s)) (.tdisp true) else emit s (.tdisp false) := inSession_of_open hopen hq _

end Session

theorem emit_ite (s : State) (p : Prop) [Decidable p] (a b : Output) :
    emit s (if p then a else b) = if p then emit s a else emit s b := apply_ite (emit s) p a b

/-- Settles O53: each answer is sent where the mailbox is open. -/
theorem attestationAnswers : Obligations.AttestationAnswers := by
  intro s
  refine ⟨fun hopen => ⟨fun k => ?_, fun n => congrArg _ (spdm_of_open hopen _), fun n => ?_, fun h m => ⟨fun htwo => ?_, fun hroom => ?_⟩,
    fun n q hq => ⟨congrArg _ (inSession_of_open hopen hq _), congrArg _ (inSession_of_open hopen hq _),
      congrArg _ (inSession_of_open hopen hq _)⟩⟩, fun n hn => congrArg _ (if_pos hn)⟩
  · rw [emit_ite]
    exact congrArg _ (spdm_of_open hopen _)
  · rw [emit_ite]
    exact congrArg _ (spdm_of_open hopen _)
  · exact (congrArg Host.Outcome.next (spdm_of_open hopen _)).trans (congrArg _ (if_pos htwo))
  · exact (congrArg Host.Outcome.next (spdm_of_open hopen _)).trans (congrArg _ (if_neg (Nat.not_le.mpr hroom)))

/-- Settles O55: each message acts in its open session. -/
theorem interfaceMessagesAct : Obligations.InterfaceMessagesAct := by
  intro s n q hopen hq
  exact ⟨fun k key => congrArg _ (inSession_of_open hopen hq _), congrArg _ (tdispRequest_of_open hopen hq _ _),
    congrArg _ (tdispRequest_of_open hopen hq _ _), congrArg _ (tdispRequest_of_open hopen hq _ _), fun k => rfl⟩

/-! ## The key protocol (R392 to R395, R408, R412) -/

section KeyProtocol
variable {s : State}

theorem putSetKeyNow_of_new {i : Word} (hnew : setKeyOf s i = none) (key : BitVec 256) : putSetKeyNow s i key =
    if 64 ≤ s.sec.setKeys.length then kpAnswer s kpNoSpace
    else kpAnswer (advanceEpoch { s with sec := { s.sec with setKeys := s.sec.setKeys ++ [(i, key)] } }) kpOk :=
  if_neg (by rw [hnew]; exact Bool.false_ne_true)

theorem eraseAdapterKey_eq (k : Nat) : eraseAdapterKey s k =
    if 65536 ≤ k then kpAnswer s kpMalformed
    else if (adp s k).state = .live ∨ (adp s k).state = .retiring then kpAnswer s kpRefused
    else if keyInUse s k then { s with sec := { s.sec with erases := s.sec.erases ++ [k] } }
    else eraseSlot s k := by
  simp only [eraseAdapterKey, Bool.or_eq_true, beq_iff_eq]

theorem eraseKeyNow_of_otherKind {kind : Nat} (h : 2 ≤ kind) (i : Word) : eraseKeyNow s kind i = kpAnswer s kpMalformed := by
  unfold eraseKeyNow
  split
  · omega
  · omega
  · rfl

theorem preserveNow_of_barred (h : secState s ≠ 1 ∨ policyBit s 2 = false) : preserveNow s = kpAnswer s kpRefused := by
  refine if_pos ?_
  rw [Bool.not_eq_true', Bool.and_eq_false_iff, beq_eq_false_iff_ne]
  exact h

theorem preserveNow_of_allowed (hsec : secState s = 1) (hpolicy : policyBit s 2 = true) : preserveNow s =
    kpAnswer (refreshSec (logEntry { haveWrap s with sec := { (haveWrap s).sec with
      preserved := some ((haveWrap s).sec.adpKeys, (haveWrap s).sec.setKeys, (haveWrap s).sec.policy) } } 0x12 0)) kpOk :=
  if_neg (by rw [hsec, hpolicy]; exact Bool.false_ne_true)

theorem endTenancyNow_of_tenancy (h : secState s = 1) : endTenancyNow s = startChange (kpAnswer s kpOk) 0 :=
  (if_neg (by rw [h]; decide)).trans (if_pos h)

theorem endTenancyNow_of_open (h1 : secState s ≠ 1) (h2 : secState s ≠ 2) : endTenancyNow s = kpAnswer s kpRefused :=
  (if_neg h2).trans (if_neg h1)

end KeyProtocol

/-- Settles O54: a message of a session that may speak the key protocol acts, and END_TENANCY of another in a tenancy is refused. -/
theorem keyProtocolMessagesAct : Obligations.KeyProtocolMessagesAct := by
  intro s n q hopen hq no
  refine ⟨fun hsec hother => congrArg _ (keyMessage_of_other hopen hq hsec hother _), fun hmay => ?_⟩
  have hact (act : State → State) : keyMessage s n act = act s := keyMessage_of_tenant hopen hq hmay act
  have hnext {act : State → State} {t : State} (h : act s = t) :
      (.next (keyMessage s n act) : Host.Outcome State Fault Refusal) = .next t := congrArg _ ((hact act).trans h)
  refine ⟨fun p => hnext rfl, fun i key hheld => hnext (if_pos hheld),
    fun i key hnew hfull => hnext ((putSetKeyNow_of_new hnew key).trans (if_pos hfull)),
    fun i key hnew hroom => hnext ((putSetKeyNow_of_new hnew key).trans (if_neg (Nat.not_le.mpr hroom))),
    fun k key hheld => hnext (if_pos hheld), fun k key hnew => hnext (if_neg (by rw [hnew]; exact Bool.false_ne_true)),
    fun i => hnext rfl, fun i => hnext (eraseAdapterKey_eq i.toNat), fun kind i hkind => hnext (eraseKeyNow_of_otherKind hkind i),
    fun hbarred => hnext (preserveNow_of_barred hbarred), fun hsec hpolicy => hnext (preserveNow_of_allowed hsec hpolicy),
    fun hsec => hnext (if_pos hsec), fun hsec => hnext (endTenancyNow_of_tenancy hsec),
    fun h1 h2 => hnext (endTenancyNow_of_open h1 h2)⟩

/-! ## Alarms, tenant changes and settings images (R407, R408, R410, R437, R453) -/

/-- An update that its source's gate serves acts on the state without the source's latch. -/
theorem exec_setUpdCtlGo {s : State} {src : Source} (hsrc : src ≠ .smbus ∧ src ≠ .preset)
    (hmay : mayWrite s src Reg.setUpdCtl.offset = true) (readFails flashFails : Bool) :
    exec (.setUpdCtlGo src readFails flashFails) s = .next (updateNow (dropLatch s (senderOf src)) readFails flashFails) := by
  obtain ⟨hsmbus, hpreset⟩ := hsrc
  cases src with
  | host => exact congrArg _ (gated_of_serve (eq_of_beq hmay) fun s => updateNow (dropLatch s .host) readFails flashFails)
  | outside => exact congrArg _ (gated_of_serve (eq_of_beq hmay) fun s => updateNow (dropLatch s .host) readFails flashFails)
  | monitor => exact congrArg _ (if_pos hmay)
  | smbus => exact absurd rfl hsmbus
  | preset => exact absurd rfl hpreset

/-- Settles O52: the alarms share one row, and the other rows are the steps that the statement lists. -/
theorem alarmsAndTenantChangesAct : Obligations.AlarmsAndTenantChangesAct := by
  intro s begin'
  refine ⟨fun p hp => ?alarm, fun hcell => congrArg _ (if_pos hcell), fun bad t htarget hsec hclocks => ?change, rfl,
    fun src readFails flashFails hmay => ?update⟩
  case alarm =>
    have hcode : exec p.1 s = .next (alarm s p.2.1 p.2.2) := by
      revert p
      simp only [List.forall_mem_cons, List.not_mem_nil, false_imp_iff, implies_true, and_true]
      exact ⟨rfl, rfl, rfl, rfl, rfl⟩
    rw [hcode]
    rfl
  case change =>
    have hexec : exec (.tenantChange bad) s = .next (closeChange
        (installPolicy (scrubAll (newKeys (endTenancyWork s)) (bad.map Fin.val)) t) t (bad.map Fin.val)) := by
      change execTenantChange bad s = _
      rw [execTenantChange, htarget]
      exact congrArg _ (if_pos ⟨hsec, hclocks⟩)
    intro worked rekeyed scrubbed p ack installed
    have hworked : endTenancyWork s = worked := rfl
    clear_value worked
    have hrekeyed : newKeys worked = rekeyed := rfl
    clear_value rekeyed
    have hscrubbed : scrubAll rekeyed (bad.map Fin.val) = scrubbed := rfl
    clear_value scrubbed
    have hinstalled : installPolicy scrubbed t = installed := rfl
    clear_value installed
    rw [hexec, hworked, hrekeyed, hscrubbed, hinstalled]
    rfl
  case update =>
    have hsrc : (src ≠ .smbus ∧ src ≠ .preset) ∧ mayWrite s src Reg.setUpdCtl.offset = true := by
      cases src with
      | host | outside | monitor => exact ⟨⟨by decide, by decide⟩, hmay⟩
      | smbus | preset => exact absurd hmay Bool.false_ne_true
    rw [exec_setUpdCtlGo hsrc.1 hsrc.2, senderOf]
    generalize dropLatch s (if src = .outside then .host else src) = u
    dsimp only [updateNow]
    cases updateFault u (updateImage u) <;> rfl

end Sys2Proof.Proofs
end

section
namespace Sys2Proof.Proofs
open Sys2Proof.Machine Sys2Proof.Laws

/-! ## The management bus and the scan chain (R456, R457) -/

theorem smb_of_input {s : State} (h : s.power.state ≠ .off) (act : State → State) : smb s act = act s :=
  if_pos (bne_iff_ne.mpr h)

theorem countByte_of_large {s : State} {n : Nat} (h : 256 ≤ n) : countByte s n = ((draw s).1.toNat % 256, (draw s).2) :=
  if_neg (Nat.not_lt.mpr h)

/-- Settles O56: each answer is sent while the input is on. -/
theorem managementBusAnswers : Obligations.ManagementBusAnswers := by
  intro s hon
  have hanswer (act : State → State) {t : State} (h : act s = t) :
      (.next (smb s act) : Host.Outcome State Fault Refusal) = .next t := congrArg _ ((smb_of_input hon act).trans h)
  refine ⟨hanswer _ rfl, hanswer _ rfl, hanswer _ rfl, fun mv => hanswer _ rfl, hanswer _ rfl, fun w => hanswer _ rfl,
    ⟨fun hfew => hanswer _ ?few, fun hmany => ⟨(draw s).1.toNat % 256, hanswer _ ?many⟩⟩, fun hheld => ?alert, hanswer _ rfl, hanswer _ rfl, hanswer _ rfl⟩
  case few =>
    have hcount : countByte s (clustersFailed s) = (clustersFailed s, s) := if_pos hfew
    dsimp only
    rw [hcount]
    rfl
  case many =>
    have hcount : countByte s (clustersFailed s) = ((draw s).1.toNat % 256, (draw s).2) := countByte_of_large hmany
    dsimp only
    rw [hcount]
    rfl
  case alert => exact congrArg _ (if_pos (by rw [managed, bne_iff_ne.mpr hon, hheld]; rfl))

/-! ## The monitor (R458 to R461) -/

section Monitor
variable {s : State} (hruns : clocksRun s = true)
include hruns

theorem monitorLine_of_running (act : State → State) : monitorLine s act = act s := if_pos hruns

theorem openOnly_of_open (hsec : secState s = 0) (act : State → State) : openOnly s act = act s := by
  rw [openOnly, monitorLine_of_running hruns, if_pos hsec]

theorem openOnly_of_closed (hsec : secState s ≠ 0) (act : State → State) :
    openOnly s act = emit s (.monitor (some (if secState s = 1 then "LOCKED" else "BUSY")) []) := by
  rw [openOnly, monitorLine_of_running hruns, if_neg hsec]
  split
  · rfl
  · rfl

end Monitor

theorem resetWord_zero (k : Nat) : resetWord k 0 = BitVec.ofNat 64 k := by rw [resetWord, Nat.zero_mul, Nat.add_zero]

/-- Settles O57: each line is answered while the clock runs, and the lines for OPEN alone by the state. -/
theorem monitorAnswers : Obligations.MonitorAnswers := by
  intro s hruns
  have hline (act : State → State) {t : State} (h : act s = t) :
      (.next (monitorLine s act) : Host.Outcome State Fault Refusal) = .next t := congrArg _ ((monitorLine_of_running hruns act).trans h)
  refine ⟨hline _ ?help, hline _ rfl, fun n => hline _ ?log, hline _ ?failrec, fun long => hline _ rfl, fun hopen => ?opened, fun hclosed => ?closed⟩
  case help => rfl
  case log =>
    rw [emit_ite]
    rfl
  case failrec =>
    rw [emit_ite]
    rfl
  case opened =>
    have hopened (act : State → State) {t : State} (h : act s = t) :
        (.next (openOnly s act) : Host.Outcome State Fault Refusal) = .next t := congrArg _ ((openOnly_of_open hruns hopen act).trans h)
    refine ⟨fun off hword => hopened _ (if_pos hword), fun off v hin => hopened _ (if_pos hin), fun off hbad => ⟨(draw (dropLatch s .monitor)).1.toNat % 256, hopened _ (if_neg hbad)⟩,
      fun off v hout hbad => ⟨(draw (barWrite s .monitor off.toNat 8 v)).1.toNat % 256, hopened _ ((if_neg (ne_true_of_eq_false hout)).trans (if_neg hbad))⟩,
      fun a n hn => hopened _ (if_pos (by omega)), fun a n h1 h256 href => ⟨(draw (bump s .hifBar4ErrCnt)).1.toNat % 256, hopened _ ((if_neg (by omega)).trans (if_pos href))⟩,
      fun a n h1 h256 hserved hbad => hopened _ ?poisoned, fun k hk => hopened _ (if_neg (by omega)),
      fun off v hout hword => hopened _ ((if_neg (ne_true_of_eq_false hout)).trans (if_pos hword)),
      fun a n h1 h256 hserved hclean => hopened _ ?read, fun k h3 h5 => hopened _ ?reset⟩
    case poisoned => exact (if_neg (by omega)).trans ((if_neg (ne_true_of_eq_false hserved)).trans (if_pos hbad))
    case read => exact (if_neg (by omega)).trans ((if_neg (ne_true_of_eq_false hserved)).trans (if_neg (ne_true_of_eq_false hclean)))
    case reset =>
      rw [← resetWord_zero]
      exact if_pos ⟨h3, h5⟩
  case closed =>
    intro off v a n
    have hanswer (act : State → State) : (.next (openOnly s act) : Host.Outcome State Fault Refusal)
        = .next (emit s (.monitor (some (if secState s = 1 then "LOCKED" else "BUSY")) [])) :=
      congrArg _ (openOnly_of_closed hruns hclosed act)
    simp only [List.forall_mem_cons, List.not_mem_nil, false_imp_iff, implies_true, and_true]
    exact ⟨hanswer _, hanswer _, hanswer _, hanswer _⟩

end Sys2Proof.Proofs
end

section
namespace Sys2Proof.Proofs
open Sys2Proof.Machine Sys2Proof.Laws

/-! ## Commands that only answer -/

/-- Nothing has changed but what the block has said, which only grows, and the count of free values. -/
def OnlyAnswers (s t : State) : Prop := t = { s with out := t.out, free := t.free } ∧ s.out <+: t.out

theorem onlyAnswers_refl (s : State) : OnlyAnswers s s := ⟨rfl, List.prefix_rfl⟩

theorem onlyAnswers_emit {s t : State} (h : OnlyAnswers s t) (o : Output) : OnlyAnswers s (emit t o) := by
  obtain ⟨heq, hout⟩ := h
  refine ⟨?_, hout.trans (List.prefix_append _ _)⟩
  rw [heq]
  rfl

theorem onlyAnswers_draw {s t : State} (h : OnlyAnswers s t) : OnlyAnswers s (draw t).2 := by
  obtain ⟨heq, hout⟩ := h
  refine ⟨?_, hout⟩
  rw [heq]
  rfl

section Answers
variable (s : State)

/-- One answer, or none. -/
theorem onlyAnswers_one (o : Output) : OnlyAnswers s (emit s o) := onlyAnswers_emit (onlyAnswers_refl s) o

theorem onlyAnswers_ite (p : Prop) [Decidable p] {a b : State} (ha : OnlyAnswers s a) (hb : OnlyAnswers s b) :
    OnlyAnswers s (if p then a else b) := by
  split
  · exact ha
  · exact hb

theorem onlyAnswers_smb {act : State → State} (h : OnlyAnswers s (act s)) : OnlyAnswers s (smb s act) :=
  onlyAnswers_ite s _ h (onlyAnswers_refl s)

theorem onlyAnswers_monitorLine {act : State → State} (h : OnlyAnswers s (act s)) : OnlyAnswers s (monitorLine s act) :=
  onlyAnswers_ite s _ h (onlyAnswers_refl s)

theorem onlyAnswers_spdm {act : State → State} (h : OnlyAnswers s (act s)) : OnlyAnswers s (spdm s act) :=
  onlyAnswers_ite s _ h (onlyAnswers_refl s)

theorem onlyAnswers_inSession (n : Nat) {act : State → Session → State} (h : ∀ q, OnlyAnswers s (act s q)) :
    OnlyAnswers s (inSession s n act) := by
  refine onlyAnswers_spdm s ?_
  split
  · exact h _
  · exact onlyAnswers_one s _

theorem onlyAnswers_countByte (n : Nat) : OnlyAnswers s (countByte s n).2 := by
  unfold countByte
  split
  · exact onlyAnswers_refl s
  · exact onlyAnswers_draw (onlyAnswers_refl s)

theorem onlyAnswers_hellos (subs : List Nat) : OnlyAnswers s (subs.foldl sendHelloOn s) :=
  List.foldlRecOn (motive := OnlyAnswers s) subs sendHelloOn (onlyAnswers_refl s) fun _ ht _ _ => onlyAnswers_emit ht _

end Answers

/-- Settles O58: each of the commands sends at most its answers. -/
theorem answersChangeNothingElse : Obligations.AnswersChangeNothingElse := by
  intro s t k nonce n m mv long c hc ht
  suffices h : ∃ u, exec c s = .next u ∧ OnlyAnswers s u by
    obtain ⟨u, hu, honly⟩ := h
    obtain rfl : u = t := Host.Outcome.next.inj (hu.symm.trans ht)
    exact honly
  clear ht
  revert c
  simp only [List.forall_mem_cons, List.not_mem_nil, false_imp_iff, implies_true, and_true]
  exact ⟨⟨_, rfl, onlyAnswers_smb s (onlyAnswers_one s _)⟩, ⟨_, rfl, onlyAnswers_smb s (onlyAnswers_one s _)⟩,
    ⟨_, rfl, onlyAnswers_smb s (onlyAnswers_one s _)⟩, ⟨_, rfl, onlyAnswers_smb s (onlyAnswers_one s _)⟩,
    ⟨_, rfl, onlyAnswers_smb s (onlyAnswers_one s _)⟩,
    ⟨_, rfl, onlyAnswers_smb s (onlyAnswers_emit (onlyAnswers_countByte s _) _)⟩,
    ⟨_, rfl, onlyAnswers_smb s (onlyAnswers_one s _)⟩, ⟨_, rfl, onlyAnswers_smb s (onlyAnswers_one s _)⟩,
    ⟨_, rfl, onlyAnswers_smb s (onlyAnswers_one s _)⟩,
    ⟨_, rfl, onlyAnswers_monitorLine s (onlyAnswers_one s _)⟩, ⟨_, rfl, onlyAnswers_monitorLine s (onlyAnswers_one s _)⟩,
    ⟨_, rfl, onlyAnswers_monitorLine s (onlyAnswers_ite s _ (onlyAnswers_one s _) (onlyAnswers_one s _))⟩,
    ⟨_, rfl, onlyAnswers_monitorLine s (onlyAnswers_ite s _ (onlyAnswers_one s _) (onlyAnswers_one s _))⟩,
    ⟨_, rfl, onlyAnswers_monitorLine s (onlyAnswers_one s _)⟩,
    ⟨_, rfl, onlyAnswers_spdm s (onlyAnswers_ite s _ (onlyAnswers_one s _) (onlyAnswers_one s _))⟩,
    ⟨_, rfl, onlyAnswers_spdm s (onlyAnswers_one s _)⟩,
    ⟨_, rfl, onlyAnswers_spdm s (onlyAnswers_ite s _ (onlyAnswers_one s _) (onlyAnswers_one s _))⟩,
    ⟨_, rfl, onlyAnswers_inSession s n fun _ => onlyAnswers_one s _⟩,
    ⟨_, rfl, onlyAnswers_inSession s n fun _ => onlyAnswers_one s _⟩,
    ⟨_, rfl, onlyAnswers_hellos s _⟩⟩

end Sys2Proof.Proofs
end

section
namespace Sys2Proof.Proofs
open Sys2Proof.Machine Sys2Proof.Laws

/-! ## The power cap (R423, R424, R427) -/

/-- A report changes merge tables alone. -/
theorem sameStore_report (s : State) (code sev source : Nat) (cx : Option Nat) (action info cmd : Nat) :
    sameStore s (report s code sev source cx action info cmd) := sameStore_of_ownPkg rfl rfl rfl rfl

theorem sameWork_report (s : State) (code sev source : Nat) (cx : Option Nat) (action info cmd : Nat) :
    sameWork s (report s code sev source cx action info cmd) := ⟨rfl, rfl, rfl, rfl⟩

theorem sameStore_setPower (s : State) (p : PowerSt) : sameStore s (setPower s p) := sameStore_of_ownPkg rfl rfl rfl rfl

theorem sameWork_setPower (s : State) (p : PowerSt) : sameWork s (setPower s p) := ⟨rfl, rfl, rfl, rfl⟩

section Measure
variable (s : State) (w : Nat)

theorem measure_bCap : (Machine.measure s w).power.bCap = newCap s w := by
  unfold Machine.measure
  dsimp only
  split
  · rfl
  · rfl

theorem sameStore_measure : sameStore s (Machine.measure s w) := by
  unfold Machine.measure
  dsimp only
  split
  · exact sameStore_trans (sameStore_setPower s _) (sameStore_report _ _ _ _ _ _ _ _)
  · exact sameStore_setPower s _

theorem sameWork_measure : sameWork s (Machine.measure s w) := by
  unfold Machine.measure
  dsimp only
  split
  · exact sameWork_trans (sameWork_setPower s _) (sameWork_report _ _ _ _ _ _ _ _)
  · exact sameWork_setPower s _

end Measure

section NewCap
variable {s : State} {w : Nat}

theorem newCap_of_inputLow (h : s.power.inputLow = true) : newCap s w = 2 := if_pos h

theorem newCap_of_over (hlow : s.power.inputLow = false) (h : capWatts s < w) :
    newCap s w = if s.power.bCap ≤ 2 then s.power.bCap else s.power.bCap - 1 :=
  (if_neg (ne_true_of_eq_false hlow)).trans (if_pos h)

theorem newCap_of_under (hlow : s.power.inputLow = false) (h : 100 * w < 97 * capWatts s) :
    newCap s w = min 16 (s.power.bCap + 1) :=
  (if_neg (ne_true_of_eq_false hlow)).trans ((if_neg (by omega)).trans (if_pos h))

theorem newCap_of_between (hlow : s.power.inputLow = false) (hover : ¬ capWatts s < w) (hunder : ¬ 100 * w < 97 * capWatts s) :
    newCap s w = s.power.bCap :=
  (if_neg (ne_true_of_eq_false hlow)).trans ((if_neg hover).trans (if_neg hunder))

/-- The ceiling stays between 2 and 16. -/
theorem newCap_bounds (h2 : 2 ≤ s.power.bCap) (h16 : s.power.bCap ≤ 16) : 2 ≤ newCap s w ∧ newCap s w ≤ 16 := by
  cases hlow : s.power.inputLow with
  | true => rw [newCap_of_inputLow hlow]; decide
  | false =>
    by_cases hover : capWatts s < w
    · rw [newCap_of_over hlow hover]
      split
      · exact ⟨h2, h16⟩
      · omega
    · by_cases hunder : 100 * w < 97 * capWatts s
      · rw [newCap_of_under hlow hunder]
        omega
      · rw [newCap_of_between hlow hover hunder]
        exact ⟨h2, h16⟩

end NewCap

/-- Settles O51: a measurement sets the ceiling to `newCap`, case by case. -/
theorem capKeepsBetweenTwoAndSixteen : Obligations.CapKeepsBetweenTwoAndSixteen := by
  intro s t w hon h2 h16 ht
  have hexec : exec (.powerMeasurement w) s = .next (Machine.measure s w) := congrArg _ (if_pos hon)
  obtain rfl : Machine.measure s w = t := Host.Outcome.next.inj (hexec.symm.trans ht)
  rw [measure_bCap]
  obtain ⟨hlow2, hhigh⟩ := newCap_bounds (w := w) h2 h16
  refine ⟨hlow2, hhigh, newCap_of_inputLow, fun hlow hover => ?_, newCap_of_under, sameStore_measure s w, sameWork_measure s w⟩
  rw [newCap_of_over hlow hover]
  split
  · omega
  · omega

/-! ## Temperature, rails and clocks (R419, R425 to R427) -/

theorem setLimited_eq (s : State) (u t : Nat) : setLimited s u t =
    if s.power.limited.getD u false == decide (105 ≤ t) then s
    else if 105 ≤ t then supplyReport (setPower s { s.power with limited := s.power.limited.set u (decide (105 ≤ t)) }) 0x52 1 0
        (thermInfo (thermUnit u) t)
      else setPower s { s.power with limited := s.power.limited.set u (decide (105 ≤ t)) } := by
  simp only [setLimited, decide_eq_true_eq]

/-- A rail that is off stays off as others turn off. -/
theorem getD_railsOff_of_off {l : List Bool} {i : Nat} (h : l.getD i true = false) (rs : List Nat) :
    (rs.foldl (fun l i => l.set i false) l).getD i true = false := by
  refine List.foldlRecOn (motive := fun l : List Bool => l.getD i true = false) rs _ h fun l hl r _ => ?_
  rw [List.getD_eq_getElem?_getD, List.getElem?_set]
  rw [List.getD_eq_getElem?_getD] at hl
  split
  next heq =>
    subst heq
    split
    · rfl
    next hout => rwa [List.getElem?_eq_none (Nat.not_lt.mp hout)] at hl
  next => exact hl

theorem getD_railsOff {rs : List Nat} {i : Nat} (hi : i ∈ rs) {l : List Bool} (hl : i < l.length) :
    (rs.foldl (fun l i => l.set i false) l).getD i true = false := by
  induction rs generalizing l with
  | nil => cases hi
  | cons r rs ih =>
    rcases List.mem_cons.mp hi with rfl | hrest
    · refine getD_railsOff_of_off ?_ rs
      rw [List.getD_eq_getElem?_getD, List.getElem?_set_self hl]
      rfl
    · exact ih hrest (by rwa [List.length_set])

theorem clocksRun_of_unlocked {s : State} (h : bitOf (regRaw s .clkStat) 1 = false) : clocksRun s = false := by
  rw [clocksRun, reg_of_basic rfl, h, Bool.false_and]

theorem sameStore_failPackage (s : State) : sameStore s (failPackage s) := sameStore_of_ownPkg rfl rfl rfl rfl

/-- A failure of the supply: it is reported and the package fails. -/
def supplyFails (s : State) (code info : Nat) : State := failPackage (supplyReport s code 3 9 info)

section SupplyFails
variable {s u : State} (code info : Nat)

theorem supplyFails_power : (supplyFails s code info).power = s.power := rfl

theorem sameStore_supplyFails (h : sameStore s u) : sameStore s (supplyFails u code info) :=
  sameStore_trans h (sameStore_trans (sameStore_report _ _ _ _ _ _ _ _) (sameStore_failPackage _))

theorem sameWork_supplyFails (h : sameWork s u) : sameWork s (supplyFails u code info) := h

end SupplyFails

/-- The comparators have turned some rails off. -/
def compareTripped (s : State) (rs : List Nat) (temp : Nat) : State :=
  let s := railsOff s rs
  { s with power := { s.power with hot := max s.power.hot temp }, pins := { s.pins with sysThermtripN := false } }

theorem compareTripped_rails (s : State) (rs : List Nat) (temp : Nat) :
    (compareTripped s rs temp).power.rails = rs.foldl (fun l i => l.set i false) s.power.rails := rfl

theorem sameStore_compareTripped (s : State) (rs : List Nat) (temp : Nat) : sameStore s (compareTripped s rs temp) :=
  sameStore_of_ownPkg rfl rfl rfl rfl

theorem sameWork_compareTripped (s : State) (rs : List Nat) (temp : Nat) : sameWork s (compareTripped s rs temp) := ⟨rfl, rfl, rfl, rfl⟩

theorem compareTripped_hot (s : State) (rs : List Nat) (temp : Nat) : temp ≤ (compareTripped s rs temp).power.hot := Nat.le_max_right _ _

theorem compareTripped_pin (s : State) (rs : List Nat) (temp : Nat) : (compareTripped s rs temp).pins.sysThermtripN = false := rfl

/-- The rails of a die have turned off, and with those of a hub die the host link. -/
def railTripped (s : State) (rail : Nat) : State :=
  if 12 ≤ rail ∧ rail < 16 then
    { railsOff s (railsOfDie rail) with pcie := { s.pcie with linkUp := false } }
  else railsOff s (railsOfDie rail)

theorem railTripped_rails (s : State) (rail : Nat) :
    (railTripped s rail).power.rails = (railsOfDie rail).foldl (fun l i => l.set i false) s.power.rails := by
  unfold railTripped
  split
  · rfl
  · rfl

theorem sameStore_railTripped (s : State) (rail : Nat) : sameStore s (railTripped s rail) := by
  unfold railTripped
  split
  · exact sameStore_of_ownPkg rfl rfl rfl rfl
  · exact sameStore_of_ownPkg rfl rfl rfl rfl

theorem sameWork_railTripped (s : State) (rail : Nat) : sameWork s (railTripped s rail) := by
  unfold railTripped
  split
  · exact ⟨rfl, rfl, rfl, rfl⟩
  · exact ⟨rfl, rfl, rfl, rfl⟩

section ClocksLost
variable (s : State) (lost : Bool)

theorem clkStat_clocksLost : regRaw (clocksLost s lost) .clkStat = if lost then 1 else 0 := regRaw_setReg_same s .clkStat _

/-- The domains stop with the root clock. -/
theorem clocksRun_clocksLost : clocksRun (clocksLost s lost) = false := by
  refine clocksRun_of_unlocked ?_
  rw [clkStat_clocksLost]
  cases lost <;> decide

theorem sameStore_clocksLost : sameStore s (clocksLost s lost) := by
  have hdown : sameStore (setReg s .clkStat (if lost then 1 else 0))
      { setReg s .clkStat (if lost then 1 else 0) with pcie := { s.pcie with linkUp := false } } := sameStore_of_ownPkg rfl rfl rfl rfl
  exact sameStore_supplyFails 0x57 (if lost then 1 else 0) (sameStore_trans (sameStore_setReg (by decide) _) hdown)

theorem sameWork_clocksLost : sameWork s (clocksLost s lost) := ⟨rfl, rfl, rfl, rfl⟩

end ClocksLost

/-- Settles O50: each event is its row's own steps, where the rails that it needs are on. -/
theorem supplyEventsAct : Obligations.SupplyEventsAct := by
  intro s throttle limit other
  have hlimit : setLimited = limit := by
    funext v u t
    exact setLimited_eq v u t
  refine ⟨fun hon => ?powered, fun hoff dies hubs hbms => congrArg _ (if_neg (ne_true_of_eq_false hoff)), rfl,
    fun hcell => congrArg _ (if_neg (ne_true_of_eq_false hcell)), fun hruns lost => ?unlocked⟩
  case powered =>
    have hnext {a b : State} : (.next (if powered s then a else b) : Host.Outcome State Fault Refusal) = .next a := congrArg _ (if_pos hon)
    refine ⟨fun w => hnext, fun dies hubs hbms => ?sample, fun unit temp => ?trip, fun mv => hnext, fun amps => hnext,
      fun rail => ?rail⟩
    case sample =>
      refine hnext.trans (congrArg _ ?_)
      unfold sampleAll sampleDie sampleOther
      rw [hlimit]
      rfl
    case trip =>
      have hexec : exec (.thermalTrip unit temp) s =
          .next (supplyFails (compareTripped s computeRails temp.toNat) 0x53 (thermInfo unit.toNat temp.toNat)) := hnext
      have hrails := compareTripped_rails s computeRails temp.toNat
      have hpin := compareTripped_pin s computeRails temp.toNat
      have hhot := compareTripped_hot s computeRails temp.toNat
      have hstore := sameStore_compareTripped s computeRails temp.toNat
      have hwork := sameWork_compareTripped s computeRails temp.toNat
      generalize compareTripped s computeRails temp.toNat = u at *
      refine ⟨_, hexec, rfl, hpin, rfl, hhot, fun i hi hlen => ?_, sameStore_supplyFails _ _ hstore, sameWork_supplyFails _ _ hwork⟩
      rw [supplyFails_power, hrails]
      exact getD_railsOff hi hlen
    case rail =>
      refine ⟨supplyFails (railTripped s rail.val) 0x56 rail.val, hnext, rfl, rfl, fun i hi hlen => ?_,
        sameStore_supplyFails _ _ (sameStore_railTripped s _), sameWork_supplyFails _ _ (sameWork_railTripped s _)⟩
      rw [supplyFails_power, railTripped_rails]
      exact getD_railsOff hi hlen
  case unlocked =>
    exact ⟨clocksLost s lost, congrArg _ (if_pos hruns), rfl, rfl, clocksRun_clocksLost s lost, clkStat_clocksLost s lost,
      sameStore_clocksLost s lost, sameWork_clocksLost s lost⟩

end Sys2Proof.Proofs
end

section
namespace Sys2Proof.Proofs
open Sys2Proof.Machine Sys2Proof.Laws

/-! ## Resets and their causes (R411, R412, R426, R429, R430) -/

section ColdBoot
variable (s : State) (b : Board)

/-- A cold boot up to the entry of its power-up in the battery log. -/
def powerUp : State :=
  let kept := coldCore s
  let lost := if onCell s && b.domainLost then loseDomain kept else kept
  let boot := { lost with power := { lost.power with state := .boot } }
  if onCell s then logEntry boot 0x01 0 else boot

/-- The board that a cold boot finds. -/
def fitBoard (t : State) : State := { t with part := { t.part with dimms := b.dimms, speed := b.speed, lanes := b.lanes } }

theorem coldBoot_eq : coldBoot s b =
    if !b.refGood then clocksLost (powerUp s b) false
    else refreshSec (restoreStore (trainTier (drawInterleave (drawMemKeys (buildMap
      (useSlot (fitBoard b (powerUp s b)) (chooseSlot (powerUp s b)))))))) := rfl

theorem coldBoot_of_badClock (h : b.refGood = false) : coldBoot s b = clocksLost (powerUp s b) false := by
  rw [coldBoot_eq, h, Bool.not_false, if_pos rfl]

theorem coldBoot_of_goodClock (h : b.refGood = true) : coldBoot s b =
    refreshSec (restoreStore (trainTier (drawInterleave (drawMemKeys (buildMap
      (useSlot (fitBoard b (powerUp s b)) (chooseSlot (powerUp s b)))))))) := by
  rw [coldBoot_eq, h, Bool.not_true, if_neg Bool.false_ne_true]

end ColdBoot

theorem resetWrite_warm (s : State) : resetWrite s 4 = warmReset s := resetWrite_package s

theorem warmReset_of_allowed {s : State} (hsec : secState s ≠ 2) (hclocks : clocksRun s = true) :
    warmReset s = packageWarm s (secState s != 1) :=
  if_pos (by rw [warmAllowed, hclocks, Bool.and_true, bne_iff_ne]; exact hsec)

/-- Settles O48: a cold reset is the cold boot of the board that it finds, and the other causes make the package-warm reset. -/
theorem resetsHaveTheirCauses : Obligations.ResetsHaveTheirCauses := by
  intro s b kept lost boot told fitted mapped up
  have htold : told = powerUp s b := rfl
  clear_value told
  have hfitted : fitted = fitBoard b told := rfl
  clear_value fitted
  have hperst : exec .pciePerstN s = .next (warmReset s) := rfl
  have hcold (h : coldAllowed s = true) : exec (.coldReset b) s = .next (coldBoot s b) := congrArg _ (if_pos h)
  refine ⟨fun h => congrArg _ (if_neg (ne_true_of_eq_false h)), fun h hbad => ?_, fun h hgood => ?_, fun h => congrArg _ (if_pos h),
    ?perst, fun h => congrArg Host.Outcome.next (if_pos h),
    fun hsec hclocks => ?allowed⟩
  case perst => rw [hperst, resetWrite_warm]
  case allowed => rw [hperst, warmReset_of_allowed hsec hclocks]
  · rw [hcold h, coldBoot_of_badClock s b hbad, htold]
  · rw [hcold h, coldBoot_of_goodClock s b hgood, ← htold, ← hfitted]
    rfl

/-! ## Standby, READY and configuration requests (R288, R323, R421, R430) -/

/-- The field of READY, the speed and the width, with READY set. -/
theorem bitOf_ready {w : Word} {v : Nat} (hodd : v % 2 = 1) : bitOf (setFld w 0 9 v) 0 = true := by
  have hfield := fld_setFld_same (lo := 0) (len := 9) (by decide) w v
  rw [bitOf_eq_fld, decide_eq_true_eq]
  simp only [fld, bitsAt, Nat.shiftRight_zero] at hfield ⊢
  omega

section Configuration
variable {s : State} (hlink : s.pcie.linkUp = true) (hruns : clocksRun s = true)
include hlink hruns

theorem exec_configurationRequest_of_down (hdown : isUp s = false) (op : ConfigOp) :
    exec (.configurationRequest op) s = .next (emit s (.config true [])) := by
  have hserved : ¬ (!s.pcie.linkUp || !clocksRun s) = true := by rw [hlink, hruns]; exact Bool.false_ne_true
  exact (congrArg Host.Outcome.next (if_neg hserved)).trans (congrArg _ (if_neg (ne_true_of_eq_false hdown)))

theorem exec_configurationRequest_of_up (hup : isUp s = true) (op : ConfigOp) :
    exec (.configurationRequest op) s = .next (
      let t := emit (configure s op) (.config false (match op with | .read c => capability s c | _ => []))
      if tdiHeld s && coveredChange s op then tdiError t else t) := by
  have hserved : ¬ (!s.pcie.linkUp || !clocksRun s) = true := by rw [hlink, hruns]; exact Bool.false_ne_true
  exact (congrArg Host.Outcome.next (if_neg hserved)).trans (congrArg _ (if_pos hup))

end Configuration

/-- What STANDBY leaves: the core of a cold reset on the standby rail, without the host link. -/
def standbyOf (s : State) : State :=
  let c := coldCore s
  { c with power := { c.power with state := .standby, rails := standbyRails }
           pcie := { c.pcie with linkUp := false }, pins := { c.pins with sysFaultN := s.pins.sysFaultN, sysThermtripN := s.pins.sysThermtripN }
           failed := s.failed }

/-- Settles O49: standby and READY are their rows' own states, and a request configures the function where it is READY. -/
theorem bootAndConfigurationAct : Obligations.BootAndConfigurationAct := by
  intro s
  refine ⟨fun hon => ⟨standbyOf s, congrArg _ (if_neg (fun h => hon (eq_of_beq h))), rfl, rfl, rfl, rfl, rfl, rfl⟩,
    fun hdown hruns => ?ready, fun hlink hruns => ⟨fun hdown op => exec_configurationRequest_of_down hlink hruns hdown op,
      fun hup => ⟨fun cap => ?read, ?bars, fun m b e k p => ?enables, fun p r => ?sizes⟩⟩⟩
  case ready =>
    intro p u v w
    refine ⟨congrArg _ (if_neg (by rw [hdown, hruns]; exact Bool.false_ne_true)), ?_⟩
    have hstat : reg w .hifStat = setFld (regRaw u .hifStat) 0 9
        (if u.pcie.linkUp then 1 + (u.part.speed.val + 1) * 2 + 2 ^ u.part.lanes.val * 16 else 1) :=
      (reg_of_basic rfl w).trans (regRaw_setReg_same _ _ _)
    rw [isUp, hstat]
    refine bitOf_ready ?_
    split
    · omega
    · rfl
  case read =>
    rw [exec_configurationRequest_of_up hlink hruns hup]
    exact congrArg _ (if_neg (by rw [coveredChange, Bool.and_false]; exact Bool.false_ne_true))
  case bars =>
    rw [exec_configurationRequest_of_up hlink hruns hup, coveredChange, Bool.and_true]
    rfl
  case enables =>
    rw [exec_configurationRequest_of_up hlink hruns hup]
    rfl
  case sizes =>
    rw [exec_configurationRequest_of_up hlink hruns hup]
    exact congrArg _ (if_neg (by rw [coveredChange, Bool.and_false]; exact Bool.false_ne_true))

end Sys2Proof.Proofs
end

section
namespace Sys2Proof.Proofs
open Sys2Proof.Machine Sys2Proof.Laws

/-! ## Programs and telemetry (R303 to R311) -/

/-- Settles O30: both rows read one descriptor and run their command. -/
theorem programsAreRegisteredAndReleased : Obligations.ProgramsAreRegisteredAndReleased := by
  intro c s u o
  exact ⟨fun h => exec_of_ringRow (run := runRegister) rfl h, fun h => exec_of_ringRow (run := runCallRelease) rfl h⟩

/-- Settles O31: each telemetry row reads one descriptor and runs its command. -/
theorem telemetryRowsWriteRecords : Obligations.TelemetryRowsWriteRecords := by
  intro c s u o write r
  exact ⟨fun h => exec_of_ringRow (run := runAssayRead) rfl h, fun h => exec_of_ringRow (run := runAssayClear) rfl h,
    fun h => exec_of_ringRow (run := runAssayReadClear) rfl h, fun h => exec_of_ringRow (run := runCtxRead) rfl h⟩

/-! ## The ends of streams (R365, R371) -/

/-- The end of the stream that runs is the row's work. -/
theorem exec_snapshotStreamEnd {s : State} {x : Fin 64} (h : streamRuns s x.val = true) (failed : Bool) :
    exec (.snapshotStreamEnd x failed) s = .next (settle (if failed then failStream s x.val else endStream s x.val)) :=
  congrArg _ (if_pos h)

/-- Settles O36: the oldest stream ends by `endStream`, or by `failStream` where its write failed. -/
theorem snapshotStreamsEnd : Obligations.SnapshotStreamsEnd := by
  intro s x t hruns hstream
  constructor
  · rw [exec_snapshotStreamEnd hruns, if_neg Bool.false_ne_true, endStream, hstream] <;> rfl
  · rw [exec_snapshotStreamEnd hruns, if_pos rfl, failStream, hstream] <;> rfl

/-! ## Arbitration, gangs, misses and cancels (R329, R332, R335 to R339) -/

/-- Without a failed slab each row's work is that of its operation. -/
theorem rowRun_none (op : RingOp) : rowRun none op = runOp op := by
  cases op <;> rfl

section Arbitration
variable {s : State} {e : Fin 612} {o : OutCmd} (hwork : s.failed = false) (hmove : movingOn s e.val = none)
  (hgang : gangOn s e.val = none) (hfree : engineHeld s e.val = false) (hpick : arbitrate s e.val = some o)
include hwork hmove hgang hfree hpick

/-- A free engine starts the command that it picks, or reserves itself for it. -/
theorem exec_engineArbitration_of_pick (ev : List ArrEvent) : exec (.engineArbitration ⟨e, ev, none⟩) s = .next (
    if isGang o then reserveFor (strike s ev) o e.val else settle (attempt (runOp o.op) (strike s ev) o)) := by
  have hgoes : engineGoes s e.val ev = if isGang o then reserveFor (strike s ev) o e.val
      else settle (attempt (runOp o.op) (strike s ev) o) := by
    rw [engineGoes, hmove, hgang]
    dsimp only
    rw [if_neg (ne_true_of_eq_false hfree), hpick]
  exact congrArg Host.Outcome.next ((if_neg (ne_true_of_eq_false hwork)).trans hgoes)

end Arbitration

/-- A write of the cancel word where no host gate stands in its way. -/
theorem exec_cancel_of_serve {s : State} {tee : Bool} (h : hostGate s tee = .serve) (x : Fin 64) (n : Fin 16) (value mask : Word32) :
    exec (.cancel x n 8 tee (.write (leBytes 4 value.toNat ++ leBytes 4 mask.toNat))) s
      = .next (settle (cancelRing s x.val n.val value.toNat mask.toNat)) := by
  have hvalue : wordAt (leBytes 4 value.toNat ++ leBytes 4 mask.toNat) 0 = value := wordAt_of_bytes rfl
  have hmask : wordAt (leBytes 4 value.toNat ++ leBytes 4 mask.toNat) 4 = mask := wordAt_of_bytes rfl
  have hexec : exec (.cancel x n 8 tee (.write (leBytes 4 value.toNat ++ leBytes 4 mask.toNat))) s
      = .next (gated s tee fun s => settle (cancelRing s x.val n.val
        (wordAt (leBytes 4 value.toNat ++ leBytes 4 mask.toNat) 0).toNat (wordAt (leBytes 4 value.toNat ++ leBytes 4 mask.toNat) 4).toNat)) := rfl
  rw [hexec, gated_of_serve h, hvalue, hmask]

theorem exec_deadlineMiss_of_found {s : State} {x : Fin 64} {n : Fin 16} {pos : Word32} {o : OutCmd}
    (h : (s.outs.find? fun o => o.ctx == x.val && o.ring == n.val && o.pos == pos.toNat && !o.missed && deadlinePassed s o) = some o) :
    exec (.deadlineMiss x n pos) s = .next (settle (missAt s o)) := by
  change execDeadlineMiss x n pos s = _
  rw [execDeadlineMiss, h]

/-- Settles O32: arbitration picks, and the picked command starts or reserves; a miss and a cancel act where they find their command. -/
theorem schedulingEventsAct : Obligations.SchedulingEventsAct := by
  refine ⟨fun failsAt p hp c s h hfails => ?row, fun s => ⟨fun e ev o hwork hmove hgang hfree hpick => ?engine,
    fun x n pos o ho => exec_deadlineMiss_of_found ho, fun x n tee value mask hserve => exec_cancel_of_serve hserve x n value mask⟩⟩
  case row =>
    subst hfails
    rw [exec_of_starts hp h, rowRun_none]
  case engine =>
    have hexec := exec_engineArbitration_of_pick hwork hmove hgang hfree hpick ev
    have hstarts {v : State} {q : OutCmd} (h : startsNow v q = true) : attempt (runOp q.op) v q = runOp q.op (begun v q) (heldOf v q).2 :=
      attempt_of_startsNow _ h
    have hgang (h : 1 < (enginesOf o.d).length) : isGang o = true := decide_eq_true h
    refine ⟨fun hone hnow => ?_, fun hmany hrest => ?_, fun hmany hall hnow => ?_⟩
    · have hsingle : isGang o = false := decide_eq_false (Nat.not_lt.mpr hone)
      rw [hexec, hsingle, if_neg Bool.false_ne_true, hstarts hnow]
    · rw [hexec, hgang hmany, if_pos rfl, reserveFor, gangGoes, fullyHeld]
      exact congrArg _ (if_neg (ne_true_of_eq_false hrest))
    · rw [hexec, hgang hmany, if_pos rfl, reserveFor, gangGoes, fullyHeld]
      exact congrArg _ ((if_pos hall).trans (congrArg settle (hstarts hnow)))

end Sys2Proof.Proofs
end

section
namespace Sys2Proof.Proofs
open Sys2Proof.Machine Sys2Proof.Laws

/-! ## The links (R262 to R266) -/

theorem control_of_acceptsControl {s : State} {f : Frame} (h : acceptsControl s f = true) (act : State → State) :
    Machine.control s f act = settle (act (acked s f.subport.val f.src.val f.ack.toNat)) := by
  simp only [acceptsControl, Bool.and_eq_true, beq_iff_eq] at h
  obtain ⟨⟨⟨⟨hsub, hup⟩, hdst⟩, hcrc⟩, hversion⟩ := h
  simp only [Machine.control, hsub, hup, hdst, hcrc, hversion, bne_self_eq_false, Bool.or_self, Bool.not_true, Bool.false_eq_true,
    if_false, ne_eq, not_true_eq_false, decide_false]

theorem retransmit_of_sent {s : State} {sub pkg : Nat} {g : Sent} {gs : List Sent} (h : (conn s sub pkg).unacked = g :: gs) :
    retransmit s sub pkg =
      if rf s .peerRetry 16 5 < g.tries then connDown s sub pkg else (g :: gs).foldl (resend sub pkg) s := by
  simp only [retransmit, h]

theorem retransmit_of_none {s : State} {sub pkg : Nat} (h : (conn s sub pkg).unacked = []) : retransmit s sub pkg = s := by
  simp only [retransmit, h]

theorem execHello_of_heard {s : State} {f : Frame} {domain : Byte} {sender : HelloFrom} (hup : subUp s f.subport.val = true)
    (hcrc : f.crcOk = true) (hversion : f.version = 1) (hdomain : domain.toNat = ownDomain s) :
    execHello f domain sender s = .next (helloFrom s f.subport.val f.src.val sender.sub.val sender.mac) := by
  simp only [execHello, hup, hcrc, hversion, hdomain, bne_self_eq_false, Bool.or_self, Bool.not_true, Bool.false_eq_true,
    if_false]

theorem execFrameDiscarded_of_subUp {s : State} {f : Frame} (hup : subUp s f.subport.val = true) (why : Discard) :
    execFrameDiscarded f why s = .next (match why with
      | .foreign => bump s .peerCrcCnt
      | .crc => nakOnce (bump s .peerCrcCnt) f.subport.val f.src.val
      | .version | .seq => nakOnce s f.subport.val f.src.val) := by
  cases why <;> simp only [execFrameDiscarded, hup, Bool.not_true, Bool.false_eq_true, if_false]

/-- Settles O45: a connection that goes down is `connDown`, one that sends again is `retransmit`, and each row asks its one
condition first. -/
theorem linkEventsAct : Obligations.LinkEventsAct := by
  intro s f k pkg sub src down again nak
  have hagain (v : State) (a b : Nat) : retransmit v a b = again v a b := by
    cases h : (conn v a b).unacked with
    | nil => rw [retransmit_of_none h]; simp only [again, h]
    | cons g gs => rw [retransmit_of_sent h]; simp only [again, h]; rfl
  refine ⟨fun h => ⟨fun credits => ?_, ?_⟩,
    fun hup => ⟨fun domain peer mac hcrc hversion hdomain => ⟨fun hown => ?_, fun hother => ?_⟩, ?_, ?_, ?_, ?_⟩, fun hen hconsent hexists => ?_, fun p quanta hup => ?_, fun hup => ?_, rfl, rfl⟩
  · change execCreditAndAcknowledge f credits s = _
    rw [execCreditAndAcknowledge, control_of_acceptsControl h]
    rfl
  · change execNegativeAcknowledge f s = _
    rw [execNegativeAcknowledge, control_of_acceptsControl h, hagain]
    rfl
  · change execHello f domain ⟨peer, mac⟩ s = _
    rw [execHello_of_heard hup hcrc hversion hdomain, helloFrom, if_pos hown]
  · change execHello f domain ⟨peer, mac⟩ s = _
    rw [execHello_of_heard hup hcrc hversion hdomain, helloFrom, if_neg hother]
  · change execFrameDiscarded f .foreign s = _
    rw [execFrameDiscarded_of_subUp hup]
  · change execFrameDiscarded f .crc s = _
    rw [execFrameDiscarded_of_subUp hup]
    rfl
  · change execFrameDiscarded f .version s = _
    rw [execFrameDiscarded_of_subUp hup]
    rfl
  · change execFrameDiscarded f .seq s = _
    rw [execFrameDiscarded_of_subUp hup]
    rfl
  · change execSubPortUp k s = _
    simp only [execSubPortUp, hen, hconsent, hexists, Bool.and_self, if_true]
  · change execPauseFrame k p quanta s = _
    simp only [execPauseFrame, hup, Bool.not_true, Bool.false_eq_true, if_false]
    rfl
  · change execRetryTimeout k pkg s = _
    rw [execRetryTimeout, if_pos hup, hagain]

/-! ## Peers that are lost (R268, R277, R284) -/

theorem otherMember_of_member {s : State} {f : Frame} {g : Nat} (hmember : (grpMembers s g).contains f.src.val = true)
    (hother : f.src.val ≠ ownPkg s) : ((grpMembers s g).contains f.src.val && f.src.val != ownPkg s) = true :=
  otherMember_iff.mpr ⟨hmember, hother⟩

theorem exec_abandonNotice_of_member {s : State} {f : Frame} {g : Fin 64} (h : accepts s f = true)
    (hmember : (grpMembers (received s f 4) g.val).contains f.src.val = true) (hother : f.src.val ≠ ownPkg (received s f 4))
    (n : Word32) : exec (.abandonNotice f g n) s = .next (settle (heardAbandon (received s f 4) g.val n.toNat)) := by
  change execAbandonNotice f g n s = _
  rw [execAbandonNotice, accepted_of_accepts h, if_pos (otherMember_of_member hmember hother)]

theorem heardAbandon_of_numbered {s : State} {g n : Nat} {o : OutCmd} (h : collNumbered s g n = some o) :
    heardAbandon s g n = collFailed s o := by
  simp only [heardAbandon, h]

theorem heardAbandon_of_new {s : State} {g n : Nat} (h : collNumbered s g n = none)
    (hlive : cnt32 n (smGet 0 s.grpSeq g) < 2 ^ 31) (hnew : s.abandoned.contains (g, n) = false) :
    heardAbandon s g n = { s with abandoned := s.abandoned ++ [(g, n)] } := by
  simp only [heardAbandon, h, hlive, hnew, decide_true, Bool.not_false, Bool.and_self, if_true]

/-- Settles O46: each row comes to one function of the model (`postedFailed`, `failColls`, `heardAbandon`, `report`), and a
COLL that is lost is `collFailed`. -/
theorem lostPeersFailTheirWork : Obligations.LostPeersFailTheirWork := by
  intro s x g f lost
  refine ⟨fun tag p hp => ?_, rfl, ?_, fun code sev info h => ?_⟩
  · change execPostedWriteTimeout x tag s = _
    simp only [execPostedWriteTimeout, hp]
    rfl
  · intro n h u hmember hother
    rw [exec_abandonNotice_of_member h hmember hother]
    constructor
    · intro o ho
      rw [heardAbandon_of_numbered ho]
      rfl
    · intro hnone hlive hnew
      rw [heardAbandon_of_new hnone hlive hnew]
  · change execFaultReport f code sev info s = _
    rw [execFaultReport, accepted_of_accepts h]

end Sys2Proof.Proofs
end

section
namespace Sys2Proof.Proofs
open Sys2Proof.Machine Sys2Proof.Laws

/-! ## A command that has ended is outstanding no more (R306) -/

/-- No command of the number is outstanding. -/
def Ended (i : Nat) (s : State) : Prop := ∀ q ∈ s.outs, q.ident ≠ i

section Ended
variable {s t : State} {i : Nat}

theorem findOut_eq_none_iff : findOut s i = none ↔ Ended i s := by
  simp only [findOut, List.find?_eq_none, beq_iff_eq, Ended, ne_eq]

theorem Ended.of_outs (h : Ended i s) (houts : t.outs = s.outs) : Ended i t := by
  rw [Ended, houts]
  exact h

theorem ended_dropOut_self (s : State) (i : Nat) : Ended i (dropOut s i) := fun _ hq =>
  bne_iff_ne.mp (List.mem_filter.mp hq).2

theorem Ended.dropOut (h : Ended i s) (j : Nat) : Ended i (dropOut s j) := fun q hq => h q (List.mem_filter.mp hq).1

theorem Ended.putOut (h : Ended i s) (o : OutCmd) : Ended i (putOut s o) := by
  intro q hq
  obtain ⟨p, hp, rfl⟩ := List.mem_map.mp hq
  split
  next he => exact beq_iff_eq.mp he ▸ h p hp
  next => exact h p hp

theorem Ended.mark (h : Ended i s) (x bit tag : Nat) : Ended i (mark s x bit tag) := h.of_outs (addMark_outs s x _)

theorem Ended.markInc (h : Ended i s) (x n tag : Nat) : Ended i (markInc s x n tag) := h.of_outs (addMark_outs s x _)

theorem Ended.markOutcome (h : Ended i s) (o : OutCmd) (st : Nat) : Ended i (markOutcome s o st) :=
  h.of_outs (markOutcome_outs s o st)

theorem pumpFrames_outs (sub pkg : Nat) (fs : List Sent) :
    ∀ (s : State) (blocked : List Nat), (pumpFrames s sub pkg blocked fs).outs = s.outs := by
  induction fs with
  | nil => exact fun _ _ => rfl
  | cons f fs ih =>
    intro s blocked
    rw [pumpFrames]
    extract_lets
    split
    · exact ih _ _
    · exact ih _ _

theorem sendMessage_outs (s : State) (pkg vc typ cx tag poison : Nat) (payload : List Byte) :
    (sendMessage s pkg vc typ cx tag poison payload).outs = s.outs := by
  unfold sendMessage
  split
  · rfl
  · exact pumpFrames_outs _ _ _ _ _

theorem Ended.clAbandon (h : Ended i s) (o : OutCmd) : Ended i (clAbandon s o) := by
  unfold Machine.clAbandon
  split
  · exact List.foldlRecOn (motive := Ended i) _ _ h fun _ ht _ _ => ht.of_outs (sendMessage_outs _ _ _ _ _ _ _ _)
  · exact h

theorem Ended.markUnread (h : Ended i s) (c : OutCmd) : Ended i (markUnread s c) := by
  have hcounted : Ended i (match (unreadProgram s c).find? isCounted with
      | some d => Machine.markInc s c.ctx c.ring d.tag
      | none => s) := by
    split
    · exact h.markInc _ _ _
    · exact h
  unfold Machine.markUnread
  extract_lets ds u
  split
  · exact Ended.mark hcounted _ _ _
  · exact hcounted

theorem Ended.abandonProgram (h : Ended i s) (c : OutCmd) : Ended i (abandonProgram s c) :=
  Ended.markUnread (List.foldlRecOn (motive := Ended i) _ _ h fun _ ht _ _ =>
    ((ht.dropOut _).clAbandon _).markOutcome _ _) c

theorem Ended.callRecord (h : Ended i s) (c : OutCmd) (index status : Nat) : Ended i (callRecord s c index status) := by
  unfold Machine.callRecord
  split
  · extract_lets stop low u
    refine Ended.putOut ?_ _
    change Ended i (if stop then Machine.abandonProgram s c else s)
    split
    · exact h.abandonProgram c
    · exact h
  · exact h

theorem Ended.endUpward (k : Nat) : ∀ {s : State} (_ : Ended i s) (o : OutCmd) (status detail : Nat),
    Ended i (endUpward k s o status detail) := by
  induction k with
  | zero => exact fun h _ _ _ => h
  | succ k ih =>
    intro s h o status detail
    have hdropped := (h.dropOut o.ident).markOutcome o (withMiss o.missed status)
    rw [Machine.endUpward]
    split
    · exact hdropped.of_outs (putCompletion_outs _ _ _ _)
    · split
      · exact hdropped
      · have hrecorded := hdropped.callRecord
        extract_lets
        split
        · exact hrecorded _ _ _
        · split
          · exact ih (hrecorded _ _ _) _ _ _
          · exact hrecorded _ _ _

theorem dropOut_dropOut (s : State) (i : Nat) : dropOut (dropOut s i) i = dropOut s i := by
  simp only [Machine.dropOut, List.filter_filter, Bool.and_self]

/-- What completes is dropped first: it might as well have been dropped before. -/
theorem complete_dropOut (s : State) (o : OutCmd) (status detail : Nat) :
    complete (dropOut s o.ident) o status detail = complete s o status detail := by
  rw [complete, Machine.endUpward, dropOut_dropOut]
  rfl

theorem findOut_complete (s : State) (o : OutCmd) (status detail : Nat) :
    findOut (complete s o status detail) o.ident = none := by
  rw [← complete_dropOut]
  exact findOut_eq_none_iff.mpr ((ended_dropOut_self s o.ident).endUpward 6 o status detail)

end Ended

/-! ## Frames of peers (R267 to R271) -/

theorem exec_read_of_accepts {s : State} {f : Frame} (h : accepts s f = true) :
    exec (.read f) s = .next (settle (serveRead (received s f 0) f)) := by
  change execRead f s = _
  rw [execRead, accepted_of_accepts h]

theorem exec_postedWrite_of_accepts {s : State} {f : Frame} (h : accepts s f = true) :
    exec (.postedWrite f) s = .next (settle (serveWrite (received s f 0) f)) := by
  change execPostedWrite f s = _
  rw [execPostedWrite, accepted_of_accepts h]

theorem exec_readData_of_accepts {s : State} {f : Frame} (h : accepts s f = true) (failed : Bool) :
    exec (.readData f failed) s = .next (settle (takeData (received s f 1) f failed)) := by
  change execReadData f failed s = _
  rw [execReadData, accepted_of_accepts h]

theorem serveWrite_of_refused {s : State} {f : Frame} (h : remoteOk s f true f.payload.length = false) :
    serveWrite s f = answerWrite s f (some 0) := by
  simp only [serveWrite, h, Bool.not_false, if_true]

/-- A posted write whose pages are backed is stored, and answered with cause 1 where a line of it could not be. -/
theorem serveWrite_of_backed {s v : State} {f : Frame} (h : remoteOk s f true f.payload.length = true)
    (hbacked : backPages s f.ctx.val (writePages s [ext true f.addr.toNat f.payload.length]) = some v) :
    serveWrite s f =
      let r := storeCells (countBad v (popCount f.poison.toNat (min 64 ((f.payload.length + 63) / 64))))
        ((List.range f.payload.length).map fun i => (f.addr.toNat + i, f.payload.getD i 0))
        ((setBits f.poison.toNat 64).map fun i => f.addr.toNat / 64 + i)
      answerWrite r.1 f (if r.2 then some 1 else none) := by
  simp only [serveWrite, h, hbacked, Bool.not_true, Bool.false_eq_true, if_false]

theorem answerWrite_ite (s : State) (f : Frame) (b : Bool) (c : Nat) :
    answerWrite s f (if b then some c else none)
      = if b then answerWrite s f (some c) else answerWrite s f none := by
  cases b <;> rfl

theorem takeData_of_found {s : State} {f : Frame} {q : PeerRead} {o : OutCmd} (failed : Bool)
    (hq : ((ctx s f.ctx.val).reads.find? fun q => q.pkg == f.src.val && q.tag == f.tag.toNat) = some q)
    (ho : findOut (modCtx s f.ctx.val fun c => { c with reads := c.reads.filter fun t => t.tag != q.tag }) q.ident = some o) :
    takeData s f failed =
      let v := modCtx s f.ctx.val fun c => { c with reads := c.reads.filter fun t => t.tag != q.tag }
      if failed then endCommand v o stBounds
      else
        let got := (List.range q.len).foldl (fun m i => smSet 0 m (q.addr + i) (f.payload.getD i 0)) o.got
        let bad := f.poison.toNat.testBit 0
        let p := { o with got := got, gotBad := if bad then o.gotBad ++ [q.addr / 64] else o.gotBad }
        readsDone (putOut (if bad then countBad v 1 else v) p) p := by
  simp only [takeData, hq, ho]

/-! ## What members of a group send (R276) -/

/-- A part that has arrived is kept, with what the group's exchanges still need. -/
def keepPart (s : State) (f : Frame) (part : CollPart) : State :=
  forgetPast { s with collIn := s.collIn ++ [(f.src.val, part)] } part.group.val

theorem collArrives_of_none {s : State} {f : Frame} {part : CollPart}
    (h : waitingColl (keepPart s f part) part.group.val = none) : collArrives s f.src.val part = keepPart s f part := by
  simp only [keepPart] at h
  simp only [collArrives, h, keepPart]

theorem collArrives_of_some {s : State} {f : Frame} {part : CollPart} {o : OutCmd}
    (h : waitingColl (keepPart s f part) part.group.val = some o) :
    collArrives s f.src.val part = collGoes 4 (keepPart s f part) o.ident := by
  simp only [keepPart] at h
  simp only [collArrives, h, keepPart]

theorem clGroup_of_waitingColl {s : State} {g : Nat} {o : OutCmd} (h : waitingColl s g = some o) : clGroup o.d = g := by
  have hfound := List.find?_some h
  exact beq_iff_eq.mp (Bool.and_eq_true_iff.mp hfound).1

theorem collGoes_of_stuck {s : State} {o : OutCmd} {i : Nat} (ho : findOut s i = some o) (hstep : collStep s o = none) (k : Nat) :
    collGoes (k + 1) s i = s := by
  simp only [collGoes, ho, hstep]

/-- An exchange whose step ends its command goes no further. -/
theorem collGoes_of_ended {s t : State} {o : OutCmd} {i : Nat} (ho : findOut s i = some o) (hstep : collStep s o = some t)
    (hended : findOut t i = none) (k : Nat) : collGoes (k + 1) s i = t := by
  simp only [collGoes, ho, hstep]
  cases k with
  | zero => rfl
  | succ k => simp only [collGoes, hended]

theorem findOut_landColl (s : State) (o : OutCmd) (counted plain : Out) :
    findOut (landColl s o counted plain) o.ident = none := by
  unfold landColl endColl
  extract_lets
  exact findOut_complete _ _ _ _

theorem exec_collective_of_shake {s : State} {f : Frame} {part : CollPart} (h : accepts s f = true)
    (hbody : bodyBad part.body = none) (hmember : (grpMembers (received s f 4) part.group.val).contains f.src.val = true)
    (hother : f.src.val ≠ ownPkg (received s f 4)) :
    exec (.collective f part) s = .next (settle (collArrives (received s f 4) f.src.val part)) := by
  change execCollective f part s = _
  simp only [execCollective, accepted_of_accepts h, hbody, hmember, hother, Option.isNone_none, if_true, Bool.not_true,
    Bool.false_eq_true, if_false, decide_false, Bool.or_self]

theorem exec_collective_of_data {s : State} {f : Frame} {part : CollPart} {bad : List Nat} (h : accepts s f = true)
    (hbody : bodyBad part.body = some bad) (hmember : (grpMembers (received s f 0) part.group.val).contains f.src.val = true)
    (hother : f.src.val ≠ ownPkg (received s f 0)) :
    exec (.collective f part) s = .next (settle (
      if collAllowed (received s f 0) f part.group.val then collArrives (countBad (received s f 0) bad.length) f.src.val part
      else answerWrite (received s f 0) f (some 0))) := by
  change execCollective f part s = _
  simp only [execCollective, accepted_of_accepts h, hbody, hmember, hother, Option.isNone_some, Bool.not_true,
    Bool.false_eq_true, if_false, decide_false, Bool.or_self]

/-- The blocks that have arrived for a reduction, by rank. -/
def blocksIn (s : State) (o : OutCmd) (k : Nat) : Lines × Stats :=
  (blockOf (bodiesFrom s (clGroup o.d) o.seqNo ((clMembers s o.d).getD k 0))).getD (⟨[], []⟩, Stats.empty)

/-- Every other member's block is in. -/
def blocksWhole (s : State) (o : OutCmd) : Bool :=
  (clPeers s o.d).all fun p => (blockOf (bodiesFrom s (clGroup o.d) o.seqNo p)).isSome

theorem collStep_of_blocksMissing {s : State} {o : OutCmd} (hst : o.st = .coll .blocks) (h : blocksWhole s o = false) :
    collStep s o = none := by
  simp only [blocksWhole] at h
  simp only [collStep, hst, h, Bool.false_eq_true, if_false]

theorem collStep_of_blocksWhole {s : State} {o : OutCmd} {op : RingOp} (hst : o.st = .coll .blocks) (h : blocksWhole s o = true)
    (hmore : 1 < (clMembers s o.d).length) (hop : op = .allreduce ∨ op = .reduceScatter)
    (hspells : RingOp.ofDesc o.d = some op) :
    collStep s o = some (landColl s o (reduceOut (collView s o) o.ctx op o.d (blocksIn s o)) Out.empty) := by
  have hcollOp : collOp o = op := by rw [collOp, hspells, Option.getD_some]
  simp only [blocksWhole] at h
  simp only [collStep, hst, h, hcollOp, if_true]
  rcases hop with rfl | rfl <;> simp only [finishColl, Nat.not_le_of_lt hmore, if_false] <;> rfl

theorem collEval_of_reduction {d : Desc} {op : RingOp} (hop : op = .allreduce ∨ op = .reduceScatter)
    (h : RingOp.ofDesc d = some op) : collEval d = false := by
  have hcode : op.code.2 = d.opCode := congrArg Prod.snd (code_of_ofDesc h)
  rcases hop with rfl | rfl <;> rw [collEval, ← hcode] <;> rfl

theorem landColl_of_counted {o : OutCmd} (h : collEval o.d = false) (s : State) (out : Out) :
    landColl s o out Out.empty =
      let a := storeOut s o.ctx o.d.tag out.cells out.bad
      let z := countStats (landMarks a.1 o.ctx o.d.tag false out) o.ctx (tensor s o.ctx (clDTid o.d)) false out.stats
      let b := storeOut z o.ctx o.d.tag [] []
      forgetPast (complete (landMarks b.1 o.ctx o.d.tag false Out.empty) o (workStatus (!out.bad.isEmpty) (a.2 || b.2)) o.seqNo)
        (clGroup o.d) := by
  have hplain (c : Bool) : (c || !Out.empty.bad.isEmpty) = c := Bool.or_false c
  rw [landColl, h, endColl, hplain]
  rfl

/-- Settles O44: each row is its own function of the model over the received state; a reduction whose blocks are all in takes one
step, which lands it and ends its command. -/
theorem acceptedFramesAct : Obligations.AcceptedFramesAct := by
  intro s f h x u r
  refine ⟨exec_read_of_accepts h, ⟨fun hok => ?_, fun v hok hbacked => ?_⟩, ?_, fun p hp => ?_, fun cause => ⟨fun p hp => ?_,
    fun o hp ho => ?_, fun hp ho => ?_⟩, ?_⟩
  · rw [exec_postedWrite_of_accepts h, serveWrite_of_refused hok]
    rfl
  · rw [exec_postedWrite_of_accepts h, serveWrite_of_backed hok hbacked]
    simp only [answerWrite_ite]
    rfl
  · intro failed q o hq hor v bad p w ho
    rw [exec_readData_of_accepts h, takeData_of_found failed hq ho]
    rfl
  · change execWriteAcknowledge f s = _
    rw [execWriteAcknowledge, accepted_of_accepts h]
    simp only [r] at hp
    simp only [hp]
    rfl
  · change execWriteFailure f cause s = _
    rw [execWriteFailure, accepted_of_accepts h]
    simp only [r] at hp
    simp only [hp]
    rfl
  · change execWriteFailure f cause s = _
    rw [execWriteFailure, accepted_of_accepts h]
    simp only [r] at hp ho
    simp only [hp, ho]
    rfl
  · change execWriteFailure f cause s = _
    rw [execWriteFailure, accepted_of_accepts h]
    simp only [r] at hp ho
    simp only [hp, ho]
    rfl
  · intro part g member kept
    refine ⟨?_, fun bytes bad => ⟨fun last hbody hm hallowed => ?_, fun last hbody hm hallowed hnone => ?_, ?_⟩⟩
    · intro p hbody m hm hnone
      rw [exec_collective_of_shake h (by rw [hbody]; rfl) hm.1 hm.2, collArrives_of_none hnone]
      rfl
    · rw [exec_collective_of_data h (bad := bad) (by rw [hbody]; rfl) hm.1 hm.2, if_neg (Bool.eq_false_iff.mp hallowed)]
    · rw [exec_collective_of_data h (bad := bad) (by rw [hbody]; rfl) hm.1 hm.2, if_pos hallowed, collArrives_of_none hnone]
      rfl
    · intro counts o hbody hm hallowed w v ms block hwaits hfound hst
      have hgroup : clGroup o.d = g := clGroup_of_waitingColl hwaits
      have hexec : exec (.collective f part) s = .next (settle (collGoes 4 w o.ident)) := by
        rw [exec_collective_of_data h (bad := bad) (by rw [hbody]; rfl) hm.1 hm.2, if_pos hallowed, collArrives_of_some hwaits]
        rfl
      rw [hexec]
      constructor
      · intro hmissing
        rw [collGoes_of_stuck hfound (collStep_of_blocksMissing hst (by rw [blocksWhole, hgroup]; exact hmissing))]
      · intro hwhole hmore op hop hspells out a z b
        have hstep := collStep_of_blocksWhole (s := w) hst (by rw [blocksWhole, hgroup]; exact hwhole) hmore hop hspells
        rw [collGoes_of_ended hfound hstep (findOut_landColl _ _ _ _)]
        have hblocks : blocksIn w o = fun k => (block k).getD (⟨[], []⟩, Stats.empty) := by
          funext k
          rw [blocksIn, hgroup]
        rw [hblocks, landColl_of_counted (collEval_of_reduction hop hspells), hgroup]

end Sys2Proof.Proofs
end
